-- ==== Sys2Proof/Word.lean ====
section
/-! DEFINITION. The words of the KP418: octets of the site loop and loop times (00_scope.md, R1). -/

namespace Sys2Proof

/-- One octet of a frame on the site loop. -/
abbrev Byte := BitVec 8

/-- Loop time: an unsigned 32-bit count of microseconds, modulo 2³² (00_scope.md, Loop time). -/
abbrev LoopTime := BitVec 32

end Sys2Proof
end

