-- ==== Sys2Proof/Syntax.lean ====
section
/-! DEFINITION. The commands of the KP418: one constructor of Instr per row of spec/opcode_table.json, with its operands. -/

namespace Sys2Proof

/-- A rail, which is also a side, a wheel's side and a scanner (00_scope.md). -/
inductive Rail where
  | left
  | right
deriving DecidableEq, Repr

/-- A direction of travel (00_scope.md). -/
inductive Direction where
  | up
  | down
deriving DecidableEq, Repr

/-- A wheel transducer, WT1 to WT4 (00_scope.md). -/
inductive Transducer where
  | wt1
  | wt2
  | wt3
  | wt4
deriving DecidableEq, Repr

/-- A wayside output line, O1 to O4 (R141). -/
inductive Line where
  | o1
  | o2
  | o3
  | o4
deriving DecidableEq, Repr

/-- A rate of the site loop in Mbit/s (R187). -/
inductive Rate where
  | mbit16
  | mbit8
  | mbit4
  | mbit2
deriving DecidableEq, Repr

/-- The commands and events of the part, one constructor per row of the opcode table.

`dt` is the loop time in µs that has run since the step before (notes/assumptions/1.md).
`tag` and `args` are the tag and the argument bytes of a command frame (R192, R200). -/
inductive Instr where
  /-- POWER_ON (R182). -/
  | powerOn
  /-- READ_IDENTITY (R195). -/
  | readIdentity (dt : Nat) (tag : Byte) (args : List Byte)
  /-- READ_STATUS (R196). -/
  | readStatus (dt : Nat) (tag : Byte) (args : List Byte)
  /-- READ_LIVE (R197). -/
  | readLive (dt : Nat) (tag : Byte) (args : List Byte)
  /-- WRITE_TABLE (R193). -/
  | writeTable (dt : Nat) (tag : Byte) (args : List Byte)
  /-- READ_TABLE (R195). -/
  | readTable (dt : Nat) (tag : Byte) (args : List Byte)
  /-- START (R170). -/
  | start (dt : Nat) (tag : Byte) (args : List Byte)
  /-- STOP (R174). -/
  | stop (dt : Nat) (tag : Byte) (args : List Byte)
  /-- RESTART (R175). -/
  | restart (dt : Nat) (tag : Byte) (args : List Byte)
  /-- RUN_CHECK (R181). -/
  | runCheck (dt : Nat) (tag : Byte) (args : List Byte)
  /-- FORCE_CLOSE (R176). -/
  | forceClose (dt : Nat) (tag : Byte) (args : List Byte)
  /-- READ_ALARMS (R139). -/
  | readAlarms (dt : Nat) (tag : Byte) (args : List Byte)
  /-- READ_REPORT (R159). -/
  | readReport (dt : Nat) (tag : Byte) (args : List Byte)
  /-- RELEASE_REPORT (R162). -/
  | releaseReport (dt : Nat) (tag : Byte) (args : List Byte)
  /-- READ_SUMMARIES (R163). -/
  | readSummaries (dt : Nat) (tag : Byte) (args : List Byte)
  /-- ACK_EVENTS (R166). -/
  | ackEvents (dt : Nat) (tag : Byte) (args : List Byte)
  /-- SET_EVENT_MASK (R167). -/
  | setEventMask (dt : Nat) (tag : Byte) (args : List Byte)
  /-- CLEAR_OUTPUTS (R144). -/
  | clearOutputs (dt : Nat) (tag : Byte) (args : List Byte)
  /-- TEST_OUTPUTS (R147). -/
  | testOutputs (dt : Nat) (tag : Byte) (args : List Byte)
  /-- STORE_TABLES (R184). -/
  | storeTables (dt : Nat) (tag : Byte) (args : List Byte)
  /-- SET_STATION (R190). -/
  | setStation (dt : Nat) (tag : Byte) (args : List Byte)
  /-- STORE_COMPLETE (R184): `failed` is the index 0..14, in the order of R182, of the section that read back bad, if one did. -/
  | storeComplete (dt : Nat) (failed : Option Nat)
  /-- FRAME_RECEIVED (R188): the octets of a frame and the rate at which it was sent. -/
  | frameReceived (dt : Nat) (rate : Rate) (bytes : List Byte)
  /-- FRAME_SEND_COMPLETE (R189). -/
  | frameSendComplete (dt : Nat)
  /-- TIM_FRAME_DUE (R189). -/
  | timFrameDue (dt : Nat)
  /-- RPT_FRAME_SEND (R160). -/
  | rptFrameSend (dt : Nat)
  /-- EVT_FRAME_SEND (R165). -/
  | evtFrameSend (dt : Nat)
  /-- HOLD_OFF_EXPIRY (R165). -/
  | holdOffExpiry (dt : Nat)
  /-- QUIET_TIMER_EXPIRY (R187). -/
  | quietTimerExpiry (dt : Nat)
  /-- SEARCH_DWELL_EXPIRY (R187). -/
  | searchDwellExpiry (dt : Nat)
  /-- STRIP_ADDRESS_TIMEOUT (R190). -/
  | stripAddressTimeout (dt : Nat)
  /-- SUPERVISION_TIMER_EXPIRY (R198). -/
  | supervisionTimerExpiry (dt : Nat)
  /-- NODE_SILENCE_EXPIRY (R6): `node` is the node-table entry, 1..12. -/
  | nodeSilenceExpiry (dt : Nat) (node : Nat)
  /-- AMBIENT_GATE_END (R16). -/
  | ambientGateEnd (dt : Nat)
  /-- ORDER_RECORD_AGED (R11): `node` is the node-table entry, 1..12. -/
  | orderRecordAged (dt : Nat) (node : Nat)
  /-- RELEASE_RECORD_AGED (R18). -/
  | releaseRecordAged (dt : Nat)
  /-- TIME_ORDER_RECORD_AGED (R30). -/
  | timeOrderRecordAged (dt : Nat)
  /-- DOUBLE_PULSE_RECORD_AGED (R31). -/
  | doublePulseRecordAged (dt : Nat) (wt : Transducer) (dir : Direction)
  /-- FEEDBACK_RECORD_AGED (R121). -/
  | feedbackRecordAged (dt : Nat) (rail : Rail)
  /-- DELAY_LINE_RELEASE (R19). -/
  | delayLineRelease (dt : Nat)
  /-- CROSSING_TAKE (R26). -/
  | crossingTake (dt : Nat)
  /-- STANDING_TIMER_EXPIRY (R43). -/
  | standingTimerExpiry (dt : Nat)
  /-- CLEAR_HOLD_EXPIRY (R44). -/
  | clearHoldExpiry (dt : Nat)
  /-- LOSS_TIMER_EXPIRY (R176). -/
  | lossTimerExpiry (dt : Nat)
  /-- CLOSING_STEPS (R177). -/
  | closingSteps (dt : Nat)
  /-- MARK_TAKEN (R47). -/
  | markTaken (dt : Nat)
  /-- PULSE_END (R146). -/
  | pulseEnd (dt : Nat) (line : Line)
  /-- HOLD_TIMER_EXPIRY (R143). -/
  | holdTimerExpiry (dt : Nat) (line : Line)
  /-- ENVELOPE_EDGE (R145). -/
  | envelopeEdge (dt : Nat) (line : Line)
  /-- READBACK_INPUT_CHANGE (R148): the line's readback input now shows `high`. -/
  | readbackInputChange (dt : Nat) (line : Line) (high : Bool)
  /-- READBACK_TIMER_EXPIRY (R148). -/
  | readbackTimerExpiry (dt : Nat) (line : Line)
  /-- APPROACH_ASSERTION (R117). -/
  | approachAssertion (dt : Nat)
  /-- APPROACH_RELEASE (R118). -/
  | approachRelease (dt : Nat)
  /-- CLOSE_TIMER_EXPIRY (R118). -/
  | closeTimerExpiry (dt : Nat)
  /-- SHUTTER_FEEDBACK_CHANGE (R119): the scanner's feedback input now shows `isOpen`. -/
  | shutterFeedbackChange (dt : Nat) (rail : Rail) (isOpen : Bool)
  /-- FEEDBACK_OPEN_TIMER_EXPIRY (R119). -/
  | feedbackOpenTimerExpiry (dt : Nat) (rail : Rail)
  /-- FEEDBACK_CLOSE_TIMER_EXPIRY (R119). -/
  | feedbackCloseTimerExpiry (dt : Nat) (rail : Rail)
  /-- POWER_SETTLE_END (R178). -/
  | powerSettleEnd (dt : Nat)
  /-- SETTLE_WAIT_END (R178). -/
  | settleWaitEnd (dt : Nat)
  /-- CHECK_REFERENCE_PHASE (R179). -/
  | checkReferencePhase (dt : Nat)
  /-- CHECK_END (R179). -/
  | checkEnd (dt : Nat)
  /-- INTERVAL_TIMER_EXPIRY (R181). -/
  | intervalTimerExpiry (dt : Nat)
  /-- DUE_CHECK_START (R181). -/
  | dueCheckStart (dt : Nat)
  /-- POWER_LOSS (R184): `writing` is the index 0..14, in the order of R182, of the section being written if a store is in progress. -/
  | powerLoss (dt : Nat) (writing : Nat)
  /-- AMBIENT_OSCILLATOR_CYCLE (R16). -/
  | ambientOscillatorCycle (dt : Nat)
deriving DecidableEq, Repr

end Sys2Proof
end

