-- ==== Sys2Proof/Decode.lean ====
section
/-! DEFINITION. Command words. No row of spec/opcode_table.json gives bits, so no word spells a command here; the CMD frames of the site loop are read in Machine/Codec.lean. -/

namespace Sys2Proof

/-- The command a word of the table spells: none, since no row of the table gives bits (spec/98_reader.md, n_rows_with_fields 0). -/
def decodeTableWord (_nbits _w : Nat) : Option Instr := none

end Sys2Proof
end

