-- ==== Sys2Proof/Config.lean ====
section
/-! DEFINITION. What the KP418 fixes: the fixed entries of the manual's parameter tables. Durations are in µs of loop time. The manual leaves no value of the part free, so no opaque constant stands here. -/

namespace Sys2Proof.Config

/-- Node silence limit, 1 s (R6). -/
def nodeSilence : Nat := 1000000
/-- Ambient gate, 250 ms (R16). -/
def ambientGate : Nat := 250000
/-- The largest count of a gate (R16). -/
def gateCountMax : Nat := 65535
/-- Depth of the ambient history (R17). -/
def ambientDepth : Nat := 4
/-- Sample delay line depth, in frames (R18). -/
def delayLineDepth : Nat := 256
/-- Crossing queue depth (R26). -/
def crossingQueueDepth : Nat := 64
/-- Axle records (R36). -/
def axleRecords : Nat := 1024
/-- The largest axle total N (R33). -/
def axleTotalMax : Nat := 65535
/-- Mark schedule depth (R46). -/
def markScheduleDepth : Nat := 32
/-- Creep limit in mm/s (R39). -/
def creepLimit : Nat := 100
/-- Context table depth (R54). -/
def contextTableDepth : Nat := 48
/-- MARK windows of a zone set (R50, check 7). -/
def markWindowsMax : Nat := 6
/-- Vehicle list depth (R93). -/
def vehicleListDepth : Nat := 512
/-- Passage alarm list depth (R135). -/
def alarmListDepth : Nat := 128
/-- Summary ring depth (R163). -/
def summaryRingDepth : Nat := 16
/-- Records per RPT frame (R160). -/
def rptRecords : Nat := 16
/-- Settle time of the settled judgment, 100 ms (R121). -/
def settleTime : Nat := 100000
/-- Feedback timeout, 500 ms (R119). -/
def feedbackTimeout : Nat := 500000
/-- Close delay after the entry into CLOSING, 2 s (R118). -/
def closeDelayClosing : Nat := 2000000
/-- Close delay after an approach release, 60 s (R118). -/
def closeDelayApproach : Nat := 60000000
/-- Changes held in a feedback record (R121). -/
def feedbackDepth : Nat := 8
/-- Least readings of a side for the outlier check (R129). -/
def outlierMinimum : Nat := 8
/-- Readback time, 40 ms (R148). -/
def readbackTime : Nat := 40000
/-- Envelope period, 1 s (R145). -/
def envelopePeriod : Nat := 1000000
/-- Power settle, 60 s from power-on (R178). -/
def powerSettle : Nat := 60000000
/-- Settle of a check entered by START or RESTART, 5 s (R178). -/
def commandSettle : Nat := 5000000
/-- Baseline capture period, 2 s (R179). -/
def capturePeriod : Nat := 2000000
/-- Reference period, 1 s (R179, R131). -/
def referencePeriod : Nat := 1000000
/-- Longest sample frame, 8 ms (R179). -/
def longestSampleFrame : Nat := 8000
/-- Loop loss limit in PASSAGE, 10 s (R176). -/
def lossLimit : Nat := 10000000
/-- Search dwell, 100 ms a rate (R187). -/
def searchDwell : Nat := 100000
/-- TIM period, 10 ms (R189). -/
def timPeriod : Nat := 10000
/-- Span after which a kept strip address is dropped, 100 ms (R190). -/
def stripTime : Nat := 100000
/-- Command queue depth (R191). -/
def commandQueueDepth : Nat := 4
/-- Forwarding queue depth (R189). -/
def forwardDepth : Nat := 16
/-- REFUSED_BUSY answers that may wait (R189). -/
def busyAnswers : Nat := 3
/-- The longest payload, in 32-bit words (R188, R200). -/
def payloadWordsMax : Nat := 1024
/-- Broadcast destination (00_scope.md, Stations). -/
def broadcast : Nat := 255
/-- Station of a blank or bad identity section (R182, R190). -/
def blankStation : Nat := 120
/-- The age at which a recorded loop time is given up, 2³⁰ µs (R1). -/
def recordAge : Nat := 1073741824
/-- The largest value of a 16-bit counter (R22, R35, R48, R66, R135, R199). -/
def counterMax : Nat := 65535
/-- The largest value of a 32-bit count (R28, R57, R102, R150). -/
def countMax : Nat := 4294967295
/-- The site edge in mm (R23). -/
def siteEdge : Int := 30000
/-- The force limits of the part (R12). -/
def forceMin : Int := -32768
/-- The upper force limit (R12). -/
def forceMax : Int := 32767

/-- One entry of the site parameters or threshold table: its range and its default. -/
structure Limit where
  low : Nat
  high : Nat
  default : Nat
deriving DecidableEq, Repr

/-- The twenty site parameters, entries 1..20 in order (R194). -/
def siteLimits : List Limit :=
  [⟨5, 100, 20⟩, ⟨1, 32767, 2000⟩, ⟨1, 65535, 400⟩, ⟨500, 3000, 1100⟩, ⟨10000, 65535, 45000⟩,
   ⟨500, 30000, 4000⟩, ⟨10, 600, 30⟩, ⟨10, 1000, 150⟩, ⟨2, 64, 8⟩, ⟨0, 65535, 1400⟩] ++
  [⟨0, 65535, 25000⟩, ⟨1, 16, 3⟩, ⟨0, 1440, 30⟩, ⟨2, 100, 100⟩, ⟨50, 2000, 300⟩,
   ⟨1, 126, 1⟩, ⟨0, 1, 0⟩, ⟨10, 100, 100⟩, ⟨1, 255, 10⟩, ⟨1, 255, 10⟩]

/-- The fifteen thresholds, entries 1..15 in order (R133). -/
def thresholdLimits : List Limit :=
  [⟨0, 65534, 3900⟩, ⟨0, 1000, 150⟩, ⟨0, 1000, 250⟩, ⟨0, 32767, 2500⟩, ⟨0, 32767, 4500⟩,
   ⟨1, 4294967295, 20000⟩, ⟨1, 65535, 3000⟩, ⟨1, 32767, 200⟩] ++
  [⟨0, 65535, 8300⟩, ⟨1, 3000, 700⟩, ⟨1, 2500, 1500⟩, ⟨1, 3000, 450⟩, ⟨1, 3000, 300⟩,
   ⟨1, 3000, 250⟩, ⟨10, 100, 40⟩]

/-- Default positions of WT1..WT4 in mm (00_scope.md; R23's parameter table). -/
def geometryDefault : List (Option Int) :=
  [some (-18000), some (-6000), some 6000, some 18000]

end Sys2Proof.Config
end

