-- ==== Sys2Proof/Machine/State.lean ====
section
/-! DEFINITION. The state of the KP418 as plain data, block by block, and its value after reset. -/

namespace Sys2Proof.Machine

/-! ### Small collections of fixed size -/

/-- One value for each rail. -/
structure PerRail (α : Type) where
  left : α
  right : α
deriving DecidableEq, Repr

/-- One value for each wayside output line. -/
structure PerLine (α : Type) where
  o1 : α
  o2 : α
  o3 : α
  o4 : α
deriving DecidableEq, Repr

/-- One value for each wheel transducer. -/
structure PerWt (α : Type) where
  wt1 : α
  wt2 : α
  wt3 : α
  wt4 : α
deriving DecidableEq, Repr

/-- One value for each direction. -/
structure PerDir (α : Type) where
  up : α
  down : α
deriving DecidableEq, Repr

/-! ### Tables (R5, R7, R15, R23, R49, R68, R85, R133, R141, R194) -/

/-- What a node sends (R5). -/
inductive NodeKind where
  | cribDigitizer
  | scannerDigitizer
  | transducer
deriving DecidableEq, Repr

/-- A used entry of the node table (R5). -/
structure NodeEntry where
  station : Nat
  kind : NodeKind
  channelCount : Nat
deriving DecidableEq, Repr

/-- The kind of a channel (R7). -/
inductive ChannelKind where
  | crib
  | scanner
  | ambient
deriving DecidableEq, Repr

/-- A used entry of the channel table (R7); `node` is a node-table entry number, or none. -/
structure ChannelEntry where
  node : Option Nat
  index : Nat
  kind : ChannelKind
  rail : Rail
  platLow : Int
  platHigh : Int
  gain : Nat
  shift : Nat
  conv : Nat
deriving DecidableEq, Repr

/-- The kind of a window (R49). -/
inductive WindowKind where
  | weigh
  | impact
  | scan
  | mark
deriving DecidableEq, Repr

/-- A used entry of a zone set (R49). -/
structure Window where
  lower : Int
  upper : Int
  kind : WindowKind
  rail : Rail
  channels : List Nat
  nearMark : Bool
  farMark : Bool
deriving DecidableEq, Repr

/-- A point of a conversion table (R15). -/
structure ConvPoint where
  input : Int
  output : Int
deriving DecidableEq, Repr

/-- A set point of the speed correction table (R68). -/
structure SpeedPoint where
  speed : Nat
  factor : Nat
deriving DecidableEq, Repr

/-- A used entry of the vehicle type table (R85); `spacings` are s₁..s₇. -/
structure VehicleType where
  code : Nat
  axles : Nat
  spacings : List Nat
  tolerance : Nat
  gap : Nat
  maxGross : Nat
deriving DecidableEq, Repr

/-- A subset of the six alarm classes (R141). -/
structure ClassSet where
  critical : Bool
  alarm : Bool
  watch : Bool
  equipment : Bool
  presence : Bool
  link : Bool
deriving DecidableEq, Repr

/-- A subset of the three envelope frequencies (R141). -/
structure EnvelopeSet where
  hz1 : Bool
  hz2 : Bool
  hz4 : Bool
deriving DecidableEq, Repr

/-- The mode of an output line (R141). -/
inductive OutputMode where
  | steady
  | envelope
  | pulse
deriving DecidableEq, Repr

/-- An entry of the output table (R141): hold time in s, pulse length in ms. -/
structure OutputEntry where
  classes : ClassSet
  mode : OutputMode
  envelope : EnvelopeSet
  latched : Bool
  hold : Nat
  pulseWindow : Option Nat
  pulseLength : Nat
deriving DecidableEq, Repr

/-- The working tables with their INVALID marks, the marks in the order of the table identifiers of R193. -/
structure Tables where
  site : List Nat
  geometry : List (Option Int)
  nodes : List (Option NodeEntry)
  channels : List (Option ChannelEntry)
  conv : List (List (Option ConvPoint))
  zoneU : List (Option Window)
  zoneD : List (Option Window)
  speed : List (Option SpeedPoint)
  vehicle : List (Option VehicleType)
  threshold : List Nat
  output : List OutputEntry
deriving DecidableEq, Repr

/-! ### Settings store (R182, R184) -/

/-- The condition of a section of the settings store (R182). -/
inductive SectionCond where
  | blank
  | good
  | bad
deriving DecidableEq, Repr

/-- The identity section (R182). -/
structure Identity where
  station : Nat
  fixed : Bool
  autoArm : Bool
deriving DecidableEq, Repr

/-- The non-volatile image: the content of the fifteen sections, and in the order of R182 the CRC-16 each carries, none for a section that has never been written (notes/assumptions/29.md). -/
structure SettingsStore where
  checks : List (Option (BitVec 16))
  tables : Tables
  identity : Identity
deriving DecidableEq, Repr

/-! ### Site Control (R169 to R185) -/

/-- The site state (R169). -/
inductive SiteState where
  | offline
  | checking
  | armed
  | passage
  | closing
deriving DecidableEq, Repr

/-- The phase of a running channel check (R178). -/
inductive CheckPhase where
  | settle
  | capture
  | reference
deriving DecidableEq, Repr

/-- Why a channel check was abandoned (R180). -/
inductive AbortReason where
  | train
  | approach
  | stop
  | loop
deriving DecidableEq, Repr

/-- The check status (R178). -/
inductive CheckStatus where
  | idle
  | run (phase : CheckPhase)
  | ended
  | aborted (reason : AbortReason)
deriving DecidableEq, Repr

/-- The cause of a validation failure (R171). -/
inductive FailureCause where
  | markedInvalid
  | checkFailed
deriving DecidableEq, Repr

/-- The four items of a validation failure (R171); `table` is the identifier of R193. -/
structure Failure where
  table : Nat
  entry : Option Nat
  check : Nat
  cause : FailureCause
deriving DecidableEq, Repr

/-- The last validation result (R171). -/
inductive Validation where
  | none
  | passed
  | failed (f : Failure)
deriving DecidableEq, Repr

/-- The content a STORE_TABLES in progress writes (R184). -/
structure StoreJob where
  tables : Tables
  identity : Identity
deriving DecidableEq, Repr

/-- Site Control. Timers hold the µs left while they run. -/
structure Scu where
  site : SiteState
  siteFresh : Bool
  check : CheckStatus
  checkTime : Option LoopTime
  settle : Option Nat
  powerTimer : Option Nat
  powerMark : Bool
  sampleStart : LoopTime
  phaseTimer : Option Nat
  endTimer : Option Nat
  interval : Option Nat
  due : Bool
  loss : Option Nat
  validation : Validation
  autoArm : Bool
  store : Option StoreJob
deriving DecidableEq, Repr

/-- The committed values (R24, R67, R170, R186): the site parameters as loaded at power-on, those of the last commit, and t_dp. -/
structure Commit where
  loaded : List Nat
  site : Option (List Nat)
  tdp : Option Nat
deriving DecidableEq, Repr

/-! ### Loop Interface (R186 to R199) -/

/-- A command waiting in the command queue (R191); `short` when its stated argument length exceeds its payload. -/
structure Cmd where
  code : Nat
  tag : Byte
  args : List Byte
  short : Bool
deriving DecidableEq, Repr

/-- The section of a report (R156 to R158). -/
inductive Section where
  | header
  | axles
  | vehicles
  | alarms
deriving DecidableEq, Repr

/-- A report read in progress (R160): what is asked, how much has been sent, and whether a takeover cut it. -/
structure ReadJob where
  slot : Nat
  passage : Nat
  part : Section
  first : Nat
  total : Nat
  sent : Nat
  cut : Bool
deriving DecidableEq, Repr

/-- The operation a command in progress waits for (R192). -/
inductive Job where
  | stop
  | store
  | read (r : ReadJob)
deriving DecidableEq, Repr

/-- The command in progress (R192); `lost` once a loss of lock has taken its answer. -/
structure InProgress where
  job : Job
  tag : Byte
  lost : Bool
deriving DecidableEq, Repr

/-- The kinds of own frame that wait in the order handed over (R189). -/
inductive OwnKind where
  | ans
  | rpt
  | evt
deriving DecidableEq, Repr

/-- An own frame waiting for the transmitter (R189); `busy` marks a REFUSED_BUSY answer, `newStation` the answer DONE of a SET_STATION (R190). -/
structure OwnFrame where
  kind : OwnKind
  dest : Nat
  payload : List Byte
  busy : Bool
  newStation : Option Nat
deriving DecidableEq, Repr

/-- What the frame being sent is (R189). -/
inductive SentKind where
  | forwarded
  | tim
  | own (k : OwnKind)
deriving DecidableEq, Repr

/-- The frame being sent, with its octets on the ring (R189). -/
structure Sending where
  kind : SentKind
  bytes : List Byte
deriving DecidableEq, Repr

/-- The kept previous address with its 100 ms timer and the octets of the first frame sent under the new address (R190; notes/assumptions/50.md). -/
structure Strip where
  station : Nat
  timer : Option Nat
  first : List Byte
deriving DecidableEq, Repr

/-- The counters of LIF (R199). -/
structure LifCounters where
  badFrames : Nat
  unexpected : Nat
  foreign : Nat
  malformed : Nat
  refusedBusy : Nat
  answersLost : Nat
  loopLosses : Nat
  forwardOverflows : Nat
deriving DecidableEq, Repr

/-- The Loop Interface. -/
structure Lif where
  locked : Bool
  rate : Rate
  dwell : Option Nat
  quiet : Option Nat
  loopLost : Bool
  station : Nat
  fixed : Bool
  strip : Option Strip
  queue : List Cmd
  inProgress : Option InProgress
  sending : Option Sending
  timWaiting : Bool
  timTimer : Option Nat
  own : List OwnFrame
  forward : List (List Byte)
  linkLost : Bool
  supTimer : Option Nat
  counters : LifCounters
deriving DecidableEq, Repr

/-! ### Sample Intake (R4 to R22) -/

/-- The order record of a node (R11). -/
structure OrderRecord where
  first : LoopTime
  length : Nat
deriving DecidableEq, Repr

/-- The presence state, silence timer and order record of a node (R6, R11). -/
structure NodeState where
  silent : Bool
  timer : Option Nat
  order : Option OrderRecord
deriving DecidableEq, Repr

/-- Recorded channel health (R8). -/
inductive Health where
  | notReady
  | ok
  | suspect
  | faulty
deriving DecidableEq, Repr

/-- A baseline capture in the making (R14). -/
structure Capture where
  count : Nat
  sum : Int
  low : Int
  high : Int
deriving DecidableEq, Repr

/-- A reference gathering in the making (R131). -/
structure Gather where
  count : Nat
  sum : Int
deriving DecidableEq, Repr

/-- A channel's recorded health, failure run, baseline with its fresh flag, and pending capture and gathering (R8, R13, R14, R131). -/
structure ChannelState where
  health : Health
  run : Nat
  baseline : Option Int
  fresh : Bool
  capture : Option Capture
  gather : Option Gather
deriving DecidableEq, Repr

/-- A calibrated sample in the delay line (R12, R15, R19). -/
structure LineSample where
  channel : Nat
  time : LoopTime
  raw : Int
  force : Option Int
  temp : Option Int
  overrange : Bool
deriving DecidableEq, Repr

/-- A frame in the sample delay line (R18); `node` is the node-table entry number, and the samples stand in the order of R19. -/
structure LineFrame where
  node : Nat
  last : LoopTime
  gap : Bool
  samples : List LineSample
deriving DecidableEq, Repr

/-- The counters of SIN (R22). -/
structure SinCounters where
  unknownNode : Nat
  malformed : Nat
  order : Nat
  late : Nat
  early : Nat
deriving DecidableEq, Repr

/-- Sample Intake: nodes 1..12, channels 0..31, the ambient converter and the delay line. -/
structure Sin where
  nodes : List NodeState
  channels : List ChannelState
  gateLeft : Nat
  gateCount : Nat
  ambientFault : Bool
  history : List Int
  ambientFresh : Bool
  line : List LineFrame
  released : Option LoopTime
  counters : SinCounters
deriving DecidableEq, Repr

/-! ### Axle Tracker (R23 to R48) -/

/-- A crossing in the crossing queue (R25, R26). -/
structure Crossing where
  wt : Transducer
  dir : Direction
  time : LoopTime
  arrival : LoopTime
deriving DecidableEq, Repr

/-- The site counters of AXT (R48). -/
structure AxtCounters where
  offline : Nat
  stray : Nat
  source : Nat
  malformed : Nat
  overflow : Nat
deriving DecidableEq, Repr

/-- The part of the Axle Tracker that outlives a passage (R26, R28, R48). -/
structure Axt where
  queue : List Crossing
  carried : Bool
  nextPassage : Nat
  lastSpeed : Option Nat
  lastSpeedFresh : Bool
  countsFresh : Bool
  counters : AxtCounters
deriving DecidableEq, Repr

/-- An entry of an axle's crossing history (R38); `aged` once loop time has run 2³⁰ µs past its time (R40). -/
structure HistEntry where
  wt : Transducer
  dir : Direction
  time : LoopTime
  speed : Option Nat
  aged : Bool
deriving DecidableEq, Repr

/-- An axle's first applied forward crossing of the reference transducer (R39, R42); `age` is the µs that loop time has run past its time, held at 2³² (notes/assumptions/27.md). -/
structure RefCrossing where
  time : LoopTime
  age : Int
deriving DecidableEq, Repr

/-- The spacing state of an axle (R36, R42). -/
inductive Spacing where
  | pending
  | absent
  | value (mm : Nat)
deriving DecidableEq, Repr

/-- A bound of a MARK window (R46). -/
inductive Bound where
  | near
  | far
deriving DecidableEq, Repr

/-- An entry of an axle's mark list (R47). -/
structure MarkRecord where
  window : Nat
  bound : Bound
  time : LoopTime
deriving DecidableEq, Repr

/-- An entry of the mark schedule (R46). -/
structure MarkEntry where
  axle : Nat
  window : Nat
  bound : Bound
  time : LoopTime
deriving DecidableEq, Repr

/-! ### Parts of an axle record (R59, R77, R106, R125) -/

/-- The settlement state of a part, also the source state of an alarm (R62, R134). -/
inductive Settlement where
  | provisional
  | confirmed
  | unsteady
  | unconfirmed
deriving DecidableEq, Repr

/-- The context flags (R53). -/
structure ContextFlags where
  gap : Bool
  overrange : Bool
  suspect : Bool
  unsettled : Bool
deriving DecidableEq, Repr

/-- The basis crossing of a context and of the part made from it (R53, R62). -/
structure Basis where
  wt : Transducer
  time : LoopTime
  speed : Nat
deriving DecidableEq, Repr

/-- What WIN adds to every part (R59), with the basis crossing that R62 tests. -/
structure PartCommon where
  settlement : Settlement
  closeTime : LoopTime
  openSpeed : Nat
  flags : ContextFlags
  posError : Option Nat
  basis : Basis
deriving DecidableEq, Repr

/-- Why a load part holds no wheel load (R74). -/
inductive NoLoad where
  | thin
  | notReady
  | excluded
deriving DecidableEq, Repr

/-- A load part (R77). -/
structure LoadPart where
  common : PartCommon
  load : Option Int
  raw : Option Int
  factor : Option Nat
  reason : Option NoLoad
  valid : Nat
  thin : Nat
  excluded : Nat
  dropHigh : Option Nat
  dropLow : Option Nat
  offBand : Bool
  clamped : Bool
deriving DecidableEq, Repr

/-- The impact level (R105). -/
inductive Level where
  | none
  | watch
  | alarm
  | critical
deriving DecidableEq, Repr

/-- Why an impact part holds no wheel peak (R101). -/
inductive NoPeak where
  | notReady
  | excluded
  | noSamples
deriving DecidableEq, Repr

/-- Why a dynamic ratio is absent (R103). -/
inductive NoRatio where
  | noLoad
  | lightLoad
deriving DecidableEq, Repr

/-- A peak with its channel and its time (R101, R124). -/
structure Peak where
  value : Int
  channel : Nat
  time : LoopTime
deriving DecidableEq, Repr

/-- A dynamic ratio with the load it rests on (R103). -/
structure Ratio where
  value : Nat
  load : Int
deriving DecidableEq, Repr

/-- An impact part (R106). -/
structure ImpactPart where
  common : PartCommon
  peak : Option Peak
  dose : Option Nat
  ratio : Option Ratio
  noRatio : Option NoRatio
  level : Level
  noPeak : Option NoPeak
  contributing : Nat
  overWarning : Nat
  lowSpeed : Bool
  levelHeld : Bool
deriving DecidableEq, Repr

/-- Why a bearing part holds no reading (R124). -/
inductive NoReading where
  | excluded
  | notSettled
  | thin
deriving DecidableEq, Repr

/-- A bearing part (R125). -/
structure BearingPart where
  common : PartCommon
  peak : Option Peak
  rise : Option Int
  hot : Bool
  noReading : Option NoReading
  contributing : Nat
  notOpen : Bool
deriving DecidableEq, Repr

/-- The record of one axle (R36, R54, R60, R77 to R81, R93); `lostWindows` are its lost-context marks. -/
structure AxleRecord where
  number : Nat
  history : List HistEntry
  reversed : Bool
  speed : Option Nat
  reference : Option RefCrossing
  spacing : Spacing
  marks : List MarkRecord
  finalSegment : Nat
  load : PerRail (Option LoadPart)
  impact : PerRail (Option ImpactPart)
  bearing : PerRail (Option BearingPart)
  axleLoad : Option Nat
  negative : Bool
  imbalance : Option Nat
  loadSettlement : Option Settlement
  lostWeigh : PerRail Bool
  lostImpact : PerRail Bool
  lostScan : PerRail Bool
  reversedInWindow : Bool
  vehicle : Option Nat
  lostWindows : List Nat
deriving DecidableEq, Repr

/-! ### Window Unit (R49 to R66) -/

/-- Why a channel of a context is excluded (R53, R57). -/
inductive Exclusion where
  | notReady
  | excluded
deriving DecidableEq, Repr

/-- A channel entry of a context (R53); `fixed` when excluded for the context's life, `excluded` its excluded count (R123; notes/assumptions/35.md). -/
structure ContextEntry where
  channel : Nat
  sum : Int
  count : Nat
  peak : Option Int
  peakTime : Option LoopTime
  exclusion : Option Exclusion
  fixed : Bool
  excluded : Nat
deriving DecidableEq, Repr

/-- A settling crossing (R60). -/
structure Settling where
  wt : Transducer
  dir : Direction
  time : LoopTime
  speed : Option Nat
deriving DecidableEq, Repr

/-- An open context (R53). -/
structure Context where
  axle : Nat
  window : Nat
  kind : WindowKind
  rail : Rail
  basis : Basis
  entries : List ContextEntry
  flags : ContextFlags
  settling : Option Settling
deriving DecidableEq, Repr

/-! ### Vehicle Unit (R85 to R98) -/

/-- The evaluation state of a vehicle (R95). -/
inductive EvalState where
  | pending
  | confirmed
  | unsteady
  | unconfirmed
deriving DecidableEq, Repr

/-- A vehicle record (R93). -/
structure Vehicle where
  number : Nat
  code : Nat
  first : Nat
  axles : Nat
  gross : Option Nat
  endImbalance : Option Nat
  eval : EvalState
  unsteadySource : Bool
  endAssumed : Bool
deriving DecidableEq, Repr

/-! ### The passage (R28, R48, R66, R87, R120, R122) -/

/-- The way a passage ended (R44, R174, R176). -/
inductive Disposition where
  | complete
  | withdrawn
  | split
  | forced
  | aborted
deriving DecidableEq, Repr

/-- The forward counts by place in entry order (R32). -/
structure Counts where
  c1 : Nat
  c2 : Nat
  c3 : Nat
  c4 : Nat
deriving DecidableEq, Repr

/-- The passage flags (R28, R37, R87, R129, R8). -/
structure PassageFlags where
  suspect : Bool
  stood : Bool
  truncated : Bool
  outlierSkipped : Bool
  vehiclesTruncated : Bool
  notReady : Bool
deriving DecidableEq, Repr

/-- The passage counters (R20, R35, R46, R66). -/
structure PassageCounters where
  sequence : Nat
  doublePulses : Nat
  late : Nat
  lostMarks : Nat
  standing : Nat
  conflicts : Nat
  lostContexts : Nat
  early : Nat
deriving DecidableEq, Repr

/-- The passage context, from passage start to the end of its CLOSING. `slot` is the report slot taken, none for a passage without detail. -/
structure Passage where
  number : Nat
  startTime : LoopTime
  endTime : Option LoopTime
  disposition : Option Disposition
  dir : Direction
  counts : Counts
  total : Nat
  axles : List AxleRecord
  flags : PassageFlags
  counters : PassageCounters
  timeOrder : Option LoopTime
  doublePulse : PerWt (PerDir (Option LoopTime))
  standing : Option Nat
  clear : Option Nat
  marks : List MarkEntry
  contexts : List Context
  segmentStart : Nat
  vehicles : List Vehicle
  vehicleCount : Nat
  ambient : Option Int
  notOpen : PerRail Bool
  slot : Option Nat
deriving DecidableEq, Repr

/-! ### Bearing Unit (R115 to R132) -/

/-- The shutter state (R116). -/
inductive Shutter where
  | closed
  | opened
  | closeWait
deriving DecidableEq, Repr

/-- The timer from which a shutter fault was entered (R119, R120). -/
inductive ShutterFault where
  | fromOpen
  | fromClose
deriving DecidableEq, Repr

/-- A change of a feedback input (R121). -/
structure FeedbackChange where
  time : LoopTime
  isOpen : Bool
deriving DecidableEq, Repr

/-- The feedback record of a scanner (R121). -/
structure FeedbackRecord where
  baseOpen : Bool
  baseTime : LoopTime
  changes : List FeedbackChange
deriving DecidableEq, Repr

/-- The Bearing Unit. -/
structure Brg where
  shutter : Shutter
  closeTimer : Option Nat
  openTimers : PerRail (Option Nat)
  closeTimers : PerRail (Option Nat)
  faults : PerRail (Option ShutterFault)
  records : PerRail FeedbackRecord
deriving DecidableEq, Repr

/-! ### Alarm and Output Unit (R133 to R149) -/

/-- The eleven kinds of raise, in the order of R134's table. -/
inductive AlarmKind where
  | impactCrit
  | hot
  | impactAlarm
  | diff
  | outlier
  | axleOver
  | vehicleOver
  | impactWatch
  | warm
  | wheelImbalance
  | endImbalance
deriving DecidableEq, Repr

/-- The kinds of part an axle record holds (R59). -/
inductive PartKind where
  | load
  | impact
  | bearing
deriving DecidableEq, Repr

/-- A part by axle, kind and rail: the link of an alarm entry (R134, R135). -/
structure PartRef where
  axle : Nat
  kind : PartKind
  rail : Rail
deriving DecidableEq, Repr

/-- An entry of the passage alarm list (R135). -/
structure AlarmEntry where
  kind : AlarmKind
  object : Nat
  side : Option Rail
  value : Int
  threshold : Int
  source : Settlement
  unsteady : Bool
  raiseTime : LoopTime
  link : Option PartRef
deriving DecidableEq, Repr

/-- The highest severities of the three classes (R135). -/
structure Severities where
  critical : Nat
  alarm : Nat
  watch : Nat
deriving DecidableEq, Repr

/-- The passage alarm list with its passage values (R135). -/
structure AlarmList where
  passage : Option Nat
  entries : List AlarmEntry
  highest : Severities
  lost : Nat
deriving DecidableEq, Repr

/-- The state of an output line (R142 to R148). -/
structure LineState where
  asserted : Bool
  driven : Bool
  latched : Bool
  hold : Option Nat
  pulse : Option Nat
  phase : Nat
  test : Bool
  faulty : Bool
  readback : Option Nat
deriving DecidableEq, Repr

/-- The Alarm and Output Unit. The equipment fault set is read off the blocks that own its members (Machine/Outputs.lean). -/
structure Aou where
  lines : PerLine LineState
  alarms : AlarmList
deriving DecidableEq, Repr

/-! ### Report Store (R150 to R168) -/

/-- The HEADER record of a report (R156). -/
structure Header where
  number : Nat
  startTime : LoopTime
  endTime : LoopTime
  disposition : Disposition
  dir : Direction
  total : Nat
  records : Nat
  vehicleCount : Nat
  ambient : Option Int
  flags : PassageFlags
  counters : PassageCounters
  lostAlarms : Nat
  highest : Severities
deriving DecidableEq, Repr

/-- The read state of a section (R161). -/
structure ReadState where
  coverage : Nat
  once : Bool
deriving DecidableEq, Repr

/-- The read states of the four sections (R161). -/
structure ReadStates where
  header : ReadState
  axles : ReadState
  vehicles : ReadState
  alarms : ReadState
deriving DecidableEq, Repr

/-- A sealed report (R150, R155). -/
structure Report where
  header : Header
  axles : List AxleRecord
  vehicles : List Vehicle
  alarms : List AlarmEntry
  sealOrder : Nat
  reads : ReadStates
  readComplete : Bool
deriving DecidableEq, Repr

/-- A report slot (R150). A FILLING slot is kept equal to the passage context (R154), which is its one home until the sealing. -/
inductive Slot where
  | free
  | filling (passage : Nat)
  | sealed (report : Report)
deriving DecidableEq, Repr

/-- The detail field of a summary (R163). -/
inductive Detail where
  | inSlot (slot : Nat)
  | released
  | takenOver
  | detailLost
deriving DecidableEq, Repr

/-- A passage summary (R163). -/
structure Summary where
  number : Nat
  startTime : LoopTime
  endTime : LoopTime
  disposition : Disposition
  dir : Direction
  total : Nat
  highest : Severities
  detail : Detail
deriving DecidableEq, Repr

/-- The Report Store. Bit k − 1 of `pending`, `marks` and `mask` is event kind k (R164, R200). -/
structure Rps where
  slots : List Slot
  sealCount : Nat
  ring : List Summary
  pending : BitVec 13
  marks : BitVec 13
  mask : BitVec 13
  sendDue : Bool
  holdOff : Option Nat
  lastEvt : Option LoopTime
  lastPassage : Nat
deriving DecidableEq, Repr

/-! ### The whole part -/

/-- The levels of the part's local inputs (R115, R119, R148). -/
structure Pins where
  approach : Bool
  feedback : PerRail Bool
  readback : PerLine Bool
deriving DecidableEq, Repr

/-- The KP418 (R182 to R199 and the state tables of every chapter), with the queue of commands waiting for it. -/
structure State where
  pending : List Instr
  powered : Bool
  now : LoopTime
  pins : Pins
  store : SettingsStore
  conds : List SectionCond
  tables : Tables
  invalid : List Bool
  commit : Commit
  lif : Lif
  sin : Sin
  axt : Axt
  passage : Option Passage
  brg : Brg
  aou : Aou
  rps : Rps
  scu : Scu
deriving DecidableEq, Repr

/-- The ways the part stops. There is none: the manual gives every command an effect in every state, so no meaning raises a fault (safe). -/
inductive Fault where
deriving DecidableEq, Repr

/-- The commands the model gives no meaning. -/
inductive Refusal where
  /-- Raised by an arm of exec whose row has no meaning yet, and by nothing else (safe: no run goes on). -/
  | notModelled (mnemonic : String)
deriving DecidableEq, Repr

/-! ### Reset -/

/-- Both rails alike. -/
def PerRail.same {α : Type} (a : α) : PerRail α := ⟨a, a⟩

/-- All four lines alike. -/
def PerLine.same {α : Type} (a : α) : PerLine α := ⟨a, a, a, a⟩

/-- An output entry at the defaults of R141. -/
def OutputEntry.reset : OutputEntry where
  classes := ⟨false, false, false, false, false, false⟩
  mode := .steady
  envelope := ⟨false, false, false⟩
  latched := false
  hold := 0
  pulseWindow := none
  pulseLength := 5

/-- The tables that blank sections give (R182). -/
def Tables.blank : Tables where
  site := Config.siteLimits.map Config.Limit.default
  geometry := Config.geometryDefault
  nodes := List.replicate 12 none
  channels := List.replicate 32 none
  conv := List.replicate 4 (List.replicate 17 none)
  zoneU := List.replicate 12 none
  zoneD := List.replicate 12 none
  speed := List.replicate 9 none
  vehicle := List.replicate 24 none
  threshold := Config.thresholdLimits.map Config.Limit.default
  output := List.replicate 4 OutputEntry.reset

/-- The identity that a blank or bad section gives (R182). -/
def Identity.blank : Identity where
  station := Config.blankStation
  fixed := false
  autoArm := false

/-- A settings store that has never been written (R182; notes/assumptions/4.md). -/
def SettingsStore.blank : SettingsStore where
  checks := List.replicate 15 none
  tables := Tables.blank
  identity := Identity.blank

/-- Every input at rest (notes/assumptions/5.md). -/
def Pins.reset : Pins where
  approach := false
  feedback := PerRail.same false
  readback := PerLine.same false

/-- A line after every reset (R149). -/
def LineState.reset : LineState where
  asserted := false
  driven := false
  latched := false
  hold := none
  pulse := none
  phase := 0
  test := false
  faulty := false
  readback := none

/-- An alarm list that belongs to no passage (R135). -/
def AlarmList.reset : AlarmList where
  passage := none
  entries := []
  highest := ⟨0, 0, 0⟩
  lost := 0

/-- Counters of LIF at 0 (R199). -/
def LifCounters.zero : LifCounters := ⟨0, 0, 0, 0, 0, 0, 0, 0⟩

/-- Counters of SIN at 0 (R22). -/
def SinCounters.zero : SinCounters := ⟨0, 0, 0, 0, 0⟩

/-- Site counters of AXT at 0 (R48). -/
def AxtCounters.zero : AxtCounters := ⟨0, 0, 0, 0, 0⟩

/-- A node that is PRESENT, untimed and with an empty order record (R6, R11). -/
def NodeState.reset : NodeState where
  silent := false
  timer := none
  order := none

/-- A channel of the given health with no baseline (R8). -/
def ChannelState.reset (h : Health) : ChannelState where
  health := h
  run := 0
  baseline := none
  fresh := false
  capture := none
  gather := none

/-- LIF after POWER_ON (R187 to R191, R198, R199). -/
def Lif.reset : Lif where
  locked := false
  rate := .mbit16
  dwell := some Config.searchDwell
  quiet := none
  loopLost := false
  station := Config.blankStation
  fixed := false
  strip := none
  queue := []
  inProgress := none
  sending := none
  timWaiting := false
  timTimer := none
  own := []
  forward := []
  linkLost := false
  supTimer := none
  counters := LifCounters.zero

/-- SIN after POWER_ON with no channel in use (R6, R8, R16, R17, R21, R22). -/
def Sin.reset : Sin where
  nodes := List.replicate 12 NodeState.reset
  channels := List.replicate 32 (ChannelState.reset .ok)
  gateLeft := Config.ambientGate
  gateCount := 0
  ambientFault := false
  history := []
  ambientFresh := false
  line := []
  released := none
  counters := SinCounters.zero

/-- AXT after POWER_ON (R26, R28, R48). -/
def Axt.reset : Axt where
  queue := []
  carried := false
  nextPassage := 1
  lastSpeed := none
  lastSpeedFresh := false
  countsFresh := false
  counters := AxtCounters.zero

/-- BRG after POWER_ON with both feedback inputs not open (R116, R119, R121). -/
def Brg.reset : Brg where
  shutter := .closed
  closeTimer := none
  openTimers := PerRail.same none
  closeTimers := PerRail.same none
  faults := PerRail.same none
  records := PerRail.same ⟨false, 0, []⟩

/-- AOU after every reset (R135, R149). -/
def Aou.reset : Aou where
  lines := PerLine.same LineState.reset
  alarms := AlarmList.reset

/-- RPS after POWER_ON (R150, R163, R167, R168). -/
def Rps.reset : Rps where
  slots := List.replicate 4 .free
  sealCount := 0
  ring := []
  pending := 0
  marks := 0
  mask := BitVec.allOnes 13
  sendDue := false
  holdOff := none
  lastEvt := none
  lastPassage := 0

/-- SCU after POWER_ON (R169, R178, R181, R185). -/
def Scu.reset : Scu where
  site := .offline
  siteFresh := false
  check := .idle
  checkTime := none
  settle := none
  powerTimer := some Config.powerSettle
  powerMark := false
  sampleStart := 0
  phaseTimer := none
  endTimer := none
  interval := none
  due := false
  loss := none
  validation := .none
  autoArm := false
  store := none

/-- The KP418 right after a POWER_ON with a settings store that has never been written and every input at rest. -/
def State.reset : State where
  pending := []
  powered := true
  now := 0
  pins := Pins.reset
  store := SettingsStore.blank
  conds := List.replicate 15 .blank
  tables := Tables.blank
  invalid := List.replicate 14 false
  commit := ⟨Tables.blank.site, none, none⟩
  lif := Lif.reset
  sin := Sin.reset
  axt := Axt.reset
  passage := none
  brg := Brg.reset
  aou := Aou.reset
  rps := Rps.reset
  scu := Scu.reset

end Sys2Proof.Machine
end

