-- ==== Sys2Proof/Machine/Ops.lean ====
section
/-! DEFINITION. The named operations every block uses: rounding and clamping, loop-time comparison, timers, accessors, the passing of loop time, event raises. -/

namespace Sys2Proof.Machine

/-! ### Arithmetic (R3) -/

/-- Division rounded to the nearest integer, ties away from zero (R3), of naturals. -/
def divRoundNat (a b : Nat) : Nat := (2 * a + b) / (2 * b)

/-- Division rounded to the nearest integer, ties away from zero (R3), by a positive divisor. -/
def divRound (a : Int) (b : Nat) : Int :=
  if 0 ≤ a then (divRoundNat a.toNat b : Int) else -(divRoundNat (-a).toNat b : Int)

/-- A value held to its nearer limit (R3). -/
def clampInt (lo hi a : Int) : Int := if a < lo then lo else if hi < a then hi else a

/-- A value held to its nearer limit (R3). -/
def clampNat (lo hi a : Nat) : Nat := if a < lo then lo else if hi < a then hi else a

/-- One more on a counter that saturates (R3). -/
def satInc (limit n : Nat) : Nat := if n < limit then n + 1 else limit

/-- One more on a 16-bit counter (R22, R35, R48, R66, R135, R199). -/
def bump (n : Nat) : Nat := satInc Config.counterMax n

/-- The sum of a list of integers. -/
def sumInt (l : List Int) : Int := l.foldl (· + ·) 0

/-- The sum of a list of naturals. -/
def sumNat (l : List Nat) : Nat := l.foldl (· + ·) 0

/-! ### Loop time (R1) -/

/-- The signed difference of two loop times, later minus earlier (R1). -/
def timeDiff (a b : LoopTime) : Int := (a - b).toInt

/-- `a` is earlier than `b` (R1). -/
def earlier (a b : LoopTime) : Bool := timeDiff a b < 0

/-- Loop time `now` has reached `t` (R1). -/
def reached (now t : LoopTime) : Bool := 0 ≤ timeDiff now t

/-- A loop time some µs later (R1). -/
def later (t : LoopTime) (us : Nat) : LoopTime := t + BitVec.ofNat 32 us

/-- Loop time has run 2³⁰ µs past `t` (R11, R18, R30, R31, R40, R121). -/
def agedAt (now t : LoopTime) : Bool := (Config.recordAge : Int) ≤ timeDiff now t

/-- `t` lies in the span from `start + a` to `start + b`, with its start and without its end (R179). -/
def inSpan (start : LoopTime) (a b : Nat) (t : LoopTime) : Bool :=
  (a : Int) ≤ timeDiff t start && timeDiff t start < (b : Int)

/-! ### Timers (R1): µs left while running -/

/-- A timer after `dt` µs: it waits at 0 until its expiry is taken. -/
def tick (dt : Nat) (t : Option Nat) : Option Nat := t.map (· - dt)

/-- A timer that has run out and whose expiry has not been taken. -/
def expired (t : Option Nat) : Bool := t == some 0

/-! ### Names and places -/

/-- Place of a transducer among WT1..WT4, from 0. -/
def wtIndex (w : Transducer) : Nat :=
  match w with
  | .wt1 => 0
  | .wt2 => 1
  | .wt3 => 2
  | .wt4 => 3

/-- The transducer at a place among WT1..WT4, from 0. -/
def wtAt (n : Nat) : Option Transducer :=
  match n with
  | 0 => some .wt1
  | 1 => some .wt2
  | 2 => some .wt3
  | 3 => some .wt4
  | _ => none

/-- The transducer after `w` in a direction of travel (R23, R39). -/
def wtNext (w : Transducer) (d : Direction) : Option Transducer :=
  match d with
  | .up => wtAt (wtIndex w + 1)
  | .down => if wtIndex w = 0 then none else wtAt (wtIndex w - 1)

/-- Place k = 1..4 of a transducer in entry order (R29). -/
def entryPlace (entry : Direction) (w : Transducer) : Nat :=
  match entry with
  | .up => wtIndex w + 1
  | .down => 4 - wtIndex w

/-- The direction s of arithmetic: +1 for UP, −1 for DOWN (R29). -/
def dirSign (d : Direction) : Int :=
  match d with
  | .up => 1
  | .down => -1

/-- The four lines in order. -/
def allLines : List Line := [.o1, .o2, .o3, .o4]

/-- Place of a line among O1..O4, from 0. -/
def lineIndex (l : Line) : Nat :=
  match l with
  | .o1 => 0
  | .o2 => 1
  | .o3 => 2
  | .o4 => 3

/-- Value of one rail. -/
def PerRail.get {α : Type} (p : PerRail α) (r : Rail) : α :=
  match r with
  | .left => p.left
  | .right => p.right

/-- Replaces the value of one rail. -/
def PerRail.set {α : Type} (p : PerRail α) (r : Rail) (a : α) : PerRail α :=
  match r with
  | .left => { p with left := a }
  | .right => { p with right := a }

/-- Applies a function on both rails. -/
def PerRail.map {α β : Type} (f : α → β) (p : PerRail α) : PerRail β := ⟨f p.left, f p.right⟩

/-- Value of one line. -/
def PerLine.get {α : Type} (p : PerLine α) (l : Line) : α :=
  match l with
  | .o1 => p.o1
  | .o2 => p.o2
  | .o3 => p.o3
  | .o4 => p.o4

/-- Replaces the value of one line. -/
def PerLine.set {α : Type} (p : PerLine α) (l : Line) (a : α) : PerLine α :=
  match l with
  | .o1 => { p with o1 := a }
  | .o2 => { p with o2 := a }
  | .o3 => { p with o3 := a }
  | .o4 => { p with o4 := a }

/-- Applies a function on all lines. -/
def PerLine.map {α β : Type} (f : α → β) (p : PerLine α) : PerLine β :=
  ⟨f p.o1, f p.o2, f p.o3, f p.o4⟩

/-- Value of one transducer. -/
def PerWt.get {α : Type} (p : PerWt α) (w : Transducer) : α :=
  match w with
  | .wt1 => p.wt1
  | .wt2 => p.wt2
  | .wt3 => p.wt3
  | .wt4 => p.wt4

/-- Replaces the value of one transducer. -/
def PerWt.set {α : Type} (p : PerWt α) (w : Transducer) (a : α) : PerWt α :=
  match w with
  | .wt1 => { p with wt1 := a }
  | .wt2 => { p with wt2 := a }
  | .wt3 => { p with wt3 := a }
  | .wt4 => { p with wt4 := a }

/-- Value of one direction. -/
def PerDir.get {α : Type} (p : PerDir α) (d : Direction) : α :=
  match d with
  | .up => p.up
  | .down => p.down

/-- Replaces the value of one direction. -/
def PerDir.set {α : Type} (p : PerDir α) (d : Direction) (a : α) : PerDir α :=
  match d with
  | .up => { p with up := a }
  | .down => { p with down := a }

/-! ### Blocks of the state -/

/-- Changes LIF alone. -/
def State.onLif (f : Lif → Lif) (s : State) : State := { s with lif := f s.lif }
/-- Changes SIN alone. -/
def State.onSin (f : Sin → Sin) (s : State) : State := { s with sin := f s.sin }
/-- Changes AXT's site state alone. -/
def State.onAxt (f : Axt → Axt) (s : State) : State := { s with axt := f s.axt }
/-- Changes the passage context alone, where there is one. -/
def State.onPassage (f : Passage → Passage) (s : State) : State :=
  { s with passage := s.passage.map f }
/-- Changes BRG alone. -/
def State.onBrg (f : Brg → Brg) (s : State) : State := { s with brg := f s.brg }
/-- Changes AOU alone. -/
def State.onAou (f : Aou → Aou) (s : State) : State := { s with aou := f s.aou }
/-- Changes RPS alone. -/
def State.onRps (f : Rps → Rps) (s : State) : State := { s with rps := f s.rps }
/-- Changes SCU alone. -/
def State.onScu (f : Scu → Scu) (s : State) : State := { s with scu := f s.scu }
/-- Changes one output line alone. -/
def State.onLine (l : Line) (f : LineState → LineState) (s : State) : State :=
  s.onAou fun a => { a with lines := a.lines.set l (f (a.lines.get l)) }

/-! ### The passing of loop time -/

/-- A history entry after `dt` µs (R40). -/
def ageEntry (now : LoopTime) (dt : Nat) (h : HistEntry) : HistEntry :=
  { h with aged := h.aged || decide ((Config.recordAge : Int) ≤ timeDiff now h.time + dt) }

/-- A reference crossing after `dt` µs (R42). -/
def ageReference (dt : Nat) (r : RefCrossing) : RefCrossing := { r with age := min (2 ^ 32) (r.age + dt) }

/-- An axle record after `dt` µs. -/
def ageAxle (now : LoopTime) (dt : Nat) (a : AxleRecord) : AxleRecord :=
  { a with history := a.history.map (ageEntry now dt), reference := a.reference.map (ageReference dt) }

/-- A feedback record after `dt` µs: a base time 2³⁰ µs old is held at that age (R121). -/
def ageFeedback (now : LoopTime) (dt : Nat) (r : FeedbackRecord) : FeedbackRecord :=
  if (Config.recordAge : Int) ≤ timeDiff now r.baseTime + dt
  then { r with baseTime := later now dt - BitVec.ofNat 32 Config.recordAge }
  else r

/-- A line after `dt` µs (R143, R145, R146, R148). -/
def tickLine (dt : Nat) (l : LineState) : LineState :=
  { l with
    hold := tick dt l.hold
    pulse := tick dt l.pulse
    phase := (l.phase + dt) % Config.envelopePeriod
    readback := tick dt l.readback }

/-- LIF after `dt` µs. -/
def tickLif (dt : Nat) (l : Lif) : Lif :=
  { l with
    dwell := tick dt l.dwell
    quiet := tick dt l.quiet
    strip := l.strip.map fun p => { p with timer := tick dt p.timer }
    timTimer := tick dt l.timTimer
    supTimer := tick dt l.supTimer }

/-- SIN after `dt` µs. -/
def tickSin (dt : Nat) (n : Sin) : Sin :=
  { n with
    nodes := n.nodes.map fun x => { x with timer := tick dt x.timer }
    gateLeft := n.gateLeft - dt }

/-- The passage context after `dt` µs. -/
def tickPassage (now : LoopTime) (dt : Nat) (p : Passage) : Passage :=
  { p with
    axles := p.axles.map (ageAxle now dt)
    standing := tick dt p.standing
    clear := tick dt p.clear }

/-- BRG after `dt` µs. -/
def tickBrg (now : LoopTime) (dt : Nat) (b : Brg) : Brg :=
  { b with
    closeTimer := tick dt b.closeTimer
    openTimers := b.openTimers.map (tick dt)
    closeTimers := b.closeTimers.map (tick dt)
    records := b.records.map (ageFeedback now dt) }

/-- SCU after `dt` µs. -/
def tickScu (dt : Nat) (u : Scu) : Scu :=
  { u with
    settle := tick dt u.settle
    powerTimer := tick dt u.powerTimer
    phaseTimer := tick dt u.phaseTimer
    endTimer := tick dt u.endTimer
    interval := tick dt u.interval
    loss := tick dt u.loss }

/-- The part after `dt` µs in which no step is taken: loop time runs, every running timer counts down, every phase runs (R1; notes/assumptions/1.md). -/
def State.elapse (dt : Nat) (s : State) : State :=
  { s with
    now := later s.now dt
    lif := tickLif dt s.lif
    sin := tickSin dt s.sin
    passage := s.passage.map (tickPassage s.now dt)
    brg := tickBrg s.now dt s.brg
    aou := { s.aou with lines := s.aou.lines.map (tickLine dt) }
    rps := { s.rps with holdOff := tick dt s.rps.holdOff }
    scu := tickScu dt s.scu }

/-- A step of the powered part: `dt` µs run, then the step acts; without supply nothing happens (notes/assumptions/1.md, 3.md). -/
def timed (dt : Nat) (f : State → State) (s : State) : Host.Outcome State Fault Refusal :=
  if s.powered then .next (f (s.elapse dt)) else .next s

/-! ### Parameters in use (R4, R24, R67, R186) -/

/-- The committed site parameters, or those loaded at power-on before any commit (R172, R186). -/
def State.inUse (s : State) : List Nat := s.commit.site.getD s.commit.loaded

/-- Site parameter `n` = 1..20 (R194). -/
def siteParam (p : List Nat) (n : Nat) : Nat :=
  p.getD (n - 1) ((Config.siteLimits.getD (n - 1) ⟨0, 0, 0⟩).default)

/-- Threshold `n` = 1..15 (R133). -/
def thresholdOf (p : List Nat) (n : Nat) : Nat :=
  p.getD (n - 1) ((Config.thresholdLimits.getD (n - 1) ⟨0, 0, 0⟩).default)

/-- D_hold in µs, as the entry stands (R4, R18). -/
def State.holdDelay (s : State) : Nat := 1000 * siteParam s.tables.site 1
/-- The event hold-off in µs, as the entry stands (R165). -/
def State.eventHoldOff (s : State) : Nat := 1000 * siteParam s.tables.site 14
/-- The clear hold in µs, as committed (R24). -/
def State.clearHold (s : State) : Nat := 1000 * siteParam s.inUse 6
/-- The standing time in µs, as committed (R24). -/
def State.standingTime (s : State) : Nat := 1000000 * siteParam s.inUse 7
/-- The position tolerance in mm, as committed (R170). -/
def State.positionTolerance (s : State) : Nat := siteParam s.inUse 8
/-- The check interval in µs, as committed (R181). -/
def State.checkInterval (s : State) : Nat := 60000000 * siteParam s.inUse 13
/-- The quiet limit in µs, in use (R186). -/
def State.quietLimit (s : State) : Nat := 1000 * siteParam s.inUse 15
/-- The controller station in use (R186). -/
def State.controller (s : State) : Nat := siteParam s.inUse 16
/-- Supervision is enabled, in use (R198). -/
def State.supervised (s : State) : Bool := siteParam s.inUse 17 ≠ 0
/-- T_sup in µs: base × F1 × F2 ms, a product F1 × F2 of 1 used as 2 (R198). -/
def State.supervisionLimit (s : State) : Nat :=
  let f := siteParam s.inUse 19 * siteParam s.inUse 20
  1000 * (siteParam s.inUse 18 * (if f = 1 then 2 else f))
/-- A threshold as it stands (R133). -/
def State.threshold (s : State) (n : Nat) : Nat := thresholdOf s.tables.threshold n

/-- The double-pulse interval of R24 in µs. -/
def doublePulseInterval (site : List Nat) : Nat :=
  divRoundNat (siteParam site 4 * 1000000) (siteParam site 5)

/-! ### Table entries by number -/

/-- A used node-table entry, by its number 1..12 (R5). -/
def nodeEntry (t : Tables) (n : Nat) : Option NodeEntry :=
  if n = 0 then none else (t.nodes.getD (n - 1) none)

/-- A used channel-table entry, by its number 0..31 (R7). -/
def channelEntry (t : Tables) (c : Nat) : Option ChannelEntry := t.channels.getD c none

/-- The number 1..12 of the used node-table entry at a station (R5). -/
def nodeAt (t : Tables) (station : Nat) : Option Nat :=
  (List.range' 1 12).find? fun n => (nodeEntry t n).any fun e => e.station == station

/-- The position of a transducer in mm (R23); a position not yet set reads as 0, which no committed geometry has. -/
def wtPosition (t : Tables) (w : Transducer) : Int := (t.geometry.getD (wtIndex w) none).getD 0

/-- The next transducer's position in a direction, or the site edge (R23). -/
def nextPosition (t : Tables) (w : Transducer) (d : Direction) : Int :=
  match wtNext w d with
  | some x => wtPosition t x
  | none => dirSign d * Config.siteEdge

/-- The state of a node, by its number 1..12 (R6). -/
def State.node (s : State) (n : Nat) : NodeState := s.sin.nodes.getD (n - 1) NodeState.reset

/-- Changes the state of one node. -/
def State.onNode (n : Nat) (f : NodeState → NodeState) (s : State) : State :=
  s.onSin fun x => { x with nodes := x.nodes.modify (n - 1) f }

/-- The state of a channel 0..31 (R8). -/
def State.channel (s : State) (c : Nat) : ChannelState :=
  s.sin.channels.getD c (ChannelState.reset .ok)

/-- Changes the state of one channel. -/
def State.onChannel (c : Nat) (f : ChannelState → ChannelState) (s : State) : State :=
  s.onSin fun x => { x with channels := x.channels.modify c f }

/-- The zone set of an entry direction (R51). -/
def zoneOf (t : Tables) (d : Direction) : List (Option Window) :=
  match d with
  | .up => t.zoneU
  | .down => t.zoneD

/-- The used windows of a zone set with their numbers, in number order (R49, R51). -/
def windowsOf (zone : List (Option Window)) : List (Nat × Window) :=
  (zone.zipIdx 1).filterMap fun (w, n) => w.map fun x => (n, x)

/-! ### Axle records -/

/-- The record of axle `i`, if the axle has one (R36, R37). -/
def Passage.axle (p : Passage) (i : Nat) : Option AxleRecord :=
  if i = 0 then none else p.axles[i - 1]?

/-- The record of axle `i` of the current passage. -/
def State.axle (s : State) (i : Nat) : Option AxleRecord := s.passage.bind (·.axle i)

/-- Changes the record of axle `i` alone. -/
def State.onAxle (i : Nat) (f : AxleRecord → AxleRecord) (s : State) : State :=
  s.onPassage fun p => { p with axles := p.axles.modify (i - 1) f }

/-- The numbers of the axles with a record, in increasing order. -/
def State.axleNumbers (s : State) : List Nat :=
  match s.passage with
  | some p => List.range' 1 p.axles.length
  | none => []

/-- Applies an operation for each member of a list, in order. -/
def forEach {α : Type} (l : List α) (f : α → State → State) (s : State) : State :=
  l.foldl (fun t a => f a t) s

/-! ### Events (R164) -/

/-- The thirteen event kinds in the order of R164. -/
inductive EventKind where
  | passageStarted
  | passageClosed
  | criticalRaised
  | alarmRaised
  | watchRaised
  | equipmentChanged
  | checkEnded
  | stateChanged
  | loopRelocked
  | storeEnded
  | slotTakenOver
  | detailLost
  | controllerResumed
deriving DecidableEq, Repr

/-- The number 1..13 of an event kind (R200). -/
def eventNumber (k : EventKind) : Nat :=
  match k with
  | .passageStarted => 1
  | .passageClosed => 2
  | .criticalRaised => 3
  | .alarmRaised => 4
  | .watchRaised => 5
  | .equipmentChanged => 6
  | .checkEnded => 7
  | .stateChanged => 8
  | .loopRelocked => 9
  | .storeEnded => 10
  | .slotTakenOver => 11
  | .detailLost => 12
  | .controllerResumed => 13

/-- The bit of an event kind: kind k at bit k − 1 (R200). -/
def eventBit (k : EventKind) : BitVec 13 := BitVec.twoPow 13 (eventNumber k - 1)

/-- A raise in RPS: the kind is pending with its mark set, and send-due is set if it is not masked (R164, R165). -/
def Rps.raise (k : EventKind) (r : Rps) : Rps :=
  { r with
    pending := r.pending ||| eventBit k
    marks := r.marks ||| eventBit k
    sendDue := r.sendDue || (r.mask &&& eventBit k == 0) }

/-- A raise of an event kind (R164). -/
def State.raise (k : EventKind) (s : State) : State := s.onRps (Rps.raise k)

/-- A raise made when a condition holds. -/
def State.raiseIf (b : Bool) (k : EventKind) (s : State) : State := if b then s.raise k else s

end Sys2Proof.Machine
end

