-- ==== Sys2Proof/Machine/Operands.lean ====
section
/-! DEFINITION. The operand forms of the site loop: every field layout of R200, read from octets and written to them. -/

namespace Sys2Proof.Machine

/-! ### Writing fields (R200) -/

/-- The `n` least significant octets of a number, most significant first. -/
def octets (n v : Nat) : List Byte :=
  match n with
  | 0 => []
  | k + 1 => octets k (v / 256) ++ [BitVec.ofNat 8 v]

/-- An unsigned field of `n` octets. -/
def putNat (n v : Nat) : List Byte := octets n v

/-- A signed field of `n` octets in two's complement. -/
def putInt (n : Nat) (v : Int) : List Byte := octets n (v % (256 ^ n : Nat)).toNat

/-- A numeric field, a loop time or a count: 4 octets. -/
def put4 (v : Nat) : List Byte := putNat 4 v

/-- A signed numeric field: 4 octets. -/
def put4s (v : Int) : List Byte := putInt 4 v

/-- A loop time: 4 octets. -/
def putTime (t : LoopTime) : List Byte := put4 t.toNat

/-- An enumerated value: 1 octet. -/
def putCode (c : Nat) : List Byte := putNat 1 c

/-- A lone flag: 1 octet, 1 when set (notes/assumptions/12.md). -/
def putFlag (b : Bool) : List Byte := putNat 1 (if b then 1 else 0)

/-- A set of flags: 4 octets, one bit per member from bit 0. -/
def putSet (l : List Bool) : List Byte :=
  put4 ((l.zipIdx.map fun (b, i) => if b then 2 ^ i else 0).foldl (· + ·) 0)

/-- An optional field: 1 octet for presence, then the field. -/
def putOption {α : Type} (f : α → List Byte) (x : Option α) : List Byte :=
  match x with
  | none => [0]
  | some a => 1 :: f a

/-- A list: its member count in 2 octets, then the members. -/
def putList {α : Type} (f : α → List Byte) (l : List α) : List Byte :=
  putNat 2 l.length ++ l.flatMap f

/-! ### Reading fields (R200) -/

/-- The number that octets spell, most significant first. -/
def getNat (l : List Byte) : Nat := l.foldl (fun a b => 256 * a + b.toNat) 0

/-- The signed number that octets spell in two's complement. -/
def getInt (l : List Byte) : Int :=
  let v := getNat l
  if 2 * v < 256 ^ l.length then (v : Int) else (v : Int) - (256 ^ l.length : Nat)

/-- Octet `i` of a payload, zero beyond its end. -/
def byteAt (l : List Byte) (i : Nat) : Nat := (l.getD i 0).toNat

/-- The unsigned number in `n` octets from offset `i`. -/
def natAt (l : List Byte) (i n : Nat) : Nat := getNat ((l.drop i).take n)

/-- The loop time in 4 octets from offset `i`. -/
def timeAt (l : List Byte) (i : Nat) : LoopTime := BitVec.ofNat 32 (natAt l i 4)

/-- A field read from the front of octets, with the octets that follow it; none when they run out or spell no value. -/
abbrev Field (α : Type) := List Byte → Option (α × List Byte)

/-- `n` octets. -/
def takeBytes (n : Nat) : Field (List Byte) := fun l =>
  if n ≤ l.length then some (l.take n, l.drop n) else none

/-- An unsigned numeric field of 4 octets. -/
def take4 : Field Nat := fun l => (takeBytes 4 l).map fun (b, r) => (getNat b, r)

/-- A signed numeric field of 4 octets. -/
def take4s : Field Int := fun l => (takeBytes 4 l).map fun (b, r) => (getInt b, r)

/-- A lone octet. -/
def take1 : Field Nat := fun l => (takeBytes 1 l).map fun (b, r) => (getNat b, r)

/-- A member count in 2 octets. -/
def take2 : Field Nat := fun l => (takeBytes 2 l).map fun (b, r) => (getNat b, r)

/-- An enumerated value of 1 octet, by the list of the values in order. -/
def takeCode {α : Type} (values : List α) : Field α := fun l =>
  (take1 l).bind fun (c, r) => (values[c]?).map fun v => (v, r)

/-- A lone flag: set unless the octet is 0. -/
def takeFlag : Field Bool := fun l => (take1 l).map fun (c, r) => (c ≠ 0, r)

/-- An optional field, present behind any presence octet but 0 (R200; notes/assumptions/12.md). -/
def takeOption {α : Type} (f : Field α) : Field (Option α) := fun l =>
  (takeFlag l).bind fun (b, r) => if b then (f r).map fun (a, q) => (some a, q) else some (none, r)

/-- `n` fields of one form. -/
def takeMany {α : Type} (f : Field α) (n : Nat) : Field (List α) := fun l =>
  match n with
  | 0 => some ([], l)
  | k + 1 => (f l).bind fun (a, r) => (takeMany f k r).map fun (as, q) => (a :: as, q)

/-- A list: its member count in 2 octets, then the members. -/
def takeList {α : Type} (f : Field α) : Field (List α) := fun l =>
  (take2 l).bind fun (n, r) => takeMany f n r

/-- Bit `i` of a set of flags. -/
def flagOf (v i : Nat) : Bool := v / 2 ^ i % 2 = 1

/-- Two fields, one after the other. -/
def takePair {α β : Type} (f : Field α) (g : Field β) : Field (α × β) := fun l =>
  (f l).bind fun (a, r) => (g r).map fun (b, q) => ((a, b), q)

/-- A whole argument: a field that leaves no octet over (R192: arguments whose length does not fit). -/
def whole {α : Type} (f : Field α) (l : List Byte) : Option α :=
  match f l with
  | some (a, []) => some a
  | _ => none

end Sys2Proof.Machine
end

