-- ==== Sys2Proof/Machine/Outputs.lean ====
section
/-! DEFINITION. Channel health, the equipment fault set and the four output lines: assertion, driven level and readback (R8, R140 to R149). -/

namespace Sys2Proof.Machine

/-! ### Effective health (R8) -/

/-- Effective channel health: the recorded health, or ABSENT while the node is SILENT (R8). -/
inductive EffHealth where
  | recorded (h : Health)
  | absent
deriving DecidableEq, Repr

/-- The effective health of a channel in use (R8). -/
def State.effHealth (s : State) (c : Nat) : Option EffHealth :=
  (channelEntry s.tables c).map fun e =>
    if e.node.any fun n => (s.node n).silent then .absent
    else .recorded (s.channel c).health

/-- WIN accumulates the channel's samples: effective health OK or SUSPECT (R8). -/
def admitted (h : Option EffHealth) : Bool :=
  h == some (.recorded .ok) || h == some (.recorded .suspect)

/-- The exclusion reason of a channel that is not admitted (R53, R57). -/
def exclusionOf (h : Option EffHealth) : Exclusion :=
  if h == some (.recorded .notReady) then .notReady else .excluded

/-- The effective health of every channel, in channel order. -/
def State.healths (s : State) : List (Option EffHealth) :=
  (List.range 32).map s.effHealth

/-! ### Equipment fault set (R140) -/

/-- A member of the equipment fault set (R140). -/
inductive FaultMember where
  | channelFault (channel : Nat)
  | scannerFault (channel : Nat)
  | nodeSilent (node : Nat)
  | ambientFault
  | shutterFault (rail : Rail)
  | outputFault (line : Line)
  | loopLost
  | trackingSuspect
deriving DecidableEq, Repr

/-- The member a channel places in the set: a FAULTY crib or scanner channel (R8, R140). -/
def channelMember (s : State) (c : Nat) : Option FaultMember :=
  match channelEntry s.tables c with
  | none => none
  | some e =>
    if s.effHealth c = some (.recorded .faulty) then
      match e.kind with
      | .crib => some (.channelFault c)
      | .scanner => some (.scannerFault c)
      | .ambient => none
    else none

/-- The member a node places in the set: a SILENT used node (R6, R140). -/
def nodeMember (s : State) (n : Nat) : Option FaultMember :=
  if (nodeEntry s.tables n).isSome && (s.node n).silent then some (.nodeSilent n) else none

/-- The current passage carries TRACKING_SUSPECT (R35). -/
def State.trackingSuspect (s : State) : Bool := s.passage.any (·.flags.suspect)

/-- The equipment fault set, each member at most once, read off the blocks that place and remove the members (R140). -/
def State.faultSet (s : State) : List FaultMember :=
  (List.range 32).filterMap (channelMember s)
  ++ (List.range' 1 12).filterMap (nodeMember s)
  ++ (if s.sin.ambientFault then [.ambientFault] else [])
  ++ [Rail.left, Rail.right].filterMap (fun r =>
      if (s.brg.faults.get r).isSome then some (.shutterFault r) else none)
  ++ allLines.filterMap (fun l => if (s.aou.lines.get l).faulty then some (.outputFault l) else none)
  ++ (if s.lif.loopLost then [.loopLost] else [])
  ++ (if s.trackingSuspect then [.trackingSuspect] else [])

/-! ### Assertion and driven level (R142, R145, R147) -/

/-- The entry of a line in the output table (R141). -/
def State.outputEntry (s : State) (l : Line) : OutputEntry :=
  s.tables.output.getD (lineIndex l) OutputEntry.reset

/-- The site state is PASSAGE or CLOSING: a passage is current (R142). -/
def State.inPassage (s : State) : Bool := s.scu.site == .passage || s.scu.site == .closing

/-- The class set holds an alarm class that the list holds an alarm of (R137, R142, R143). -/
def holdsClass (c : ClassSet) (h : Severities) : Bool :=
  (c.critical && 0 < h.critical) || (c.alarm && 0 < h.alarm) || (c.watch && 0 < h.watch)

/-- A source of assertion other than latch and hold for a STEADY or ENVELOPE line (R142). -/
def State.lineSource (s : State) (e : OutputEntry) : Bool :=
  (!e.latched && s.inPassage && holdsClass e.classes s.aou.alarms.highest)
  || (e.classes.equipment && !s.faultSet.isEmpty)
  || (e.classes.presence && s.inPassage)
  || (e.classes.link && s.lif.linkLost)

/-- The assertion of a line under R142, or R147 in OFFLINE. -/
def State.lineAsserted (s : State) (l : Line) : Bool :=
  let e := s.outputEntry l
  let x := s.aou.lines.get l
  if s.scu.site = .offline then x.test || x.latched
  else
    match e.mode with
    | .pulse => x.pulse.isSome || x.latched
    | .steady | .envelope => x.latched || x.hold.isSome || s.lineSource e

/-- The waves of an envelope set that are low at a phase are none (R145). -/
def envelopeHigh (e : EnvelopeSet) (phase : Nat) : Bool :=
  (!e.hz1 || phase % 1000000 < 500000)
  && (!e.hz2 || phase % 500000 < 250000)
  && (!e.hz4 || phase % 250000 < 125000)

/-- The driven level of a line: low when deasserted, else by mode and envelope (R145, R147). -/
def drivenLevel (e : OutputEntry) (asserted : Bool) (phase : Nat) : Bool :=
  asserted &&
    (match e.mode with
     | .steady | .pulse => true
     | .envelope => envelopeHigh e.envelope phase)

/-! ### Readback (R148) -/

/-- The readback timer as the comparison of a driven level and a readback level starts afresh: 40 ms towards a change of health, or stopped (R148). -/
def compareTimer (faulty driven readback : Bool) : Option Nat :=
  if (driven == readback) == faulty then some Config.readbackTime else none

/-- Sets the assertion and driven level of a line; a change of the driven level restarts the comparison (R142, R148). -/
def applyLine (e : OutputEntry) (asserted readback : Bool) (x : LineState) : LineState :=
  let d := drivenLevel e asserted x.phase
  { x with
    asserted := asserted
    driven := d
    readback := if d = x.driven then x.readback else compareTimer x.faulty d readback }

/-- Re-judges one line (R142, R147). -/
def State.judgeLine (l : Line) (s : State) : State :=
  s.onLine l (applyLine (s.outputEntry l) (s.lineAsserted l) (s.pins.readback.get l))

/-- Re-judges every line, at a change of any source (R142). -/
def State.judgeLines (s : State) : State := forEach allLines State.judgeLine s

/-- The members of the equipment fault set, or effective healths, have changed: EQUIPMENT_CHANGED is raised and the lines are re-judged (R140, R142). -/
def State.equipmentChanged (s : State) : State := (s.raise .equipmentChanged).judgeLines

/-- The fault set or the effective health of a channel in use before and after differs between two states (R8, R140). -/
def equipmentDiffers (a b : State) : Bool :=
  a.faultSet != b.faultSet
  || (List.zip a.healths b.healths).any fun (x, y) => x.isSome && y.isSome && x != y

/-- Raises EQUIPMENT_CHANGED if the step from `before` changed the fault set or an effective health. -/
def State.equipmentSince (before s : State) : State :=
  if equipmentDiffers before s then s.equipmentChanged else s

/-! ### Changes of a line (R144, R146, R148, R149) -/

/-- The line as a reset leaves it: the comparison starts afresh from the levels at that moment (R148, R149). -/
def resetLine (readback : Bool) : LineState :=
  { LineState.reset with readback := compareTimer false false readback }

/-- Every line as a reset leaves it (R149). -/
def State.resetLines (s : State) : State :=
  s.onAou fun a => { a with lines := s.pins.readback.map resetLine }

/-- CLEAR_OUTPUTS: no latch, no hold timer, every line re-judged (R144). -/
def State.clearOutputs (s : State) : State :=
  (s.onAou fun a => { a with lines := a.lines.map fun x => { x with latched := false, hold := none } }).judgeLines

/-- Starts a pulse, or starts it anew, on a PULSE line whose pulse window is the mark's (R146). -/
def State.pulseLine (window : Nat) (l : Line) (s : State) : State :=
  let e := s.outputEntry l
  if e.mode = .pulse ∧ e.pulseWindow = some window then
    (s.onLine l fun x => { x with pulse := some (1000 * e.pulseLength) }).judgeLine l
  else s

/-- AOU takes a mark: every PULSE line on its window pulses (R146). -/
def State.pulseLines (window : Nat) (s : State) : State := forEach allLines (State.pulseLine window) s

/-- A class by its place in the class set (R134's table). -/
inductive AlarmClass where
  | critical
  | alarm
  | watch
deriving DecidableEq, Repr

/-- The class set holds an alarm class (R141). -/
def ClassSet.has (c : ClassSet) (k : AlarmClass) : Bool :=
  match k with
  | .critical => c.critical
  | .alarm => c.alarm
  | .watch => c.watch

/-- Latches a STEADY or ENVELOPE line whose latched flag is set at a raise of a class it follows (R144). -/
def State.latchLine (k : AlarmClass) (l : Line) (s : State) : State :=
  let e := s.outputEntry l
  if e.mode ≠ .pulse ∧ e.latched ∧ e.classes.has k then s.onLine l fun x => { x with latched := true }
  else s

/-- Starts the hold timer of a non-latched line whose class set holds an alarm class that the passage held (R143). -/
def State.holdLine (l : Line) (s : State) : State :=
  let e := s.outputEntry l
  if e.mode ≠ .pulse ∧ ¬ e.latched ∧ 0 < e.hold ∧ holdsClass e.classes s.aou.alarms.highest then
    s.onLine l fun x => { x with hold := some (1000000 * e.hold) }
  else s

/-- The hold timers start as CLOSING ends with the entry into ARMED (R143). -/
def State.holdLines (s : State) : State := forEach allLines State.holdLine s

/-- The lines on an entry into OFFLINE: hold timers and pulses stop, test levels are OFF (R147, R149). -/
def offlineLine (x : LineState) : LineState := { x with hold := none, pulse := none, test := false }

end Sys2Proof.Machine
end

