-- ==== Sys2Proof/Machine/Flags.lean ====
section
/-! DEFINITION. The codes and flag words of R200: answer codes, enumerated values, and the flag octets of the report records. -/

namespace Sys2Proof.Machine

/-- The answer codes (00_scope.md, Stations, frames and commands). -/
inductive AnswerCode where
  | done
  | doneClamped
  | refusedState
  | refusedBusy
  | refusedFixed
  | badArgument
  | tableInvalid
  | notSealed
  | noSuchSlot
  | storeFailed
  | unknownCommand
deriving DecidableEq, Repr

/-- Answer codes are 0 to 10 in the order of R200. -/
def answerNumber (a : AnswerCode) : Nat :=
  match a with
  | .done => 0
  | .doneClamped => 1
  | .refusedState => 2
  | .refusedBusy => 3
  | .refusedFixed => 4
  | .badArgument => 5
  | .tableInvalid => 6
  | .notSealed => 7
  | .noSuchSlot => 8
  | .storeFailed => 9
  | .unknownCommand => 10

/-- Site states are 0 to 4 from OFFLINE to CLOSING (R200). -/
def siteCode (x : SiteState) : Nat :=
  match x with
  | .offline => 0
  | .checking => 1
  | .armed => 2
  | .passage => 3
  | .closing => 4

/-- A rail, LEFT then RIGHT. -/
def railCode (r : Rail) : Nat :=
  match r with
  | .left => 0
  | .right => 1

/-- A side, LEFT, RIGHT or none, in the order of R135. -/
def sideCode (r : Option Rail) : Nat :=
  match r with
  | some .left => 0
  | some .right => 1
  | none => 2

/-- A direction, UP 0 and DOWN 1 (R200, header record). -/
def dirCode (d : Direction) : Nat :=
  match d with
  | .up => 0
  | .down => 1

/-- A disposition, COMPLETE 0 to ABORTED 4 (R200, header record). -/
def dispositionCode (d : Disposition) : Nat :=
  match d with
  | .complete => 0
  | .withdrawn => 1
  | .split => 2
  | .forced => 3
  | .aborted => 4

/-- A node kind in the order of R5. -/
def nodeKindCode (k : NodeKind) : Nat :=
  match k with
  | .cribDigitizer => 0
  | .scannerDigitizer => 1
  | .transducer => 2

/-- A channel kind in the order of R7. -/
def channelKindCode (k : ChannelKind) : Nat :=
  match k with
  | .crib => 0
  | .scanner => 1
  | .ambient => 2

/-- A window kind in the order of R49. -/
def windowKindCode (k : WindowKind) : Nat :=
  match k with
  | .weigh => 0
  | .impact => 1
  | .scan => 2
  | .mark => 3

/-- An output mode in the order of R141. -/
def modeCode (m : OutputMode) : Nat :=
  match m with
  | .steady => 0
  | .envelope => 1
  | .pulse => 2

/-- Recorded health in the order of R8. -/
def healthCode (h : Health) : Nat :=
  match h with
  | .notReady => 0
  | .ok => 1
  | .suspect => 2
  | .faulty => 3

/-- Effective health: the recorded values, then ABSENT (00_scope.md, Channel health). -/
def effHealthCode (h : EffHealth) : Nat :=
  match h with
  | .recorded x => healthCode x
  | .absent => 4

/-- A source state in the order of R134. -/
def sourceCode (x : Settlement) : Nat :=
  match x with
  | .provisional => 0
  | .confirmed => 1
  | .unsteady => 2
  | .unconfirmed => 3

/-- An evaluation state in the order of R93. -/
def evalCode (x : EvalState) : Nat :=
  match x with
  | .pending => 0
  | .confirmed => 1
  | .unsteady => 2
  | .unconfirmed => 3

/-- An alarm kind in the order of R134's table. -/
def alarmCode (k : AlarmKind) : Nat :=
  match k with
  | .impactCrit => 0
  | .hot => 1
  | .impactAlarm => 2
  | .diff => 3
  | .outlier => 4
  | .axleOver => 5
  | .vehicleOver => 6
  | .impactWatch => 7
  | .warm => 8
  | .wheelImbalance => 9
  | .endImbalance => 10

/-- A shutter state in the order of R116. -/
def shutterCode (x : Shutter) : Nat :=
  match x with
  | .closed => 0
  | .opened => 1
  | .closeWait => 2

/-- A check status in the order of R178. -/
def checkCode (c : CheckStatus) : Nat :=
  match c with
  | .idle => 0
  | .run _ => 1
  | .ended => 2
  | .aborted _ => 3

/-- A check phase in the order of R178. -/
def phaseCode (p : CheckPhase) : Nat :=
  match p with
  | .settle => 0
  | .capture => 1
  | .reference => 2

/-- An abort reason in the order of R178. -/
def reasonCode (r : AbortReason) : Nat :=
  match r with
  | .train => 0
  | .approach => 1
  | .stop => 2
  | .loop => 3

/-- A failure cause in the order of R171. -/
def causeCode (c : FailureCause) : Nat :=
  match c with
  | .markedInvalid => 0
  | .checkFailed => 1

/-- A section condition in the order of R182. -/
def condCode (c : SectionCond) : Nat :=
  match c with
  | .blank => 0
  | .good => 1
  | .bad => 2

/-- A loop rate in the order of R187. -/
def rateCode (r : Rate) : Nat :=
  match r with
  | .mbit16 => 0
  | .mbit8 => 1
  | .mbit4 => 2
  | .mbit2 => 3

/-- The frame kinds (R200). -/
inductive FrameKind where
  | smp
  | crs
  | nst
  | tim
  | cmd
  | ans
  | rpt
  | evt
deriving DecidableEq, Repr

/-- A frame kind, SMP 1 to EVT 8 (R200). -/
def frameCode (k : FrameKind) : Nat :=
  match k with
  | .smp => 1
  | .crs => 2
  | .nst => 3
  | .tim => 4
  | .cmd => 5
  | .ans => 6
  | .rpt => 7
  | .evt => 8

/-- A section of a report, HEADER 1 to ALARMS 4 (R200, RPT payload). -/
def reportSectionCode (x : Section) : Nat :=
  match x with
  | .header => 1
  | .axles => 2
  | .vehicles => 3
  | .alarms => 4

/-! ### Flag octets of the report records (R200) -/

/-- The number whose bit i is flag i of a list. -/
def flagBits (l : List Bool) : Nat :=
  (l.zipIdx.map fun (b, i) => if b then 2 ^ i else 0).foldl (· + ·) 0

/-- Header flags: TRACKING_SUSPECT bit 0 to NOT_READY channels bit 5 (R200). -/
def headerFlags (f : PassageFlags) : Nat :=
  flagBits [f.suspect, f.stood, f.truncated, f.outlierSkipped, f.vehiclesTruncated, f.notReady]

/-- LOST_CONTEXT: WEIGH LEFT bit 0 to SCAN RIGHT bit 5 (R200). -/
def lostFlags (a : AxleRecord) : Nat :=
  flagBits [a.lostWeigh.left, a.lostWeigh.right, a.lostImpact.left, a.lostImpact.right,
    a.lostScan.left, a.lostScan.right]

/-- Axle flags: reversed bit 0 to imbalance present bit 4 (R200). -/
def axleFlags (a : AxleRecord) : Nat :=
  flagBits [a.reversed, a.reversedInWindow, a.axleLoad.isSome, a.negative, a.imbalance.isSome]

/-- Context flags: GAP bit 0 to SHUTTER_NOT_SETTLED bit 3 (R200). -/
def contextFlagBits (f : ContextFlags) : Nat := flagBits [f.gap, f.overrange, f.suspect, f.unsettled]

/-- A part's settlement state: 0 for an absent part, PROVISIONAL 1 to UNCONFIRMED 4 (R200). -/
def settlementCode (x : Option Settlement) : Nat :=
  match x with
  | none => 0
  | some y => sourceCode y + 1

/-- A no-load reason: 0 when a load is present (R200). -/
def noLoadCode (x : Option NoLoad) : Nat :=
  match x with
  | none => 0
  | some .thin => 1
  | some .notReady => 2
  | some .excluded => 3

/-- A no-peak reason: 0 when P is present (R200). -/
def noPeakCode (x : Option NoPeak) : Nat :=
  match x with
  | none => 0
  | some .notReady => 1
  | some .excluded => 2
  | some .noSamples => 3

/-- A ratio absence reason: 0 when ρ is present or P is absent (R200). -/
def noRatioCode (x : Option NoRatio) : Nat :=
  match x with
  | none => 0
  | some .noLoad => 1
  | some .lightLoad => 2

/-- A no-reading reason: 0 when a reading is present (R200). -/
def noReadingCode (x : Option NoReading) : Nat :=
  match x with
  | none => 0
  | some .excluded => 1
  | some .notSettled => 2
  | some .thin => 3

/-- An impact level, NONE 0 to CRITICAL 3 (R200). -/
def levelCode (l : Level) : Nat :=
  match l with
  | .none => 0
  | .watch => 1
  | .alarm => 2
  | .critical => 3

end Sys2Proof.Machine
end

