-- ==== Sys2Proof/Machine/Codec.lean ====
section
/-! DEFINITION. Frames of the site loop: CRC-16, the check of R188, and the layouts of R200. -/

namespace Sys2Proof.Machine

/-! ### CRC-16 (R200) -/

/-- One bit of the CRC with polynomial x¹⁶+x¹²+x⁵+1 (R200). -/
def crcBit (c : BitVec 16) : BitVec 16 :=
  if c.getLsbD 15 then (c <<< 1) ^^^ 0x1021 else c <<< 1

/-- One octet of the CRC, not reflected (R200). -/
def crcOctet (c : BitVec 16) (b : Byte) : BitVec 16 :=
  let x := c ^^^ (b.zeroExtend 16 <<< 8)
  crcBit (crcBit (crcBit (crcBit (crcBit (crcBit (crcBit (crcBit x)))))))

/-- The CRC after octets, each octet's value taken before the next (R200); the match alone makes the order of evaluation. -/
def crcFrom (c : BitVec 16) (l : List Byte) : BitVec 16 :=
  match l with
  | [] => c
  | b :: rest =>
    match (crcOctet c b).toNat with
    | 0 => crcFrom 0 rest
    | n + 1 => crcFrom (BitVec.ofNat 16 (n + 1)) rest

/-- The CRC-16 of octets: initial value all ones, no final value (R200). -/
def crc16 (l : List Byte) : BitVec 16 := crcFrom 0xFFFF l

/-! ### Frames (R188, R200) -/

/-- A frame that passed its check. -/
structure Frame where
  dest : Nat
  source : Nat
  kind : Nat
  payload : List Byte
  octets : List Byte
deriving DecidableEq, Repr

/-- The check of R188: length in words at most 1,024, the frame whole, and the CRC over header and payload in agreement. -/
def checkFrame (l : List Byte) : Option Frame :=
  let words := natAt l 3 2
  let body := 5 + 4 * words
  if 5 ≤ l.length ∧ words ≤ Config.payloadWordsMax ∧ body + 2 ≤ l.length
      ∧ (crc16 (l.take body)).toNat = natAt l body 2 then
    some
      { dest := byteAt l 0
        source := byteAt l 1
        kind := byteAt l 2
        payload := (l.drop 5).take (4 * words)
        octets := l.take (body + 2) }
  else none

/-- A payload padded with zero octets to whole words (R200). -/
def pad (l : List Byte) : List Byte := l ++ List.replicate ((4 - l.length % 4) % 4) 0

/-- The octets of a frame (R200). -/
def frameOctets (dest source : Nat) (kind : FrameKind) (payload : List Byte) : List Byte :=
  let p := pad payload
  let h := putNat 1 dest ++ putNat 1 source ++ putNat 1 (frameCode kind) ++ putNat 2 (p.length / 4) ++ p
  h ++ putNat 2 (crc16 h).toNat

/-- An ANS payload (R200). -/
def ansPayload (code : Nat) (tag : Byte) (a : AnswerCode) (data : List Byte) : List Byte :=
  putNat 1 code ++ [tag] ++ putNat 1 (answerNumber a) ++ [0] ++ data

/-- The data octets one ANS frame holds beside its envelope (R200). -/
def ansRoom : Nat := 4096 - 4

/-- An EVT payload: kind k at bit k − 1, site state, passage number (R200). -/
def evtPayload (kinds : BitVec 13) (site : SiteState) (passage : Nat) : List Byte :=
  putNat 2 kinds.toNat ++ putNat 1 (siteCode site) ++ [0] ++ put4 passage

/-- An RPT payload (R200). -/
def rptPayload (slot : Nat) (part : Section) (passage first : Nat) (records : List (List Byte)) : List Byte :=
  putNat 1 slot ++ putNat 1 (reportSectionCode part) ++ putNat 1 records.length ++ [0]
  ++ put4 passage ++ putNat 2 first ++ putNat 2 0 ++ records.flatMap id

/-! ### Report records (R157, R158, R200) -/

/-- The report header record of 48 octets (R156, R200). -/
def headerRecord (h : Header) : List Byte :=
  put4 h.number ++ putTime h.startTime ++ putTime h.endTime
  ++ putNat 1 (dispositionCode h.disposition) ++ putNat 1 (dirCode h.dir)
  ++ putNat 2 h.total ++ putNat 2 h.records ++ putNat 2 h.vehicleCount
  ++ putInt 2 (h.ambient.getD (-32768)) ++ putNat 1 (headerFlags h.flags) ++ [0]
  ++ [h.counters.sequence, h.counters.doublePulses, h.counters.late, h.counters.lostMarks,
      h.counters.standing, h.counters.conflicts, h.counters.lostContexts, h.counters.early,
      h.lostAlarms, h.highest.critical, h.highest.alarm, h.highest.watch].flatMap (putNat 2)

/-- The position error field: 65,535 when absent, 65,534 when larger (R200). -/
def posErrorField (e : Option Nat) : Nat :=
  match e with
  | none => 65535
  | some x => min x 65534

/-- The first 12 octets of every part (R200). -/
def partHead (c : PartCommon) (flags : Nat) : List Byte :=
  putNat 1 (settlementCode (some c.settlement)) ++ putNat 1 (contextFlagBits c.flags)
  ++ putTime c.closeTime ++ putNat 2 c.openSpeed ++ putNat 2 (posErrorField c.posError) ++ putNat 2 flags

/-- A load part of 24 octets, zero when absent (R200). -/
def loadRecord (x : Option LoadPart) : List Byte :=
  match x with
  | none => List.replicate 24 0
  | some p =>
    partHead p.common (flagBits [p.offBand, p.clamped])
    ++ putInt 2 (p.load.getD 0) ++ putInt 2 (p.raw.getD 0) ++ putNat 2 (p.factor.getD 0)
    ++ putNat 1 p.valid ++ putNat 1 p.thin ++ putNat 1 p.excluded
    ++ putNat 1 (p.dropHigh.getD 0) ++ putNat 1 (p.dropLow.getD 0) ++ putNat 1 (noLoadCode p.reason)

/-- The time of a peak, zero when absent (R200). -/
def peakTimeField (p : Option Peak) : List Byte :=
  match p with
  | some x => putTime x.time
  | none => put4 0

/-- The value of a peak, zero when absent (R200). -/
def peakValueField (p : Option Peak) : List Byte :=
  match p with
  | some x => putInt 2 x.value
  | none => putNat 2 0

/-- The channel of a peak, zero when absent (R200). -/
def peakChannelField (p : Option Peak) : List Byte :=
  match p with
  | some x => putNat 1 x.channel
  | none => putNat 1 0

/-- The value of a dynamic ratio, zero when absent (R200). -/
def ratioValueField (r : Option Ratio) : List Byte :=
  match r with
  | some x => put4 x.value
  | none => put4 0

/-- The load of a dynamic ratio, zero when absent (R200). -/
def ratioLoadField (r : Option Ratio) : List Byte :=
  match r with
  | some x => putInt 2 x.load
  | none => putNat 2 0

/-- An impact part of 34 octets, zero when absent (R200). -/
def impactRecord (x : Option ImpactPart) : List Byte :=
  match x with
  | none => List.replicate 34 0
  | some p =>
    partHead p.common (flagBits [p.lowSpeed, p.levelHeld])
    ++ peakValueField p.peak ++ peakChannelField p.peak
    ++ putNat 1 p.contributing ++ putNat 1 p.overWarning ++ putNat 1 (levelCode p.level)
    ++ peakTimeField p.peak ++ put4 (p.dose.getD 0) ++ ratioValueField p.ratio ++ ratioLoadField p.ratio
    ++ putNat 1 (noPeakCode p.noPeak) ++ putNat 1 (noRatioCode p.noRatio)

/-- A bearing part of 24 octets, zero when absent (R200). -/
def bearingRecord (x : Option BearingPart) : List Byte :=
  match x with
  | none => List.replicate 24 0
  | some p =>
    partHead p.common (flagBits [p.notOpen, p.rise.isSome])
    ++ peakValueField p.peak ++ putInt 2 (p.rise.getD 0) ++ peakChannelField p.peak
    ++ putNat 1 p.contributing ++ putFlag p.hot ++ putNat 1 (noReadingCode p.noReading)
    ++ peakTimeField p.peak

/-- An entry of the mark list: window × 2 + bound, then the mark time (R200). -/
def markRecord (m : MarkRecord) : List Byte :=
  putNat 1 (2 * m.window + (match m.bound with | .near => 0 | .far => 1)) ++ putTime m.time

/-- The spacing value, 0 unless the spacing state is a value (R200). -/
def spacingValue (x : Spacing) : Nat :=
  match x with
  | .value v => v
  | .pending | .absent => 0

/-- The spacing state: PENDING 0, value 1, ABSENT 2 (R200). -/
def spacingCode (x : Spacing) : Nat :=
  match x with
  | .pending => 0
  | .value _ => 1
  | .absent => 2

/-- The report axle record of 248 octets (R157, R200). -/
def axleRecord (a : AxleRecord) : List Byte :=
  putNat 2 a.number ++ putNat 2 (a.speed.getD 0)
  ++ putNat 2 (spacingValue a.spacing) ++ putNat 1 (spacingCode a.spacing)
  ++ putNat 1 a.finalSegment ++ putNat 1 a.marks.length ++ putNat 1 (lostFlags a)
  ++ putNat 1 (axleFlags a) ++ putNat 1 (settlementCode a.loadSettlement)
  ++ putNat 2 (a.vehicle.getD 0) ++ putNat 2 (a.axleLoad.getD 0)
  ++ put4 (a.imbalance.getD 0) ++ put4 0
  ++ (a.marks.take 12).flatMap markRecord ++ List.replicate (5 * (12 - a.marks.length)) 0
  ++ loadRecord a.load.left ++ loadRecord a.load.right
  ++ impactRecord a.impact.left ++ impactRecord a.impact.right
  ++ bearingRecord a.bearing.left ++ bearingRecord a.bearing.right

/-- A record of the VEHICLES section: the fields of R93 in order (R158, R200). -/
def vehicleRecord (v : Vehicle) : List Byte :=
  put4 v.number ++ put4 v.code ++ put4 v.first ++ put4 v.axles
  ++ putOption put4 v.gross ++ putOption put4 v.endImbalance
  ++ putCode (evalCode v.eval) ++ putSet [v.unsteadySource, v.endAssumed]

/-- An alarm entry as READ_ALARMS and the ALARMS section return it: the fields of R135 but the link, values of 8 octets (R158, R200). -/
def alarmRecord (e : AlarmEntry) : List Byte :=
  putCode (alarmCode e.kind) ++ put4 e.object ++ putCode (sideCode e.side)
  ++ putInt 8 e.value ++ putInt 8 e.threshold ++ putCode (sourceCode e.source)
  ++ putFlag e.unsteady ++ putTime e.raiseTime

/-- The records of a section of a sealed report (R156 to R158). -/
def sectionRecords (r : Report) (x : Section) : List (List Byte) :=
  match x with
  | .header => [headerRecord r.header]
  | .axles => r.axles.map axleRecord
  | .vehicles => r.vehicles.map vehicleRecord
  | .alarms => r.alarms.map alarmRecord

end Sys2Proof.Machine
end

