-- ==== Sys2Proof/Machine/Alarms.lean ====
section
/-! DEFINITION. Raises and the passage alarm list (R134 to R138). -/

namespace Sys2Proof.Machine

/-- The class of an alarm kind (R134's table). -/
def alarmClass (k : AlarmKind) : AlarmClass :=
  match k with
  | .impactCrit | .hot => .critical
  | .impactAlarm | .diff | .outlier | .axleOver | .vehicleOver => .alarm
  | .impactWatch | .warm | .wheelImbalance | .endImbalance => .watch

/-- The event kind of a class (R137, R164). -/
def classEvent (k : AlarmClass) : EventKind :=
  match k with
  | .critical => .criticalRaised
  | .alarm => .alarmRaised
  | .watch => .watchRaised

/-- A raise (R134); `link` names the part of a PROVISIONAL source. -/
structure Raise where
  kind : AlarmKind
  object : Nat
  side : Option Rail
  value : Int
  threshold : Int
  source : Settlement
  link : Option PartRef
deriving DecidableEq, Repr

/-- The severity of a raise (R134). -/
def severity (value threshold : Int) : Nat :=
  if threshold ≤ 0 then 65535 else min 65535 (divRound (1000 * value) threshold.toNat).toNat

/-- The entry that a raise makes, with the raise time given (R136). -/
def entryOf (r : Raise) (time : LoopTime) : AlarmEntry where
  kind := r.kind
  object := r.object
  side := r.side
  value := r.value
  threshold := r.threshold
  source := r.source
  unsteady := r.source == .unsteady
  raiseTime := time
  link := if r.source = .provisional then r.link else none

/-- An entry has the key of a raise: kind, object and side (R136). -/
def sameKey (r : Raise) (e : AlarmEntry) : Bool :=
  e.kind == r.kind && e.object == r.object && e.side == r.side

/-- The highest severities after a raise of a class (R137). -/
def liftSeverity (k : AlarmClass) (v : Nat) (h : Severities) : Severities :=
  match k with
  | .critical => { h with critical := max h.critical v }
  | .alarm => { h with alarm := max h.alarm v }
  | .watch => { h with watch := max h.watch v }

/-- What a raise does to the entries, by the three cases of R136. -/
inductive Entered where
  | created (entries : List AlarmEntry)
  | changed (entries : List AlarmEntry)
  | unchanged
  | lost
deriving DecidableEq, Repr

/-- Enters a raise into the entries (R136). -/
def enterRaise (r : Raise) (time : LoopTime) (l : List AlarmEntry) : Entered :=
  match l.find? (sameKey r) with
  | some e =>
    if e.value < r.value then
      .changed (l.map fun x => if sameKey r x then { entryOf r x.raiseTime with raiseTime := x.raiseTime } else x)
    else .unchanged
  | none => if l.length < Config.alarmListDepth then .created (l ++ [entryOf r time]) else .lost

/-- The alarm list after a raise (R136, R137). -/
def AlarmList.raise (r : Raise) (time : LoopTime) (a : AlarmList) : AlarmList :=
  let h := liftSeverity (alarmClass r.kind) (severity r.value r.threshold) a.highest
  match enterRaise r time a.entries with
  | .created l => { a with entries := l, highest := h }
  | .changed l => { a with entries := l, highest := h }
  | .unchanged => { a with highest := h }
  | .lost => { a with highest := h, lost := bump a.lost }

/-- A raise that creates an entry, changes one, or is lost to a full list is handed to RPS (R137). -/
def handedOn (e : Entered) : Bool := e != .unchanged

/-- AOU receives a raise: the list and the severities, the event of its class, the latches, the lines (R136, R137, R142, R144). -/
def State.alarm (r : Raise) (s : State) : State :=
  let k := alarmClass r.kind
  let e := enterRaise r s.now s.aou.alarms.entries
  let s1 := s.onAou fun a => { a with alarms := a.alarms.raise r s.now }
  let s2 := s1.raiseIf (handedOn e) (classEvent k)
  (forEach allLines (State.latchLine k) s2).judgeLines

/-- A raise made when a condition holds. -/
def State.alarmIf (b : Bool) (r : Raise) (s : State) : State := if b then s.alarm r else s

/-- Changes the entries linked to a part (R138). -/
def State.onLinked (p : PartRef) (f : AlarmEntry → AlarmEntry) (s : State) : State :=
  s.onAou fun a =>
    { a with alarms :=
      { a.alarms with entries := a.alarms.entries.map fun e => if e.link = some p then f e else e } }

/-- AOU records a part's settlement on the entries linked to it (R138). -/
def State.recordSettlement (p : PartRef) (st : Settlement) (s : State) : State :=
  s.onLinked p fun e =>
    { e with source := st, unsteady := e.unsteady || st == .unsteady, link := none }

/-- The entries linked to a part that is being replaced lose their link (R138). -/
def State.unlink (p : PartRef) (s : State) : State := s.onLinked p fun e => { e with link := none }

end Sys2Proof.Machine
end

