-- ==== Sys2Proof/Machine/Weighing.lean ====
section
/-! DEFINITION. The Weighing Unit: from a WEIGH context to a load part, axle load and imbalance, and the load alarms (R67 to R84). -/

namespace Sys2Proof.Machine

/-! ### Speed correction (R68, R69) -/

/-- K(v) past the point before, over the points that follow (R69). -/
def factorFrom (v : Nat) (a : SpeedPoint) (l : List SpeedPoint) : Int :=
  match l with
  | [] => a.factor
  | b :: rest =>
    if v < b.speed then
      (a.factor : Int)
        + divRound (((b.factor : Int) - a.factor) * ((v : Int) - a.speed)) (b.speed - a.speed)
    else factorFrom v b rest

/-- The factor K(v) of the speed correction table (R69); a table with no set point, which no committed one is, gives the factor 1. -/
def speedFactor (t : List (Option SpeedPoint)) (v : Nat) : Int :=
  match t.filterMap id with
  | [] => 32768
  | a :: rest => if v ≤ a.speed then a.factor else factorFrom v a rest

/-! ### Load part (R70 to R77) -/

/-- The class of a listed channel (R71). -/
inductive ChannelClass where
  | valid
  | thin
  | notReady
  | excluded
deriving DecidableEq, Repr

/-- Classes a channel entry of a WEIGH context (R71). -/
def channelClass (nMin : Nat) (e : ContextEntry) : ChannelClass :=
  if nMin ≤ e.count then .valid
  else
    match e.exclusion with
    | some .notReady => .notReady
    | some .excluded => .excluded
    | none => .thin

/-- A channel with its mean (R72). -/
structure ChannelMean where
  channel : Nat
  mean : Int
deriving DecidableEq, Repr

/-- The channel means of the VALID channels, in list order (R72). -/
def channelMeans (nMin : Nat) (l : List ContextEntry) : List ChannelMean :=
  (l.filter fun e => channelClass nMin e = .valid).map fun e => ⟨e.channel, divRound e.sum e.count⟩

/-- The greatest mean (R73). -/
def greatestMean (a : ChannelMean) (l : List ChannelMean) : Int := l.foldl (fun m x => max m x.mean) a.mean
/-- The least mean (R73). -/
def leastMean (a : ChannelMean) (l : List ChannelMean) : Int := l.foldl (fun m x => min m x.mean) a.mean

/-- A raw wheel load with the channels set aside (R73). -/
structure RawLoad where
  raw : Int
  dropHigh : Option Nat
  dropLow : Option Nat
deriving DecidableEq, Repr

/-- W_raw from the means of the VALID channels (R73); none when fewer than two. -/
def rawLoad (l : List ChannelMean) : Option RawLoad :=
  match l with
  | [] => none
  | [_] => none
  | a :: rest =>
    if l.length < 4 then some ⟨divRound (sumInt (l.map (·.mean))) l.length, none, none⟩
    else
      let hi := l.findIdx fun x => x.mean == greatestMean a rest
      let lo := l.length - 1 - (l.reverse.findIdx fun x => x.mean == leastMean a rest)
      let kept := (l.zipIdx.filter fun (_, i) => i ≠ hi ∧ i ≠ lo).map fun (x, _) => x.mean
      some ⟨divRound (sumInt kept) (l.length - 2), (l[hi]?).map (·.channel), (l[lo]?).map (·.channel)⟩

/-- Why there is no wheel load, from the classes of the listed channels (R74). -/
def noLoadReason (l : List ChannelClass) : NoLoad :=
  if .notReady ∈ l then .notReady else if .excluded ∈ l then .excluded else .thin

/-- What WIN adds to a part made from a context closed at a time (R59). -/
def partCommon (c : Context) (t : LoopTime) : PartCommon where
  settlement := .provisional
  closeTime := t
  openSpeed := c.basis.speed
  flags := c.flags
  posError := none
  basis := c.basis

/-- A context's open speed lies off the weighing band (R76). -/
def offBand (site : List Nat) (v : Nat) : Bool := v < siteParam site 10 || siteParam site 11 < v

/-- The load part of a WEIGH context closed as COMPLETE (R70 to R77). -/
def loadPart (site : List Nat) (speed : List (Option SpeedPoint)) (c : Context) (t : LoopTime) : LoadPart :=
  let nMin := siteParam site 9
  let classes := c.entries.map (channelClass nMin)
  let raw := rawLoad (channelMeans nMin c.entries)
  let k := speedFactor speed c.basis.speed
  let w := raw.map fun r => divRound (r.raw * k) 32768
  { common := partCommon c t
    load := w.map (clampInt Config.forceMin Config.forceMax)
    raw := raw.map (·.raw)
    factor := raw.map fun _ => k.toNat
    reason := if raw.isSome then none else some (noLoadReason classes)
    valid := classes.count .valid
    thin := classes.count .thin
    excluded := classes.count .notReady + classes.count .excluded
    dropHigh := raw.bind (·.dropHigh)
    dropLow := raw.bind (·.dropLow)
    offBand := offBand site c.basis.speed
    clamped := w.any fun x => x < Config.forceMin || Config.forceMax < x }

/-! ### Axle load and imbalance (R78 to R81) -/

/-- The wheel load of a rail, if the record holds one (R79). -/
def wheelLoad (a : AxleRecord) (r : Rail) : Option Int := (a.load.get r).bind (·.load)

/-- The sum of the two wheel loads, when both are present (R79). -/
def loadSum (a : AxleRecord) : Option Int :=
  (wheelLoad a .left).bind fun l => (wheelLoad a .right).map fun r => l + r

/-- The imbalance in ‰ (R80). -/
def imbalanceOf (a : AxleRecord) : Option Nat :=
  (wheelLoad a .left).bind fun l =>
    (wheelLoad a .right).bind fun r =>
      if 0 < l + r then some (divRoundNat (1000 * (l - r).natAbs) (l + r).toNat) else none

/-- The worse of two settlement states (R81). -/
def jointSettlement (a b : Settlement) : Settlement :=
  if a = .provisional ∨ b = .provisional then .provisional
  else if a = .unsteady ∨ b = .unsteady then .unsteady
  else if a = .unconfirmed ∨ b = .unconfirmed then .unconfirmed
  else .confirmed

/-- The axle load settlement, present while the axle load is (R81). -/
def loadSettlementOf (a : AxleRecord) : Option Settlement :=
  match loadSum a, a.load.left, a.load.right with
  | some _, some l, some r => some (jointSettlement l.common.settlement r.common.settlement)
  | _, _, _ => none

/-- WGU recomputes axle load, NEGATIVE_LOAD, imbalance and settlement from the two load parts (R78 to R81). -/
def weighAxle (a : AxleRecord) : AxleRecord :=
  { a with
    axleLoad := (loadSum a).map Int.toNat
    negative := (loadSum a).any (· < 0)
    imbalance := imbalanceOf a
    loadSettlement := loadSettlementOf a }

/-! ### Load alarms (R82, R83) -/

/-- A raise about an axle load (R83). -/
def loadRaise (k : AlarmKind) (axle : Nat) (value threshold : Nat) (st : Settlement) : Raise :=
  ⟨k, axle, none, value, threshold, st, none⟩

/-- AOU judges AXLE_OVER and WHEEL_IMBALANCE of an axle whose axle load is settled (R82, R83). -/
def State.evaluateLoad (axle : Nat) (s : State) : State :=
  match s.axle axle with
  | none => s
  | some a =>
    match a.axleLoad, a.loadSettlement with
    | some w, some st =>
      if st = .provisional then s
      else
        let s1 := s.alarmIf (s.threshold 1 < w) (loadRaise .axleOver axle w (s.threshold 1) st)
        match a.imbalance with
        | some i => s1.alarmIf (s.threshold 2 < i) (loadRaise .wheelImbalance axle i (s.threshold 2) st)
        | none => s1
    | _, _ => s

end Sys2Proof.Machine
end

