-- ==== Sys2Proof/Machine/Impact.lean ====
section
/-! DEFINITION. The Impact Unit: from an IMPACT context to an impact part, its recomputation, and the impact alarms (R99 to R114). -/

namespace Sys2Proof.Machine

/-- The peaks of the contributing channels, in list order (R100, R123). -/
def contributingPeaks (l : List ContextEntry) : List Peak :=
  l.filterMap fun e =>
    match e.peak, e.peakTime with
    | some v, some t => some ⟨v, e.channel, t⟩
    | _, _ => none

/-- The greatest peak; the first in list order where several are equal (R101, R124). -/
def greatestPeak (l : List Peak) : Option Peak :=
  l.foldl (fun m x =>
    match m with
    | none => some x
    | some y => if y.value < x.value then some x else some y) none

/-- Why there is no wheel peak (R101). -/
def noPeakReason (l : List ContextEntry) : NoPeak :=
  if l.any (fun e => e.exclusion == some .notReady) then .notReady
  else if l.any (fun e => e.exclusion == some .excluded) then .excluded
  else .noSamples

/-- The dose term of a peak: e² / 100 truncated, with the excess e over P_warn (R102). -/
def doseTerm (warn : Nat) (p : Int) : Nat := ((p - warn).toNat * (p - warn).toNat) / 100

/-- The dose: the sum of the terms, held at its limit (R102). -/
def doseOf (warn : Nat) (l : List Peak) : Nat :=
  l.foldl (fun d x => min Config.countMax (d + doseTerm warn x.value)) 0

/-- The dynamic ratio of a peak and a wheel's load, where the load serves (R103). -/
def ratioOf (wMin : Nat) (peak load : Option Int) : Option Ratio :=
  match peak, load with
  | some p, some w => if (wMin : Int) ≤ w then some ⟨divRoundNat (1000 * p.toNat) w.toNat, w⟩ else none
  | _, _ => none

/-- Why the ratio of a part with a wheel peak is absent (R103). -/
def noRatioOf (wMin : Nat) (peak load : Option Int) : Option NoRatio :=
  match peak, load with
  | some _, none => some .noLoad
  | some _, some w => if (wMin : Int) ≤ w then none else some .lightLoad
  | none, _ => none

/-- The limits an impact part is judged by (R99). -/
structure ImpactLimits where
  warn : Nat
  crit : Nat
  dose : Nat
  ratio : Nat
  wMin : Nat
  minSpeed : Nat
deriving DecidableEq, Repr

/-- The six impact entries of the threshold table as they stand (R99). -/
def State.impactLimits (s : State) : ImpactLimits :=
  ⟨s.threshold 4, s.threshold 5, s.threshold 6, s.threshold 7, s.threshold 8, s.threshold 9⟩

/-- The computed level: the first row of R105 whose condition holds, the first row alone for a LOW_SPEED part. -/
def computedLevel (m : ImpactLimits) (low : Bool) (peak : Option Int) (dose : Option Nat) (ratio : Option Ratio) : Level :=
  if peak.any fun p => (m.crit : Int) ≤ p then .critical
  else if low then .none
  else if (dose.any fun d => m.dose ≤ d) || (ratio.any fun r => m.ratio ≤ r.value) then .alarm
  else if peak.any fun p => (m.warn : Int) ≤ p then .watch
  else .none

/-- The impact part of an IMPACT context closed as COMPLETE, beside the wheel's load as it stands (R100 to R106). -/
def impactPart (m : ImpactLimits) (load : Option Int) (c : Context) (t : LoopTime) : ImpactPart :=
  let peaks := contributingPeaks c.entries
  let p := greatestPeak peaks
  let v := p.map (·.value)
  let d := p.map fun _ => doseOf m.warn peaks
  let r := ratioOf m.wMin v load
  let low : Bool := c.basis.speed < m.minSpeed
  { common := partCommon c t
    peak := p
    dose := d
    ratio := r
    noRatio := noRatioOf m.wMin v load
    level := computedLevel m low v d r
    noPeak := if p.isSome then none else some (noPeakReason c.entries)
    contributing := peaks.length
    overWarning := (peaks.filter fun x => (m.warn : Int) < x.value).length
    lowSpeed := low
    levelHeld := false }

/-- The order NONE, WATCH, ALARM, CRITICAL of levels (R108). -/
def levelRank (l : Level) : Nat :=
  match l with
  | .none => 0
  | .watch => 1
  | .alarm => 2
  | .critical => 3

/-- The impact part recomputed from the wheel's load as now stored (R108). -/
def recomputeImpact (m : ImpactLimits) (load : Option Int) (p : ImpactPart) : ImpactPart :=
  let v := p.peak.map (·.value)
  let r := ratioOf m.wMin v load
  let n := computedLevel m p.lowSpeed v p.dose r
  { p with
    ratio := r
    noRatio := noRatioOf m.wMin v load
    level := if levelRank p.level < levelRank n then n else p.level
    levelHeld := decide (levelRank n < levelRank p.level) }

/-- The alarm index of an impact part by the formula of R112, also for a LEVEL_HELD part, whose terms may both lie below 1,000 (notes/assumptions/48.md). -/
def alarmIndex (m : ImpactLimits) (p : ImpactPart) : Nat :=
  let d := divRoundNat (1000 * p.dose.getD 0) m.dose
  let r := match p.ratio with
    | some x => divRoundNat (1000 * x.value) m.ratio
    | none => 0
  min 65535 (max d r)

/-- A raise about one wheel (R110, R111, R126, R127, R130). -/
def wheelRaise (k : AlarmKind) (axle : Nat) (rail : Rail) (value threshold : Int) (st : Settlement) (kind : PartKind) : Raise :=
  ⟨k, axle, some rail, value, threshold, st, some ⟨axle, kind, rail⟩⟩

/-- AOU judges IMPACT_CRIT at the store of an impact part (R110). -/
def State.evaluateImpactCrit (axle : Nat) (rail : Rail) (p : ImpactPart) (s : State) : State :=
  match p.peak with
  | some x =>
    s.alarmIf (p.level = .critical) (wheelRaise .impactCrit axle rail x.value (s.threshold 5) .provisional .impact)
  | none => s

/-- AOU judges the non-CRITICAL kinds of a settled impact part by its level (R111, R112). -/
def State.evaluateImpact (axle : Nat) (rail : Rail) (p : ImpactPart) (s : State) : State :=
  match p.level with
  | .alarm => s.alarm (wheelRaise .impactAlarm axle rail (alarmIndex s.impactLimits p) 1000 p.common.settlement .impact)
  | .watch =>
    match p.peak with
    | some x => s.alarm (wheelRaise .impactWatch axle rail x.value (s.threshold 4) p.common.settlement .impact)
    | none => s
  | .critical | .none => s

/-- The impact part of a wheel (R106). -/
def State.impactOf (s : State) (axle : Nat) (rail : Rail) : Option ImpactPart :=
  (s.axle axle).bind fun a => a.impact.get rail

/-- The wheel load of a wheel as stored (R103). -/
def State.loadOf (s : State) (axle : Nat) (rail : Rail) : Option Int :=
  (s.axle axle).bind fun a => wheelLoad a rail

/-- IMP recomputes a wheel's impact part at a store of its load part and hands a risen settled part to AOU (R108, R109). -/
def State.recomputeImpactPart (axle : Nat) (rail : Rail) (s : State) : State :=
  match s.impactOf axle rail with
  | none => s
  | some p =>
    let q := recomputeImpact s.impactLimits (s.loadOf axle rail) p
    let s1 := s.onAxle axle fun a => { a with impact := a.impact.set rail (some q) }
    if levelRank p.level < levelRank q.level ∧ q.common.settlement ≠ .provisional then
      s1.evaluateImpact axle rail q
    else s1

end Sys2Proof.Machine
end

