-- ==== Sys2Proof/Machine/Bearing.lean ====
section
/-! DEFINITION. The Bearing Unit: shutters, feedback, the settled judgment, the bearing part and its checks (R115 to R132). -/

namespace Sys2Proof.Machine

/-! ### Shutter commands and feedback supervision (R116 to R121) -/

/-- The command lines are open: the state is OPEN or CLOSE_WAIT (R116). -/
def linesOpen (b : Brg) : Bool := b.shutter != .closed

/-- Removes the shutter fault of a scanner whose feedback agrees with its command line (R119). -/
def dropFault (linesAreOpen feedbackOpen : Bool) (f : Option ShutterFault) : Option ShutterFault :=
  if linesAreOpen = feedbackOpen then none else f

/-- BRG after an open command: open timers start where the feedback does not show open, close timers stop, faults that now agree leave (R116, R119). -/
def openCommand (feedback : PerRail Bool) (b : Brg) : Brg :=
  let timer := fun (o : Bool) => if o then none else some Config.feedbackTimeout
  { b with
    shutter := .opened
    closeTimer := none
    openTimers := feedback.map timer
    closeTimers := PerRail.same none
    faults := ⟨dropFault true feedback.left b.faults.left, dropFault true feedback.right b.faults.right⟩ }

/-- BRG after a close command: close timers start where the feedback shows open, open timers stop, faults that now agree leave (R116, R119). -/
def closeCommand (feedback : PerRail Bool) (b : Brg) : Brg :=
  let timer := fun (o : Bool) => if o then some Config.feedbackTimeout else none
  { b with
    shutter := .closed
    closeTimer := none
    openTimers := PerRail.same none
    closeTimers := feedback.map timer
    faults := ⟨dropFault false feedback.left b.faults.left, dropFault false feedback.right b.faults.right⟩ }

/-- EQUIPMENT_CHANGED if a shutter command removed a fault (R119). -/
def State.withBrg (f : Brg → Brg) (s : State) : State :=
  let t := s.onBrg f
  if t.brg.faults = s.brg.faults then t else t.equipmentChanged

/-- The shutters become OPEN, by an open command if they were CLOSED (R117). -/
def State.openShutters (s : State) : State :=
  match s.brg.shutter with
  | .closed => s.withBrg (openCommand s.pins.feedback)
  | .opened => s
  | .closeWait => s.onBrg fun b => { b with shutter := .opened, closeTimer := none }

/-- The shutters become CLOSED by a close command, if they were not (R116, R118). -/
def State.closeShutters (s : State) : State :=
  match s.brg.shutter with
  | .closed => s
  | .opened | .closeWait => s.withBrg (closeCommand s.pins.feedback)

/-- The entry into CLOSING: CLOSE_WAIT with 2 s, whatever the approach level (R118). -/
def State.closeWaitClosing (s : State) : State :=
  s.onBrg fun b => { b with shutter := .closeWait, closeTimer := some Config.closeDelayClosing }

/-- From OPEN, CLOSE_WAIT with 60 s (R118). -/
def State.closeWaitApproach (s : State) : State :=
  match s.brg.shutter with
  | .opened => s.onBrg fun b => { b with shutter := .closeWait, closeTimer := some Config.closeDelayApproach }
  | .closed | .closeWait => s

/-- The shutters at an entry into ARMED (R117, R118). -/
def State.shuttersAtArmed (s : State) : State :=
  if s.pins.approach then
    match s.brg.shutter with
    | .closed => s.openShutters
    | .opened | .closeWait => s
  else s.closeWaitApproach

/-- A change joins the feedback record; past eight the oldest becomes the base (R121). -/
def joinFeedback (c : FeedbackChange) (r : FeedbackRecord) : FeedbackRecord :=
  match r.changes with
  | [] => { r with changes := [c] }
  | o :: rest =>
    if r.changes.length < Config.feedbackDepth then { r with changes := r.changes ++ [c] }
    else ⟨o.isOpen, o.time, rest ++ [c]⟩

/-- The oldest change leaves the record and becomes the base (R121). -/
def ageOldest (r : FeedbackRecord) : FeedbackRecord :=
  match r.changes with
  | [] => r
  | o :: rest => ⟨o.isOpen, o.time, rest⟩

/-- The level a feedback record shows at a time; before its base time, the base level (R121; notes/assumptions/41.md). -/
def levelAt (r : FeedbackRecord) (t : LoopTime) : Bool :=
  r.changes.foldl (fun l c => if reached t c.time then c.isOpen else l) r.baseOpen

/-- The scanner was settled at a sample's time (R121). -/
def settledAt (r : FeedbackRecord) (t : LoopTime) : Bool :=
  let from_ := t - BitVec.ofNat 32 Config.settleTime
  !(earlier from_ r.baseTime)
  && levelAt r from_
  && r.changes.all fun c => c.isOpen || !(earlier from_ c.time && reached t c.time)

/-- The record shows the feedback open at some time in the span from `start` of `us` µs, its end excluded (R131; notes/assumptions/41.md). -/
def openWithin (r : FeedbackRecord) (start : LoopTime) (us : Nat) : Bool :=
  levelAt r start || r.changes.any fun c => c.isOpen && inSpan start 0 us c.time

/-! ### Bearing part (R123 to R125) -/

/-- Why there is no reading (R124). -/
def noReadingReason (c : Context) : NoReading :=
  if c.entries.any (fun e => e.exclusion == some .excluded) then .excluded
  else if c.flags.unsettled then .notSettled
  else .thin

/-- The part is hot (R125). -/
def isHot (rHot tAbs : Nat) (tb rise : Option Int) : Bool :=
  (rise.any fun r => (rHot : Int) ≤ r) || (tb.any fun t => (tAbs : Int) ≤ t)

/-- The bearing part of a SCAN context closed as COMPLETE, with the passage's frozen ambient and not-open mark (R120, R123 to R125). -/
def bearingPart (nMin rHot tAbs : Nat) (ambient : Option Int) (notOpen : Bool) (c : Context) (t : LoopTime) : BearingPart :=
  let used := c.entries.filter fun e => nMin ≤ e.count
  let peaks := contributingPeaks used
  let p := greatestPeak peaks
  let rise := p.bind fun x => ambient.map fun a => x.value - a
  { common := partCommon c t
    peak := p
    rise := rise
    hot := isHot rHot tAbs (p.map (·.value)) rise
    noReading := if p.isSome then none else some (noReadingReason c)
    contributing := peaks.length
    notOpen := notOpen }

/-! ### Bearing checks (R126 to R130) -/

/-- The hot index of a bearing part (R126). -/
def hotIndex (rHot tAbs : Nat) (tb : Int) (rise : Option Int) : Nat :=
  let a := match rise with
    | some r => divRoundNat (1000 * r.toNat) rHot
    | none => 0
  min 65535 (max a (divRoundNat (1000 * tb.toNat) tAbs))

/-- AOU judges HOT at the store of a bearing part (R126). -/
def State.evaluateHot (axle : Nat) (rail : Rail) (p : BearingPart) (s : State) : State :=
  match p.peak with
  | some x =>
    s.alarmIf p.hot
      (wheelRaise .hot axle rail (hotIndex (s.threshold 10) (s.threshold 11) x.value p.rise) 1000 .provisional .bearing)
  | none => s

/-- AOU judges WARM of a settled bearing part (R127). -/
def State.evaluateWarm (axle : Nat) (rail : Rail) (p : BearingPart) (s : State) : State :=
  match p.rise with
  | some r =>
    s.alarmIf (!p.hot && decide ((s.threshold 12 : Int) ≤ r))
      (wheelRaise .warm axle rail r (s.threshold 12) p.common.settlement .bearing)
  | none => s

/-- AOU judges DIFF of an axle whose two bearing parts are settled and hold rises (R128). -/
def State.evaluateDiff (axle : Nat) (s : State) : State :=
  match (s.axle axle).bind (·.bearing.left), (s.axle axle).bind (·.bearing.right) with
  | some l, some r =>
    match l.rise, r.rise with
    | some a, some b =>
      let st := jointSettlement l.common.settlement r.common.settlement
      s.alarmIf (st != .provisional && decide (s.threshold 13 ≤ (a - b).natAbs))
        ⟨.diff, axle, none, ((a - b).natAbs : Int), (s.threshold 13 : Int), st, none⟩
    | _, _ => s
  | _, _ => s

/-- A bearing part belongs to its side's reference set (R129). -/
def inReferenceSet (p : BearingPart) : Bool :=
  p.common.settlement == .confirmed && !p.hot && p.rise.isSome && !p.common.flags.suspect && !p.notOpen

/-- The bearing parts of a rail with their axle numbers, in increasing axle number (R129, R130). -/
def bearingParts (axles : List AxleRecord) (rail : Rail) : List (Nat × BearingPart) :=
  axles.filterMap fun a => (a.bearing.get rail).map fun p => (a.number, p)

/-- The rises of a side's reference set (R129). -/
def referenceRises (l : List (Nat × BearingPart)) : List Int :=
  l.filterMap fun (_, p) => if inReferenceSet p then p.rise else none

/-- AOU judges OUTLIER of one part against its side's limit (R130). -/
def State.evaluateOutlier (rail : Rail) (limit : Int) (x : Nat × BearingPart) (s : State) : State :=
  match x.2.rise with
  | some r =>
    s.alarmIf (!x.2.hot && decide (limit ≤ r)) (wheelRaise .outlier x.1 rail r limit x.2.common.settlement .bearing)
  | none => s

/-- The train-outlier check of one side (R129, R130; notes/assumptions/37.md). -/
def State.outlierSide (rail : Rail) (s : State) : State :=
  match s.passage with
  | none => s
  | some p =>
    let parts := bearingParts p.axles rail
    let rises := referenceRises parts
    if rises.length < Config.outlierMinimum then
      s.onPassage fun q => { q with flags := { q.flags with outlierSkipped := true } }
    else
      forEach parts (State.evaluateOutlier rail (divRound (sumInt rises) rises.length + s.threshold 14)) s

/-- The train-outlier check, LEFT then RIGHT (R129). -/
def State.outlierCheck (s : State) : State := (s.outlierSide .left).outlierSide .right

/-! ### The not-open mark (R120) -/

/-- A record's bearing part of a rail gains NOT_OPEN (R120). -/
def markNotOpen (rail : Rail) (a : AxleRecord) : AxleRecord :=
  { a with bearing := a.bearing.set rail ((a.bearing.get rail).map fun p => { p with notOpen := true }) }

/-- The not-open mark of a scanner is set, and every bearing part of its rail carries NOT_OPEN (R120). -/
def Passage.setNotOpen (rail : Rail) (p : Passage) : Passage :=
  { p with notOpen := p.notOpen.set rail true, axles := p.axles.map (markNotOpen rail) }

end Sys2Proof.Machine
end

