-- ==== Sys2Proof/Machine/Vehicles.lean ====
section
/-! DEFINITION. The Vehicle Unit: the segmenter, the vehicle list, gross load, end imbalance and the vehicle alarms (R85 to R98). -/

namespace Sys2Proof.Machine

/-! ### Reading spacings (R88) -/

/-- A spacing as the segmenter reads it (R88). -/
inductive Reading where
  | value (mm : Nat)
  | absent
  | unknown
deriving DecidableEq, Repr

/-- The spacing between axles `j` and `j + 1`, read during PASSAGE or in CLOSING (R88). -/
def readSpacing (closing : Bool) (p : Passage) (j : Nat) : Reading :=
  match Option.map AxleRecord.spacing (p.axle (j + 1)) with
  | some (.value v) => .value v
  | some .absent => .absent
  | some .pending => if closing then .absent else .unknown
  | none => if closing then .absent else .unknown

/-! ### Judging a type (R90, R92) -/

/-- The outcome of judging a type at a start axle (R90); `ended` marks a coupling taken from the end of the train (R92). -/
inductive Judgement where
  | fit (ended : Bool)
  | fail
  | wait
deriving DecidableEq, Repr

/-- Reads the inner spacings from axle `i` against the nominal spacings that remain (R90). -/
def judgeInner (closing : Bool) (p : Passage) (tol : Nat) (i : Nat) (nominal : List Nat) : Judgement :=
  match nominal with
  | [] => .fit false
  | s :: rest =>
    match readSpacing closing p i with
    | .absent => .fail
    | .unknown => .wait
    | .value v => if tol < ((v : Int) - s).natAbs then .fail else judgeInner closing p tol (i + 1) rest

/-- Reads the gap spacing after the type's last axle (R90, R92). -/
def judgeGap (closing : Bool) (p : Passage) (gap last : Nat) : Judgement :=
  if closing && last == p.axles.length then .fit true
  else
    match readSpacing closing p last with
    | .absent => .fail
    | .unknown => .wait
    | .value v => if v < gap then .fail else .fit false

/-- Judges a type at start axle `i` (R90). -/
def judgeType (closing : Bool) (p : Passage) (i : Nat) (t : VehicleType) : Judgement :=
  match judgeInner closing p t.tolerance i (t.spacings.take (t.axles - 1)) with
  | .fail => .fail
  | .wait => .wait
  | .fit _ => judgeGap closing p t.gap (i + t.axles - 1)

/-- What a step of the segmenter does (R89). -/
inductive SegmentStep where
  | make (code axles : Nat) (ended : Bool)
  | wait
deriving DecidableEq, Repr

/-- The first type in priority order that does not fail decides the step; if every type fails the axle is unclassified (R89 to R91). -/
def segmentStep (closing : Bool) (p : Passage) (i : Nat) (types : List VehicleType) : SegmentStep :=
  match types with
  | [] => .make 0 1 false
  | t :: rest =>
    match judgeType closing p i t with
    | .fail => segmentStep closing p i rest
    | .wait => .wait
    | .fit e => .make t.code t.axles e

/-! ### Gross load and evaluation (R94 to R97) -/

/-- The records of a vehicle's member axles (R93). -/
def memberAxles (p : Passage) (v : Vehicle) : List AxleRecord :=
  (List.range' v.first v.axles).filterMap p.axle

/-- The axle loads of the members when every member has one (R94). -/
def memberLoads (p : Passage) (v : Vehicle) : Option (List Nat) :=
  let l := (memberAxles p v).filterMap (·.axleLoad)
  if l.length = v.axles then some l else none

/-- The end imbalance from the member axle loads (R94). -/
def endImbalanceOf (n : Nat) (l : List Nat) : Option Nat :=
  let gross := sumNat l
  if n % 2 = 0 ∧ 0 < gross then
    some (divRoundNat (1000 * ((sumNat (l.take (n / 2)) : Int) - sumNat (l.drop (n / 2))).natAbs) gross)
  else none

/-- A vehicle with its gross load and end imbalance recomputed (R94). -/
def computeVehicle (p : Passage) (v : Vehicle) : Vehicle :=
  let l := memberLoads p v
  { v with gross := l.map sumNat, endImbalance := l.bind (endImbalanceOf v.axles) }

/-- The load parts of the members that are present (R95). -/
def memberParts (p : Passage) (v : Vehicle) : List LoadPart :=
  (memberAxles p v).flatMap fun a => [a.load.left, a.load.right].filterMap id

/-- A vehicle is load-complete: every member has both load parts and none is PROVISIONAL (R95). -/
def loadComplete (p : Passage) (v : Vehicle) : Bool :=
  (memberParts p v).length == 2 * v.axles
  && (memberParts p v).all fun x => x.common.settlement != .provisional

/-- A vehicle with its evaluation state and UNSTEADY_SOURCE set anew (R95). -/
def evaluatedVehicle (p : Passage) (v : Vehicle) : Vehicle :=
  let l := memberParts p v
  let unsteady := l.any fun x => x.common.settlement == .unsteady
  { v with
    unsteadySource := unsteady
    eval :=
      if unsteady then .unsteady
      else if l.isEmpty || l.any (fun x => x.common.settlement == .unconfirmed) then .unconfirmed
      else .confirmed }

/-- The evaluation state as a source state (R97). -/
def evalSource (e : EvalState) : Settlement :=
  match e with
  | .pending => .provisional
  | .confirmed => .confirmed
  | .unsteady => .unsteady
  | .unconfirmed => .unconfirmed

/-- The used types in priority order (R86). -/
def typesOf (t : Tables) : List VehicleType := t.vehicle.filterMap id

/-- AOU judges VEHICLE_OVER and END_IMBALANCE of an evaluated vehicle (R97). -/
def State.judgeVehicle (v : Vehicle) (s : State) : State :=
  let st := evalSource v.eval
  let s1 :=
    match v.gross, (typesOf s.tables).find? fun t => t.code == v.code with
    | some g, some t =>
      s.alarmIf (v.code ≠ 0 && decide (t.maxGross < g))
        ⟨.vehicleOver, v.number, none, (g : Int), (t.maxGross : Int), st, none⟩
    | _, _ => s
  match v.endImbalance with
  | some e =>
    s1.alarmIf (decide (s.threshold 3 < e))
      ⟨.endImbalance, v.number, none, (e : Int), (s.threshold 3 : Int), st, none⟩
  | none => s1

/-- Replaces a recorded vehicle (R93). -/
def State.putVehicle (v : Vehicle) (s : State) : State :=
  s.onPassage fun p => { p with vehicles := p.vehicles.map fun x => if x.number = v.number then v else x }

/-- VEH evaluates a recorded vehicle and hands it to AOU (R95 to R97). -/
def State.evaluateVehicle (v : Vehicle) (s : State) : State :=
  match s.passage with
  | none => s
  | some p =>
    let w := evaluatedVehicle p v
    (s.putVehicle w).judgeVehicle w

/-- VEH recomputes a vehicle and evaluates it if it is load-complete (R94, R96). -/
def State.refreshVehicle (v : Vehicle) (s : State) : State :=
  match s.passage with
  | none => s
  | some p =>
    let w := computeVehicle p v
    let s1 := s.putVehicle w
    if loadComplete p w then s1.evaluateVehicle w else s1

/-- WGU hands VEH an axle: its vehicle, if it has one, is recomputed and judged for evaluation (R84, R94, R96). -/
def State.handVehicle (axle : Nat) (s : State) : State :=
  match (s.axle axle).bind (·.vehicle), s.passage with
  | some n, some p =>
    match p.vehicles.find? fun v => v.number == n with
    | some v => s.refreshVehicle v
    | none => s
  | _, _ => s

/-! ### The segmenter (R87, R89, R91 to R93) -/

/-- A vehicle as created, before its loads are computed (R93). -/
def newVehicle (number code first axles : Nat) (ended : Bool) : Vehicle where
  number := number
  code := code
  first := first
  axles := axles
  gross := none
  endImbalance := none
  eval := .pending
  unsteadySource := false
  endAssumed := ended

/-- Writes a vehicle number into the member records (R93). -/
def numberAxles (v : Vehicle) (l : List AxleRecord) : List AxleRecord :=
  l.map fun a => if v.first ≤ a.number ∧ a.number < v.first + v.axles then { a with vehicle := some v.number } else a

/-- Makes a vehicle at the segment start: recorded if the list has room, computed and judged for evaluation (R91, R93). -/
def State.makeVehicle (code axles : Nat) (ended : Bool) (s : State) : State :=
  match s.passage with
  | none => s
  | some p =>
    let count := satInc Config.counterMax p.vehicleCount
    let v := newVehicle count code p.segmentStart axles ended
    let q := { p with vehicleCount := count, segmentStart := p.segmentStart + axles }
    if p.vehicles.length < Config.vehicleListDepth then
      let r := { q with vehicles := p.vehicles ++ [v], axles := numberAxles v p.axles }
      State.refreshVehicle v { s with passage := some r }
    else
      let r := { q with flags := { p.flags with vehiclesTruncated := true } }
      { s with passage := some r }

/-- An attempt of the segmenter, with fuel for one vehicle an axle (R89). -/
def State.segment (closing : Bool) (fuel : Nat) (s : State) : State :=
  match fuel with
  | 0 => s
  | n + 1 =>
    match s.passage with
    | none => s
    | some p =>
      if p.axles.length < p.segmentStart then s
      else
        match segmentStep closing p p.segmentStart (typesOf s.tables) with
        | .wait => s
        | .make code axles ended => (s.makeVehicle code axles ended).segment closing n

/-- An attempt of the segmenter (R89): no more vehicles than axles with a record can be made. -/
def State.segmentAttempt (closing : Bool) (s : State) : State :=
  s.segment closing (s.axleNumbers.length + 1)

/-- The closing evaluation: each recorded vehicle not load-complete is evaluated (R96). -/
def State.closingEvaluation (s : State) : State :=
  match s.passage with
  | none => s
  | some p =>
    forEach p.vehicles (fun v t =>
      match t.passage with
      | some q => if loadComplete q v then t else t.evaluateVehicle v
      | none => t) s

end Sys2Proof.Machine
end

