-- ==== Sys2Proof/Machine/Windows.lean ====
section
/-! DEFINITION. The Window Unit: predicted positions, contexts, attribution, closes and settlement (R40, R49 to R66). -/

namespace Sys2Proof.Machine

/-! ### Predicted position (R40) -/

/-- The governing crossing of a history for a time: the newest entry whose time is not after it (R40). -/
def governing (h : List HistEntry) (t : LoopTime) : Option HistEntry :=
  h.reverse.find? fun e => e.aged || reached t e.time

/-- The limit of a prediction's distance term: |x_next − x_k| − 1, which is −1 at a transducer on the site edge (R40). -/
def reach (g : Tables) (w : Transducer) (d : Direction) : Int :=
  (nextPosition g w d - wtPosition g w).natAbs - 1

/-- The position predicted from a governing crossing (R40). -/
def positionFrom (g : Tables) (e : HistEntry) (t : LoopTime) : Int :=
  match e.speed with
  | none => wtPosition g e.wt
  | some v =>
    let run := if e.aged then reach g e.wt e.dir
      else min (divRoundNat (v * (timeDiff t e.time).toNat) 1000000 : Int) (reach g e.wt e.dir)
    wtPosition g e.wt + dirSign e.dir * run

/-- The predicted position of an axle at a time, or unknown (R40). -/
def predicted (g : Tables) (a : AxleRecord) (t : LoopTime) : Option Int :=
  (governing a.history t).map fun e => positionFrom g e t

/-- A position lies in a window (R51). -/
def inWindow (w : Window) (p : Int) : Bool := w.lower ≤ p && p < w.upper

/-- A position lies beyond a window in the entry direction (R51). -/
def beyondWindow (entry : Direction) (w : Window) (p : Int) : Bool :=
  match entry with
  | .up => w.upper ≤ p
  | .down => p < w.lower

/-- A window measures: it is of kind WEIGH, IMPACT or SCAN (R49). -/
def measures (w : Window) : Bool := w.kind != .mark

/-! ### Parts of a record by kind and rail (R59, R62, R64) -/

/-- What WIN keeps of a part, if the record holds it (R59). -/
def commonOf (a : AxleRecord) (k : PartKind) (r : Rail) : Option PartCommon :=
  match k with
  | .load => (a.load.get r).map (·.common)
  | .impact => (a.impact.get r).map (·.common)
  | .bearing => (a.bearing.get r).map (·.common)

/-- Changes what WIN keeps of a part (R59, R62). -/
def onCommon (k : PartKind) (r : Rail) (f : PartCommon → PartCommon) (a : AxleRecord) : AxleRecord :=
  match k with
  | .load => { a with load := a.load.set r ((a.load.get r).map fun p => { p with common := f p.common }) }
  | .impact => { a with impact := a.impact.set r ((a.impact.get r).map fun p => { p with common := f p.common }) }
  | .bearing => { a with bearing := a.bearing.set r ((a.bearing.get r).map fun p => { p with common := f p.common }) }

/-- The parts of a record in the order of R64: load, impact, bearing, LEFT before RIGHT. -/
def partOrder : List (PartKind × Rail) :=
  [(.load, .left), (.load, .right), (.impact, .left), (.impact, .right), (.bearing, .left), (.bearing, .right)]

/-! ### Settlement (R62 to R65) -/

/-- The part's state is written and the part is handed on to AOU, WGU and VEH (R62, R64, R65, R81, R82, R84, R111, R127, R128). -/
def State.settleAs (axle : Nat) (k : PartKind) (r : Rail) (st : Settlement) (err : Option Nat) (s : State) : State :=
  let s1 := s.onAxle axle (onCommon k r fun c => { c with settlement := st, posError := err })
  let s2 := s1.recordSettlement ⟨axle, k, r⟩ st
  match k with
  | .load => ((s2.onAxle axle weighAxle).evaluateLoad axle).handVehicle axle
  | .impact =>
    match s2.impactOf axle r with
    | some p => s2.evaluateImpact axle r p
    | none => s2
  | .bearing =>
    match (s2.axle axle).bind fun a => a.bearing.get r with
    | some p => (s2.evaluateWarm axle r p).evaluateDiff axle
    | none => s2

/-- The verdict of a settling crossing on a basis crossing, with the position error (R62). -/
def settleVerdict (g : Tables) (tol : Nat) (entry : Direction) (b : Basis) (x : Settling) : Settlement × Option Nat :=
  if x.dir ≠ entry ∨ wtNext b.wt entry ≠ some x.wt then (.unsteady, none)
  else
    let d := (wtPosition g x.wt - wtPosition g b.wt).natAbs
    let due := later b.time (divRoundNat (d * 1000000) b.speed)
    let err := divRoundNat ((timeDiff x.time due).natAbs * b.speed) 1000000
    (if err ≤ tol then .confirmed else .unsteady, some err)

/-- Settles one part against a crossing if it is PROVISIONAL (R62). -/
def State.settlePart (axle : Nat) (x : Settling) (part : PartKind × Rail) (s : State) : State :=
  match s.passage, (s.axle axle).bind fun a => commonOf a part.1 part.2 with
  | some p, some c =>
    if c.settlement = .provisional then
      let v := settleVerdict s.tables s.positionTolerance p.dir c.basis x
      s.settleAs axle part.1 part.2 v.1 v.2
    else s
  | _, _ => s

/-- Settles every PROVISIONAL part of an axle against a crossing, in the order of R64 (R62). -/
def State.settleAxle (axle : Nat) (x : Settling) (s : State) : State :=
  forEach partOrder (State.settlePart axle x) s

/-- Makes one part UNCONFIRMED if it is PROVISIONAL (R64). -/
def State.finalisePart (axle : Nat) (part : PartKind × Rail) (s : State) : State :=
  match (s.axle axle).bind fun a => commonOf a part.1 part.2 with
  | some c => if c.settlement = .provisional then s.settleAs axle part.1 part.2 .unconfirmed none else s
  | none => s

/-- Finalises every PROVISIONAL part of the passage (R64). -/
def State.finalise (s : State) : State :=
  forEach s.axleNumbers (fun i => forEach partOrder (State.finalisePart i)) s

/-! ### Storing a part (R59, R63, R65, R78, R110, R126, R138) -/

/-- A stored part is CONFIRMED, so a new result is discarded (R59). -/
def State.confirmedPart (s : State) (axle : Nat) (k : PartKind) (r : Rail) : Bool :=
  ((s.axle axle).bind fun a => commonOf a k r).any fun c => c.settlement == .confirmed

/-- Stores a load part: WGU recomputes the axle, IMP the wheel's impact part (R65, R78, R84). -/
def State.storeLoad (axle : Nat) (r : Rail) (p : LoadPart) (s : State) : State :=
  (s.onAxle axle fun a => weighAxle { a with load := a.load.set r (some p) }).recomputeImpactPart axle r

/-- Stores an impact part: AOU drops the replaced part's links and judges IMPACT_CRIT (R65, R110, R138). -/
def State.storeImpact (axle : Nat) (r : Rail) (p : ImpactPart) (s : State) : State :=
  State.evaluateImpactCrit axle r p
    ((s.unlink ⟨axle, .impact, r⟩).onAxle axle fun a => { a with impact := a.impact.set r (some p) })

/-- Stores a bearing part: AOU drops the replaced part's links and judges HOT (R65, R126, R138). -/
def State.storeBearing (axle : Nat) (r : Rail) (p : BearingPart) (s : State) : State :=
  State.evaluateHot axle r p
    ((s.unlink ⟨axle, .bearing, r⟩).onAxle axle fun a => { a with bearing := a.bearing.set r (some p) })

/-- The kind of part a measuring window makes (R59). -/
def partKindOf (k : WindowKind) : Option PartKind :=
  match k with
  | .weigh => some .load
  | .impact => some .impact
  | .scan => some .bearing
  | .mark => none

/-- The measuring unit computes the part of a context closed as COMPLETE and WIN stores it (R59). -/
def State.storePart (c : Context) (t : LoopTime) (k : PartKind) (s : State) : State :=
  match k with
  | .load => s.storeLoad c.axle c.rail (loadPart s.inUse s.tables.speed c t)
  | .impact => s.storeImpact c.axle c.rail (impactPart s.impactLimits (s.loadOf c.axle c.rail) c t)
  | .bearing =>
    s.storeBearing c.axle c.rail
      (bearingPart (siteParam s.inUse 12) (s.threshold 10) (s.threshold 11)
        (s.passage.bind (·.ambient)) (s.passage.any fun p => p.notOpen.get c.rail) c t)

/-- Two contexts are of the same axle and window (R54). -/
def isContext (axle window : Nat) (c : Context) : Bool := c.axle == axle && c.window == window

/-- The open context of an axle and a window (R54). -/
def State.contextOf (s : State) (axle window : Nat) : Option Context :=
  s.passage.bind fun p => p.contexts.find? (isContext axle window)

/-- Removes the context of an axle and a window from the table (R54). -/
def State.dropContext (axle window : Nat) (s : State) : State :=
  s.onPassage fun p => { p with contexts := p.contexts.filter fun c => !isContext axle window c }

/-- Closes a context as COMPLETE at a pacing instant: its part is stored unless the stored one is CONFIRMED, and settled at once if the context carries a settling crossing (R59, R63). -/
def State.closeComplete (c : Context) (t : LoopTime) (s : State) : State :=
  let s1 := s.dropContext c.axle c.window
  match partKindOf c.kind with
  | none => s1
  | some k =>
    if s1.confirmedPart c.axle k c.rail then s1
    else
      let s2 := s1.storePart c t k
      match c.settling with
      | some x => s2.settlePart c.axle x (k, c.rail)
      | none => s2

/-! ### Opening contexts (R52 to R54) -/

/-- A channel entry at the opening, fixed as excluded by the channel's effective health (R53). -/
def State.openEntry (s : State) (c : Nat) : ContextEntry :=
  let h := s.effHealth c
  { channel := c
    sum := 0
    count := 0
    peak := none
    peakTime := none
    exclusion := if admitted h then none else some (exclusionOf h)
    fixed := !admitted h
    excluded := 0 }

/-- A history entry is a forward crossing with a speed present (R53). -/
def forwardSpeed (entry : Direction) (e : HistEntry) : Option Nat := if e.dir = entry then e.speed else none

/-- The settling crossing of a newest entry (R53, R60). -/
def settlingOf (e : HistEntry) : Settling := ⟨e.wt, e.dir, e.time, e.speed⟩

/-- The context an axle would open in a window at a pacing instant, if it meets the conditions of R53 other than room in the table. -/
def State.newContext (s : State) (p : Passage) (n : Nat) (w : Window) (t : LoopTime) (a : AxleRecord) : Option Context :=
  match governing a.history t, a.history.getLast? with
  | some g, some newest =>
    match forwardSpeed p.dir g, forwardSpeed p.dir newest with
    | some v, some _ =>
      if inWindow w (positionFrom s.tables g t) ∧ (s.contextOf a.number n).isNone ∧ n ∉ a.lostWindows then
        some
          { axle := a.number
            window := n
            kind := w.kind
            rail := w.rail
            basis := ⟨g.wt, g.time, v⟩
            entries := w.channels.map s.openEntry
            flags := ⟨false, false, false, false⟩
            settling := if newest = g then none else some (settlingOf newest) }
      else none
    | _, _ => none
  | _, _ => none

/-- An axle's record gains LOST_CONTEXT for a window's kind and rail, and its lost-context mark (R54). -/
def loseContext (n : Nat) (w : Window) (a : AxleRecord) : AxleRecord :=
  let b := { a with lostWindows := a.lostWindows ++ [n] }
  match w.kind with
  | .weigh => { b with lostWeigh := b.lostWeigh.set w.rail true }
  | .impact => { b with lostImpact := b.lostImpact.set w.rail true }
  | .scan => { b with lostScan := b.lostScan.set w.rail true }
  | .mark => b

/-- An axle opens a context in a window at a pacing instant, or loses it to a full table (R53, R54). -/
def State.openContext (n : Nat) (w : Window) (t : LoopTime) (axle : Nat) (s : State) : State :=
  match s.passage with
  | none => s
  | some p =>
    match (s.axle axle).bind (s.newContext p n w t) with
    | none => s
    | some c =>
      if p.contexts.length < Config.contextTableDepth then
        s.onPassage fun q => { q with contexts := q.contexts ++ [c] }
      else
        (s.onAxle axle (loseContext n w)).onPassage fun q =>
          { q with counters := { q.counters with lostContexts := bump q.counters.lostContexts } }

/-- Closes an axle's context of a window if the axle is beyond the window (R52). -/
def State.closeBeyond (n : Nat) (w : Window) (t : LoopTime) (axle : Nat) (s : State) : State :=
  match s.passage, s.contextOf axle n, (s.axle axle).bind fun a => predicted s.tables a t with
  | some p, some c, some x => if beyondWindow p.dir w x then s.closeComplete c t else s
  | _, _, _ => s

/-- A pacing instant of a window: first the closes, then the openings, in increasing axle number (R52). -/
def State.paceWindow (t : LoopTime) (x : Nat × Window) (s : State) : State :=
  let s1 := forEach s.axleNumbers (State.closeBeyond x.1 x.2 t) s
  forEach s1.axleNumbers (State.openContext x.1 x.2 t) s1

/-- The windows of the set in use (R51). -/
def State.windows (s : State) : List (Nat × Window) :=
  match s.passage with
  | some p => windowsOf (zoneOf s.tables p.dir)
  | none => []

/-- The measuring windows of the set in use that one of some channels paces, in window number order (R49, R52). -/
def State.pacedBy (s : State) (channels : List Nat) : List (Nat × Window) :=
  s.windows.filter fun x => measures x.2 && x.2.channels.head?.any (channels.contains ·)

/-- The pacing instants that come with a channel's sample at a time of a frame's instant, whose `channels` stand in the order of R19: the first pacing channel of them brings those of every window the instant paces, in window number order (R52, R55, R107; notes/assumptions/38.md). -/
def State.pace (channels : List Nat) (channel : Nat) (t : LoopTime) (s : State) : State :=
  if (s.pacedBy [channel]).isEmpty || !(s.pacedBy (channels.takeWhile (· != channel))).isEmpty then s
  else forEach (s.pacedBy channels) (State.paceWindow t) s

/-! ### Attribution and accumulation (R55 to R58) -/

/-- What a channel entry takes from a sample that is accumulated (R57). -/
def accumulate (v : Int) (t : LoopTime) (e : ContextEntry) : ContextEntry :=
  let higher := e.peak.all (· < v)
  { e with
    sum := e.sum + v
    count := satInc Config.countMax e.count
    peak := if higher then some v else e.peak
    peakTime := if higher then some t else e.peakTime }

/-- A sample that an exclusion keeps from an entry joins its excluded count (R57, R123; notes/assumptions/35.md). -/
def countExcluded (e : ContextEntry) : ContextEntry := { e with excluded := satInc Config.countMax e.excluded }

/-- How a sample fares at a channel entry (R57). -/
inductive Fate where
  | refused
  | fixed
  | excluded (x : Exclusion)
  | unsettled
  | taken (v : Int)
deriving DecidableEq, Repr

/-- The fate of a sample at an entry, in the order of R57. -/
def State.sampleFate (s : State) (e : ChannelEntry) (x : LineSample) (c : ContextEntry) : Fate :=
  let h := s.effHealth x.channel
  if c.fixed then .fixed
  else if !admitted h then .excluded (exclusionOf h)
  else
    match e.kind with
    | .crib =>
      match x.force with
      | some f => .taken f
      | none => .excluded .notReady
    | .scanner | .ambient =>
      if !settledAt (s.brg.records.get e.rail) x.time then .unsettled
      else
        match x.temp with
        | some v => .taken v
        | none => .refused

/-- The entry of a context after a sample's fate (R57). -/
def applyFate (f : Fate) (t : LoopTime) (c : ContextEntry) : ContextEntry :=
  match f with
  | .refused | .unsettled => c
  | .fixed => countExcluded c
  | .excluded x => countExcluded { c with exclusion := some x }
  | .taken v => accumulate v t c

/-- The context flags after a sample's fate (R57). -/
def fateFlags (f : Fate) (overrange suspect : Bool) (g : ContextFlags) : ContextFlags :=
  match f with
  | .refused | .fixed | .excluded _ => g
  | .unsettled => { g with unsettled := true }
  | .taken _ => { g with overrange := g.overrange || overrange, suspect := g.suspect || suspect }

/-- Offers a sample to a context that lists its channel (R56 to R58). -/
def State.offerSample (s : State) (e : ChannelEntry) (x : LineSample) (c : Context) : Context :=
  match c.entries.find? fun y => y.channel == x.channel with
  | none => c
  | some y =>
    let f := s.sampleFate e x y
    { c with
      entries := c.entries.map fun z => if z.channel = x.channel then applyFate f x.time z else z
      flags := fateFlags f x.overrange (s.effHealth x.channel == some (.recorded .suspect)) c.flags }

/-- The numbers of the axles with a record whose position at a time is known and satisfies a test (R56, R58). -/
def axlesAt (g : Tables) (p : Passage) (t : LoopTime) (test : Int → Bool) : List Nat :=
  p.axles.filterMap fun a => if (predicted g a t).any test then some a.number else none

/-- Attributes a sample to the one axle found, into its contexts that pass a filter; two or more axles are a conflict (R56, R58). -/
def State.giveSample (e : ChannelEntry) (x : LineSample) (axles : List Nat) (only : Context → Bool) (s : State) : State :=
  match axles with
  | [] => s
  | [i] => s.onPassage fun p =>
      { p with contexts := p.contexts.map fun c => if c.axle = i ∧ only c then s.offerSample e x c else c }
  | _ => s.onPassage fun p =>
      { p with counters := { p.counters with conflicts := bump p.counters.conflicts } }

/-- Attributes a sample by its channel's kind (R55, R56, R58). -/
def State.attributeSample (x : LineSample) (s : State) : State :=
  match s.passage, channelEntry s.tables x.channel with
  | some p, some e =>
    match e.kind with
    | .crib =>
      s.giveSample e x (axlesAt s.tables p x.time fun y => e.platLow ≤ y && y < e.platHigh) fun _ => true
    | .scanner =>
      match s.windows.find? fun w => w.2.kind == .scan && w.2.rail == e.rail with
      | some w =>
        if x.channel ∈ w.2.channels then
          s.giveSample e x (axlesAt s.tables p x.time (inWindow w.2)) fun c => c.window == w.1
        else s
      | none => s
    | .ambient => s
  | _, _ => s

/-- The channels of the samples that bear a time, in their order (R19). -/
def channelsAt (l : List LineSample) (t : LoopTime) : List Nat := (l.filter fun y => y.time == t).map (·.channel)

/-- WIN takes a sample of a released frame (R55): in PASSAGE the pacing instants first, then the attribution. -/
def State.winSample (frame : List LineSample) (x : LineSample) (s : State) : State :=
  if s.scu.site = .passage then (s.pace (channelsAt frame x.time) x.channel x.time).attributeSample x else s

/-- A context lists a channel of a node (R11). -/
def listsNode (t : Tables) (node : Nat) (c : Context) : Bool :=
  c.entries.any fun e => (channelEntry t e.channel).any fun x => x.node == some node

/-- A frame's gap mark sets GAP on every open context that lists a channel of its node (R11). -/
def State.gapFlag (node : Nat) (s : State) : State :=
  s.onPassage fun p =>
    { p with contexts := p.contexts.map fun c =>
        if listsNode s.tables node c then { c with flags := { c.flags with gap := true } } else c }

/-! ### A crossing handed to WIN (R60) -/

/-- The contexts of an axle are removed without a result (R60). -/
def State.dropContexts (axle : Nat) (s : State) : State :=
  s.onPassage fun p => { p with contexts := p.contexts.filter fun c => c.axle ≠ axle }

/-- The axle holds an open context (R60). -/
def State.hasContext (s : State) (axle : Nat) : Bool :=
  s.passage.any fun p => p.contexts.any fun c => c.axle == axle

/-- A crossing of an axle with a record is handed to WIN: its contexts close or take it, its PROVISIONAL parts are settled, its lost-context marks go (R54, R60, R62). -/
def State.winCrossing (axle : Nat) (e : HistEntry) (s : State) : State :=
  match s.passage with
  | none => s
  | some p =>
    let s1 :=
      if e.dir ≠ p.dir then
        (s.dropContexts axle).onAxle axle fun a =>
          { a with reversedInWindow := a.reversedInWindow || s.hasContext axle }
      else if e.speed.isSome then
        s.onPassage fun q =>
          { q with contexts := q.contexts.map fun c =>
              if c.axle = axle ∧ c.settling.isNone then { c with settling := some (settlingOf e) } else c }
      else s.dropContexts axle
    (s1.settleAxle axle (settlingOf e)).onAxle axle fun a => { a with lostWindows := [] }

end Sys2Proof.Machine
end

