-- ==== Sys2Proof/Machine/Intake.lean ====
section
/-! DEFINITION. Sample Intake: node presence, sample frames, calibration, conversion, the ambient converter and the sample delay line (R4 to R22, R131). -/

namespace Sys2Proof.Machine

/-! ### Counters and presence (R6, R22) -/

/-- Changes the counters of SIN alone. -/
def State.onSinCounters (f : SinCounters → SinCounters) (s : State) : State :=
  s.onSin fun x => { x with counters := f x.counters }

/-- A node heard: its timer starts anew and it is PRESENT (R6). -/
def hearNode (n : NodeState) : NodeState := { n with silent := false, timer := some Config.nodeSilence }

/-- SIN takes an NST frame by its source station (R6); supervision is suspended in OFFLINE. -/
def State.takeNst (source : Nat) (s : State) : State :=
  if s.scu.site = .offline then s
  else
    match nodeAt s.tables source with
    | none => s
    | some n =>
      if (s.node n).silent then (s.onNode n hearNode).equipmentChanged else s.onNode n hearNode

/-! ### Conversion tables (R15) -/

/-- A converted value with its clamp flag, LOW_CLAMP or HIGH_CLAMP (R15). -/
structure Converted where
  value : Int
  clamped : Bool
deriving DecidableEq, Repr

/-- The output between two neighbouring points (R15). -/
def interpolate (a b : ConvPoint) (x : Int) : Int :=
  a.output + divRound ((b.output - a.output) * (x - a.input)) (b.input - a.input).toNat

/-- The output past the point before, over the points that follow (R15). -/
def convertFrom (x : Int) (a : ConvPoint) (l : List ConvPoint) : Converted :=
  match l with
  | [] => ⟨a.output, decide (a.input < x)⟩
  | b :: rest => if x < b.input then ⟨interpolate a b x, false⟩ else convertFrom x b rest

/-- Each input is greater than the one before (R15, R16, R173). -/
def increasing (l : List ConvPoint) : Bool :=
  match l with
  | [] => true
  | [_] => true
  | a :: b :: rest => decide (a.input < b.input) && increasing (b :: rest)

/-- A table's output for an input; none where the table lacks a point or its inputs do not increase (R15, R16). -/
def convert (t : List (Option ConvPoint)) (x : Int) : Option Converted :=
  let points := t.filterMap id
  match points with
  | [] => none
  | a :: rest =>
    if points.length = t.length ∧ increasing points then
      some (if x < a.input then ⟨a.output, true⟩ else convertFrom x a rest)
    else none

/-- The output of conversion table `k`, none while the table is INVALID (R15). -/
def State.convertBy (s : State) (k : Nat) (x : Int) : Option Converted :=
  if s.invalid.getD (4 + k) false then none else convert (s.tables.conv.getD k []) x

/-! ### Ambient converter (R16, R17) -/

/-- The ambient value: the mean of the history, UNKNOWN while it is empty (R17). -/
def State.ambient (s : State) : Option Int :=
  if s.sin.history.isEmpty then none
  else some (divRound (sumInt s.sin.history) s.sin.history.length)

/-- A conversion joins the history, the oldest leaving past four (R17). -/
def joinHistory (v : Int) (h : List Int) : List Int := (h ++ [v]).drop (h.length + 1 - Config.ambientDepth)

/-- A conversion is good (R16). -/
def goodAmbient (c : Converted) : Bool := !c.clamped && decide (-500 ≤ c.value) && decide (c.value ≤ 700)

/-- What a gate's count converts to, if channel 31 and its table serve (R16). -/
def State.gateConversion (s : State) : Option Converted :=
  match channelEntry s.tables 31 with
  | some e =>
    match e.kind with
    | .ambient | .scanner => s.convertBy e.conv s.sin.gateCount
    | .crib => none
  | none => none

/-- A conversion's effect on the fault and the history (R16, R17). -/
def State.takeConversion (c : Converted) (s : State) : State :=
  let t :=
    if goodAmbient c then
      s.onSin fun x =>
        { x with ambientFault := false, history := joinHistory c.value x.history, ambientFresh := true }
    else s.onSin fun x => { x with ambientFault := true }
  if t.sin.ambientFault = s.sin.ambientFault then t else t.equipmentChanged

/-- A gate ends: its count is converted or discarded, and the next gate starts (R16). -/
def State.endGate (s : State) : State :=
  let t := match s.gateConversion with
    | some c => s.takeConversion c
    | none => s
  t.onSin fun x => { x with gateLeft := Config.ambientGate, gateCount := 0 }

/-! ### Sample frames (R10 to R12) -/

/-- The sample period in µs of a node kind (R5); a TRANSDUCER entry has none. -/
def samplePeriod (k : NodeKind) : Nat :=
  match k with
  | .cribDigitizer => 250
  | .scannerDigitizer => 125
  | .transducer => 0

/-- The payload length in octets that a channel count and samples per channel require (R10, R200). -/
def smpLength (channels samples : Nat) : Nat := (8 + 2 * channels * samples + 3) / 4 * 4

/-- The raw sample of index `i` at instant `j` (R200, SMP payload). -/
def rawSample (payload : List Byte) (channels i j : Nat) : Int :=
  getInt ((payload.drop (8 + 2 * (j * channels + i))).take 2)

/-- F before its clamp (R12). -/
def calibrate (z : Int) (g : Nat) (r : Int) : Int := divRound ((r * 256 - z) * g) 16777216

/-- A sample of a channel, calibrated or converted as its frame is accepted (R12, R15). -/
def State.calibrated (s : State) (c : Nat) (e : ChannelEntry) (t : LoopTime) (r : Int) : LineSample :=
  match e.kind with
  | .crib =>
    match (s.channel c).baseline with
    | some z =>
      let f := calibrate z e.gain r
      ⟨c, t, r, some (clampInt Config.forceMin Config.forceMax f), none,
        decide (f < Config.forceMin) || decide (Config.forceMax < f)⟩
    | none => ⟨c, t, r, none, none, false⟩
  | .scanner =>
    match s.convertBy e.conv r with
    | some v => ⟨c, t, r, none, some v.value, v.clamped⟩
    | none => ⟨c, t, r, none, none, false⟩
  | .ambient => ⟨c, t, r, none, none, false⟩

/-- A channel's sample at one instant, if the channel names this node (R10). -/
def State.sampleOf (s : State) (node channels j : Nat) (t : LoopTime) (payload : List Byte) (c : Nat) : Option LineSample :=
  match channelEntry s.tables c with
  | some e =>
    if e.node = some node ∧ e.index < channels then
      some (s.calibrated c e t (rawSample payload channels e.index j))
    else none
  | none => none

/-- The samples of a frame in order of sample time, those of one instant in order of channel number (R10, R19). -/
def State.frameSamples (s : State) (node channels samples period : Nat) (payload : List Byte) : List LineSample :=
  (List.range samples).flatMap fun j =>
    (List.range 32).filterMap
      (s.sampleOf node channels j (later (timeAt payload 4) (j * period)) payload)

/-! ### Baselines and references at a release (R13, R14, R131) -/

/-- A running check is gathering: past the settle wait and before the moment gathering ends, which gathers nothing more (R179; notes/assumptions/49.md). -/
def State.gathering (s : State) : Bool :=
  (s.scu.check == .run .capture || s.scu.check == .run .reference) && !expired s.scu.endTimer

/-- The check is past its settle wait and a time lies in its capture period (R13, R179). -/
def State.inCapture (s : State) (t : LoopTime) : Bool :=
  (s.scu.check == .run .capture || s.scu.check == .run .reference)
  && inSpan s.scu.sampleStart 0 Config.capturePeriod t

/-- A time lies in the reference period of the check (R179). -/
def State.inReference (s : State) (t : LoopTime) : Bool :=
  inSpan s.scu.sampleStart Config.capturePeriod (Config.capturePeriod + Config.referencePeriod) t

/-- A baseline after one tracking step (R13). -/
def trackStep (k : Nat) (r z : Int) : Int := z + divRound (r * 256 - z) (2 ^ k)

/-- A tracking step of a channel with a baseline (R13). -/
def trackChannel (k : Nat) (r : Int) (x : ChannelState) : ChannelState :=
  match x.baseline with
  | some z => { x with baseline := some (trackStep k r z), fresh := true }
  | none => x

/-- A raw sample joins a capture (R14). -/
def captureRaw (r : Int) (x : ChannelState) : ChannelState :=
  { x with capture :=
      match x.capture with
      | none => some ⟨1, r, r, r⟩
      | some p => some ⟨p.count + 1, p.sum + r, min p.low r, max p.high r⟩ }

/-- A converted sample joins a reference gathering (R131). -/
def gatherTemp (v : Int) (x : ChannelState) : ChannelState :=
  { x with gather :=
      match x.gather with
      | none => some ⟨1, v⟩
      | some p => some ⟨p.count + 1, p.sum + v⟩ }

/-- A crib sample is captured, tracked, or leaves the baseline frozen (R13, R14). -/
def State.cribRelease (e : ChannelEntry) (x : LineSample) (s : State) : State :=
  if s.scu.site = .checking ∧ s.inCapture x.time then
    if s.gathering then s.onChannel x.channel (captureRaw x.raw) else s
  else if s.scu.site = .armed ∨ s.scu.site = .checking then s.onChannel x.channel (trackChannel e.shift x.raw)
  else s

/-- A scanner sample of the reference period is gathered (R131). -/
def State.scannerRelease (x : LineSample) (s : State) : State :=
  match x.temp with
  | some v => if s.gathering ∧ s.inReference x.time then s.onChannel x.channel (gatherTemp v) else s
  | none => s

/-- A sample of a released frame reaches SIN's baselines, BRG's gathering and WIN (R13, R14, R19, R55, R131). -/
def State.releaseSample (frame : List LineSample) (x : LineSample) (s : State) : State :=
  let t := match channelEntry s.tables x.channel with
    | some e =>
      match e.kind with
      | .crib => s.cribRelease e x
      | .scanner => s.scannerRelease x
      | .ambient => s
    | none => s
  t.winSample frame x

/-! ### Sample delay line (R18 to R21) -/

/-- A frame is handed whole to WIN, its gap mark first (R11, R19). -/
def State.deliver (f : LineFrame) (s : State) : State :=
  forEach f.samples (State.releaseSample f.samples) (if f.gap then s.gapFlag f.node else s)

/-- The head frame leaves the line and is handed to WIN (R19). -/
def State.releaseHead (s : State) : State :=
  match s.sin.line with
  | [] => s
  | f :: rest => (s.onSin fun x => { x with line := rest, released := some f.last }).deliver f

/-- The release time of a frame has been reached (R18). -/
def State.frameDue (s : State) (last : LoopTime) : Bool := reached s.now (later last s.holdDelay)

/-- The heads leave the line in order, a number of them (R19). -/
def State.releaseHeads (n : Nat) (s : State) : State :=
  match n with
  | 0 => s
  | k + 1 => s.releaseHead.releaseHeads k

/-- Every due head is released in order, with fuel for one frame each (R19). -/
def State.releaseDueHeads (fuel : Nat) (s : State) : State :=
  match fuel with
  | 0 => s
  | n + 1 =>
    match s.sin.line with
    | [] => s
    | f :: _ => if s.frameDue f.last then s.releaseHead.releaseDueHeads n else s

/-- Every due frame is released (R19). -/
def State.releaseDue (s : State) : State := s.releaseDueHeads s.sin.line.length

/-- A frame is placed in order of last-sample time, after those of equal time (R18). -/
def placeFrame (f : LineFrame) (l : List LineFrame) : List LineFrame :=
  match l with
  | [] => [f]
  | g :: rest => if earlier f.last g.last then f :: l else g :: placeFrame f rest

/-- An early release of the head, counted in SIN and in a current passage (R20). -/
def State.releaseEarly (s : State) : State :=
  let t := s.onSinCounters fun c => { c with early := bump c.early }
  let u := if t.inPassage then
      t.onPassage fun p => { p with counters := { p.counters with early := bump p.counters.early } }
    else t
  u.releaseHead

/-- The frame is later than the frame most recently released (R18). -/
def State.frameLate (s : State) (last : LoopTime) : Bool := s.sin.released.any fun r => earlier last r

/-- An arriving frame is placed (R18). -/
def State.putFrame (f : LineFrame) (s : State) : State := s.onSin fun x => { x with line := placeFrame f x.line }

/-- A late frame is discarded and counted (R18, R22). -/
def State.dropLate (s : State) : State := s.onSinCounters fun c => { c with late := bump c.late }

/-- The place at which a frame arrives in the line (R18). -/
def placeOf (f : LineFrame) (l : List LineFrame) : Nat :=
  match l with
  | [] => 0
  | g :: rest => if earlier f.last g.last then 0 else placeOf f rest + 1

/-- A frame due on arrival is released at its position: after the frames before it, whose release times have been reached too, and with any other due frame (R18, R19). -/
def State.passFrame (f : LineFrame) (s : State) : State :=
  (((s.releaseHeads (placeOf f s.sin.line)).onSin fun x => { x with released := some f.last }).deliver f).releaseDue

/-- SIN places an arriving frame: late, due on arrival, line full or normal (R18, R20). -/
def State.offerFrame (f : LineFrame) (s : State) : State :=
  if s.frameLate f.last then s.dropLate
  else if s.frameDue f.last then s.passFrame f
  else if s.sin.line.length < Config.delayLineDepth then s.putFrame f
  else
    let t := s.releaseEarly
    if t.frameLate f.last then t.dropLate else t.putFrame f

/-! ### The fate of a sample frame (R10, R11) -/

/-- The order check: none for a frame out of order, else whether the frame carries a gap mark (R11). -/
def orderCheck (r : Option OrderRecord) (first : LoopTime) : Option Bool :=
  match r with
  | none => some false
  | some p =>
    if timeDiff first p.first ≤ 0 then none
    else some (decide ((divRoundNat (3 * p.length) 2 : Int) < timeDiff first p.first))

/-- A sample frame of a known form is checked for order, calibrated and offered to the delay line (R10, R11). -/
def State.acceptSmp (node : Nat) (e : NodeEntry) (samples : Nat) (payload : List Byte) (s : State) : State :=
  let first := timeAt payload 4
  let period := samplePeriod e.kind
  match orderCheck (s.node node).order first with
  | none => s.onSinCounters fun c => { c with order := bump c.order }
  | some gap =>
    let t := s.onNode node fun x => { x with order := some ⟨first, samples * period⟩ }
    t.offerFrame
      { node := node
        last := later first ((samples - 1) * period)
        gap := gap
        samples := t.frameSamples node e.channelCount samples period payload }

/-- SIN takes an SMP frame by its source station (R10). -/
def State.takeSmp (source : Nat) (payload : List Byte) (s : State) : State :=
  if s.scu.site = .offline then s
  else
    match (nodeAt s.tables source).bind fun n => (nodeEntry s.tables n).map fun e => (n, e) with
    | none => s.onSinCounters fun c => { c with unknownNode := bump c.unknownNode }
    | some (n, e) =>
      if e.kind = .transducer then s.onSinCounters fun c => { c with unknownNode := bump c.unknownNode }
      else
        let channels := byteAt payload 0
        let samples := byteAt payload 1
        if channels = e.channelCount ∧ 1 ≤ samples ∧ samples ≤ 32 ∧ payload.length = smpLength channels samples then
          s.acceptSmp n e samples payload
        else s.onSinCounters fun c => { c with malformed := bump c.malformed }

/-! ### Entry into OFFLINE and resets (R6, R11, R21) -/

/-- The delay line is emptied without release and its record cleared (R21). -/
def emptyLine (x : Sin) : Sin := { x with line := [], released := none }

/-- Every node PRESENT with its timer stopped, as supervision is suspended (R6). -/
def suspendNodes (x : Sin) : Sin := { x with nodes := x.nodes.map fun n => { n with silent := false, timer := none } }

/-- The node at a place is in use (R5). -/
def nodeUsed (t : Tables) (i : Nat) : Bool := (nodeEntry t (i + 1)).isSome

/-- As the site state leaves OFFLINE: every used node PRESENT with a fresh timer, every order record empty (R6, R11). -/
def superviseNodes (t : Tables) (x : Sin) : Sin :=
  { x with nodes := x.nodes.zipIdx.map fun (_, i) =>
      { silent := false, timer := if nodeUsed t i then some Config.nodeSilence else none, order := none } }

end Sys2Proof.Machine
end

