-- ==== Sys2Proof/Machine/Transmit.lean ====
section
/-! DEFINITION. The transmitter, the answers and the taking of commands: what goes out on the site loop and in which order (R189, R190, R192). -/

namespace Sys2Proof.Machine

/-! ### The transmitter (R189, R190) -/

/-- The frame kind of an own frame. -/
def ownFrameKind (k : OwnKind) : FrameKind :=
  match k with
  | .ans => .ans
  | .rpt => .rpt
  | .evt => .evt

/-- The sending of a TIM frame begins: to 255, with the loop time at this moment (R189). -/
def State.beginTim (s : State) : State :=
  s.onLif fun l =>
    { l with
      timWaiting := false
      sending := some ⟨.tim, frameOctets Config.broadcast l.station .tim (putTime s.now)⟩ }

/-- A new station takes effect with the first frame sent under it, and the previous one is kept as a second strip address for 100 ms (R190). -/
def newAddress (n : Nat) (first : List Byte) (l : Lif) : Lif :=
  { l with station := n, strip := some ⟨l.station, some Config.stripTime, first⟩ }

/-- The octets of an own frame sent from a station. -/
def ownOctets (f : OwnFrame) (station : Nat) : List Byte := frameOctets f.dest station (ownFrameKind f.kind) f.payload

/-- LIF as the sending of an own frame begins: a DONE of SET_STATION brings the new source with it (R190). -/
def sendOwn (f : OwnFrame) (rest : List OwnFrame) (l : Lif) : Lif :=
  let m := match f.newStation with
    | some n => newAddress n (ownOctets f n) l
    | none => l
  { m with own := rest, sending := some ⟨.own f.kind, ownOctets f m.station⟩ }

/-- The hold-off timer starts as an EVT frame is sent (R165). -/
def State.startHoldOff (k : OwnKind) (s : State) : State :=
  match k with
  | .evt => s.onRps fun r => { r with holdOff := some s.eventHoldOff }
  | .ans | .rpt => s

/-- The sending of the first forwarded frame begins (R189). -/
def sendForward (f : List Byte) (rest : List (List Byte)) (l : Lif) : Lif :=
  { l with forward := rest, sending := some ⟨.forwarded, f⟩ }

/-- The transmitter, free in LOCKED, takes the next waiting frame: a due TIM frame, then own frames in the order handed over, then frames to forward (R189). -/
def State.transmit (s : State) : State :=
  if s.lif.locked ∧ s.lif.sending.isNone then
    if s.lif.timWaiting then s.beginTim
    else
      match s.lif.own, s.lif.forward with
      | f :: rest, _ => (s.onLif (sendOwn f rest)).startHoldOff f.kind
      | [], g :: more => s.onLif (sendForward g more)
      | [], [] => s
  else s

/-- A block hands an own frame to the transmitter (R189). -/
def State.handOwn (f : OwnFrame) (s : State) : State :=
  (s.onLif fun l => { l with own := l.own ++ [f] }).transmit

/-- A frame to forward: it waits, goes out, or is discarded and counted at a full queue (R189, R199). -/
def State.forwardFrame (octets : List Byte) (s : State) : State :=
  if s.lif.forward.length < Config.forwardDepth then
    (s.onLif fun l => { l with forward := l.forward ++ [octets] }).transmit
  else
    s.onLif fun l => { l with counters := { l.counters with forwardOverflows := bump l.counters.forwardOverflows } }

/-! ### Answers (R192) -/

/-- One more answer lost (R192, R199). -/
def loseAnswer (l : Lif) : Lif :=
  { l with counters := { l.counters with answersLost := bump l.counters.answersLost } }

/-- The ANS frame of a command. -/
def ansFrame (dest code : Nat) (tag : Byte) (a : AnswerCode) (data : List Byte) (busy : Bool) (newStation : Option Nat) : OwnFrame :=
  ⟨.ans, dest, ansPayload code tag a data, busy, newStation⟩

/-- A command ends with its answer: the ANS frame goes to the transmitter, or is discarded and counted while the loop is in SEARCH (R192). -/
def State.answer (code : Nat) (tag : Byte) (a : AnswerCode) (data : List Byte) (s : State) : State :=
  let t := s.onLif fun l => { l with inProgress := none }
  if t.lif.locked then t.handOwn (ansFrame s.controller code tag a data false none) else t.onLif loseAnswer

/-- The answer of the command in progress: discarded and counted once a loss of lock has taken it (R192). -/
def State.answerProgress (code : Nat) (a : AnswerCode) (data : List Byte) (s : State) : State :=
  match s.lif.inProgress with
  | none => s
  | some p =>
    if p.lost then s.onLif fun l => loseAnswer { l with inProgress := none } else s.answer code p.tag a data

/-- The REFUSED_BUSY answers that wait (R189). -/
def busyWaiting (l : Lif) : Nat := (l.own.filter fun f => f.busy).length

/-- A command to a full queue is answered REFUSED_BUSY at once, unless three such answers wait (R189, R191). -/
def State.answerBusy (code : Nat) (tag : Byte) (s : State) : State :=
  let t := s.onLif fun l => { l with counters := { l.counters with refusedBusy := bump l.counters.refusedBusy } }
  if busyWaiting t.lif < Config.busyAnswers then
    t.handOwn (ansFrame s.controller code tag .refusedBusy [] true none)
  else t.onLif loseAnswer

/-! ### Taking a command (R191, R192) -/

/-- LIF may take a command: none is in progress, and no ANS frame of an earlier command taken waits (R192). -/
def Lif.free (l : Lif) : Bool :=
  l.inProgress.isNone && l.own.all fun f => f.kind != .ans || f.busy

/-- Refusals that a command's own rule makes before it judges the arguments (R147, R170, R176, R181, R184, R190, R192). -/
def State.refusal (s : State) (code : Nat) : Option AnswerCode :=
  let allowed := fun (ok : Bool) => if ok then none else some AnswerCode.refusedState
  match code with
  | 6 => allowed (s.scu.site == .offline)
  | 9 => allowed (s.scu.site == .armed && !s.pins.approach)
  | 10 => allowed (s.scu.site == .passage)
  | 18 => allowed (s.scu.site == .offline)
  | 19 => allowed (s.scu.site == .offline || s.scu.site == .armed)
  | 20 =>
    if s.scu.site != .offline then some .refusedState
    else if s.lif.fixed then some .refusedFixed
    else none
  | _ => none

/-- The answer to a waiting command that no row of the command set takes: a code that names no command, or arguments that end before their stated length (R192; notes/assumptions/6.md, 47.md). -/
def State.badCommand (s : State) (c : Cmd) : Option AnswerCode :=
  if c.code = 0 ∨ 20 < c.code then some .unknownCommand
  else if c.short then some ((s.refusal c.code).getD .badArgument)
  else none

/-- LIF takes and answers the head command if it is one of those. -/
def State.drainOne (s : State) : State :=
  match s.lif.queue with
  | [] => s
  | c :: rest =>
    if s.lif.free then
      match s.badCommand c with
      | some a => (s.onLif fun l => { l with queue := rest }).answer c.code c.tag a []
      | none => s
    else s

/-- LIF takes and answers such commands as long as they stand at the head; no more than four wait (R191). -/
def State.drain (s : State) : State := forEach (List.range Config.commandQueueDepth) (fun _ t => t.drainOne) s

/-- LIF takes a command: the head of the queue, or one handed over to an empty queue (R192; notes/assumptions/6.md). -/
def State.takeCommand (code : Nat) (tag : Byte) (args : List Byte) (s : State) : Option State :=
  if s.lif.free then
    match s.lif.queue with
    | [] => some s
    | c :: rest =>
      if c = ⟨code, tag, args, false⟩ then some (s.onLif fun l => { l with queue := rest }) else none
  else none

/-- A command row: after the loop time that ran, LIF takes the command and its rule acts; a command that LIF cannot take waits. -/
def command (code : Nat) (tag : Byte) (args : List Byte) (f : State → State) (s : State) : State :=
  match s.takeCommand code tag args with
  | some t => (f t).drain
  | none => s

end Sys2Proof.Machine
end

