-- ==== Sys2Proof/Machine/Reports.lean ====
section
/-! DEFINITION. The Report Store: slots, sealing, the summary ring, report reads and event notices (R150 to R168). -/

namespace Sys2Proof.Machine

/-! ### Slots (R150 to R153) -/

/-- Slot `n` = 1..4; a number outside is FREE. -/
def Rps.slot (r : Rps) (n : Nat) : Slot := if n = 0 then .free else r.slots.getD (n - 1) .free

/-- Replaces slot `n`. -/
def Rps.setSlot (n : Nat) (x : Slot) (r : Rps) : Rps := { r with slots := r.slots.set (n - 1) x }

/-- The slot numbers. -/
def slotNumbers : List Nat := [1, 2, 3, 4]

/-- A report is protected: its passage held an alarm of class CRITICAL or ALARM (R150). -/
def protectedReport (r : Report) : Bool := 0 < r.header.highest.critical || 0 < r.header.highest.alarm

/-- The seal order of a clean SEALED slot (R151). -/
def cleanOrder (x : Slot) : Option Nat :=
  match x with
  | .sealed r => if protectedReport r then none else some r.sealOrder
  | .free | .filling _ => none

/-- The lowest-numbered FREE slot (R151). -/
def Rps.freeSlot (r : Rps) : Option Nat := slotNumbers.find? fun n => r.slot n == .free

/-- The clean SEALED slot of lowest seal order (R151). -/
def Rps.oldestClean (r : Rps) : Option Nat :=
  (slotNumbers.filterMap fun n => (cleanOrder (r.slot n)).map fun o => (n, o)).foldl
    (fun m x =>
      match m with
      | none => some x
      | some y => if x.2 < y.2 then some x else some y) (none : Option (Nat × Nat))
  |>.map (·.1)

/-- The summary of the passage held in a slot gets a detail (R152, R162, R163). -/
def Rps.setDetail (n : Nat) (d : Detail) (r : Rps) : Rps :=
  { r with ring := r.ring.map fun x => if x.detail = .inSlot n then { x with detail := d } else x }

/-- A report read in progress from a slot is cut (R152, R160). -/
def cutRead (n : Nat) (l : Lif) : Lif :=
  { l with inProgress := l.inProgress.map fun p =>
      match p.job with
      | .read r => if r.slot = n then { p with job := .read { r with cut := true } } else p
      | .stop | .store => p }

/-- The slot a starting passage is given (R151). -/
inductive SlotTaken where
  | fresh (slot : Nat)
  | takeover (slot : Nat)
  | noSlot
deriving DecidableEq, Repr

/-- The slot a passage start takes, by the first case of R151 that applies. -/
def Rps.choose (r : Rps) : SlotTaken :=
  match r.freeSlot with
  | some n => .fresh n
  | none =>
    match r.oldestClean with
    | some n => .takeover n
    | none => .noSlot

/-- The passage context records the slot it was given. -/
def State.noteSlot (n : Option Nat) (s : State) : State := s.onPassage fun p => { p with slot := n }

/-- RPS gives a starting passage its slot and raises the kinds of the start together (R151 to R153). -/
def State.takeSlot (number : Nat) (s : State) : State :=
  let t := s.raise .passageStarted
  match s.rps.choose with
  | .fresh n => (t.onRps (Rps.setSlot n (.filling number))).noteSlot (some n)
  | .takeover n =>
    (((t.onRps fun r => (r.setDetail n .takenOver).setSlot n (.filling number)).onLif (cutRead n)).noteSlot
      (some n)).raise .slotTakenOver
  | .noSlot => (t.noteSlot none).raise .detailLost

/-! ### Sealing (R155, R163) -/

/-- The header of a passage as it ends (R155, R156). -/
def headerOf (p : Passage) (a : AlarmList) : Header where
  number := p.number
  startTime := p.startTime
  endTime := p.endTime.getD p.startTime
  disposition := p.disposition.getD .complete
  dir := p.dir
  total := p.total
  records := p.axles.length
  vehicleCount := p.vehicleCount
  ambient := p.ambient
  flags := p.flags
  counters := p.counters
  lostAlarms := a.lost
  highest := a.highest

/-- A section not read yet (R161). -/
def ReadState.unread : ReadState := ⟨0, false⟩

/-- The report of a passage as it is sealed (R155). -/
def reportOf (p : Passage) (a : AlarmList) (order : Nat) : Report where
  header := headerOf p a
  axles := p.axles
  vehicles := p.vehicles
  alarms := a.entries
  sealOrder := order
  reads := ⟨.unread, .unread, .unread, .unread⟩
  readComplete := false

/-- How many SEALED slots have a seal order below a bound (R150). -/
def sealedBelow (l : List Slot) (order : Nat) : Nat :=
  (l.filter fun x =>
    match x with
    | .sealed r => decide (r.sealOrder < order)
    | .free | .filling _ => false).length

/-- The SEALED slots renumbered from 1 in their order of sealing (R150). -/
def renumber (l : List Slot) : List Slot :=
  l.map fun x =>
    match x with
    | .sealed r => .sealed { r with sealOrder := sealedBelow l r.sealOrder + 1 }
    | .free => .free
    | .filling n => .filling n

/-- How many slots are SEALED. -/
def sealedCount (l : List Slot) : Nat :=
  (l.filter fun x =>
    match x with
    | .sealed _ => true
    | .free | .filling _ => false).length

/-- RPS ready to seal: its count one higher, renumbered first if it would pass its width (R150). -/
def Rps.nextSeal (r : Rps) : Rps :=
  if r.sealCount < Config.countMax then { r with sealCount := r.sealCount + 1 }
  else { r with slots := renumber r.slots, sealCount := sealedCount r.slots + 1 }

/-- RPS seals the report of a passage in its slot (R155). -/
def Rps.sealReport (n : Nat) (p : Passage) (a : AlarmList) (r : Rps) : Rps :=
  let q := r.nextSeal
  q.setSlot n (.sealed (reportOf p a q.sealCount))

/-- The summary of a passage as it ends (R163). -/
def summaryOf (p : Passage) (a : AlarmList) : Summary where
  number := p.number
  startTime := p.startTime
  endTime := p.endTime.getD p.startTime
  disposition := p.disposition.getD .complete
  dir := p.dir
  total := p.total
  highest := a.highest
  detail := match p.slot with
    | some n => .inSlot n
    | none => .detailLost

/-- A summary joins the ring, the oldest leaving past sixteen (R163). -/
def joinRing (x : Summary) (l : List Summary) : List Summary :=
  (l ++ [x]).drop (l.length + 1 - Config.summaryRingDepth)

/-- The sealing of the current passage: report, summary, PASSAGE_CLOSED (R155). -/
def State.sealPassage (s : State) : State :=
  match s.passage with
  | none => s
  | some p =>
    let a := s.aou.alarms
    let t := match p.slot with
      | some n => s.onRps (Rps.sealReport n p a)
      | none => s
    (t.onRps fun r => { r with ring := joinRing (summaryOf p a) r.ring }).raise .passageClosed

/-! ### Reading and releasing (R159 to R162) -/

/-- The records a read serves: from the first index on, as many as asked for (R160). -/
def servedCount (r : Report) (x : Section) (first count : Nat) : Nat :=
  min count ((sectionRecords r x).length - first)

/-- The read state of a section. -/
def ReadStates.get (r : ReadStates) (x : Section) : ReadState :=
  match x with
  | .header => r.header
  | .axles => r.axles
  | .vehicles => r.vehicles
  | .alarms => r.alarms

/-- Replaces the read state of a section. -/
def ReadStates.set (r : ReadStates) (x : Section) (y : ReadState) : ReadStates :=
  match x with
  | .header => { r with header := y }
  | .axles => { r with axles := y }
  | .vehicles => { r with vehicles := y }
  | .alarms => { r with alarms := y }

/-- A section is read: read once, and covered to its end (R161). -/
def sectionRead (r : Report) (x : Section) : Bool :=
  (r.reads.get x).once && (r.reads.get x).coverage == (sectionRecords r x).length

/-- The coverage after a read of `n` records from `first` (R161). -/
def coverAfter (first n c : Nat) : Nat := if first ≤ c then max c (first + n) else c

/-- A report after a read of a section that ended DONE (R161). -/
def noteRead (x : Section) (first n : Nat) (r : Report) : Report :=
  let t := { r with reads := r.reads.set x ⟨coverAfter first n (r.reads.get x).coverage, true⟩ }
  { t with readComplete := t.readComplete
      || (sectionRead t .header && sectionRead t .axles && sectionRead t .vehicles && sectionRead t .alarms) }

/-- Changes the report of a SEALED slot (R161). -/
def Rps.onReport (n : Nat) (f : Report → Report) (r : Rps) : Rps :=
  match r.slot n with
  | .sealed x => r.setSlot n (.sealed (f x))
  | .free | .filling _ => r

/-- The command code of READ_REPORT (R200). -/
def readReportCode : Nat := 12

/-- A report read ends: DONE with its read state noted, or NO_SUCH_SLOT after a takeover (R160, R161). -/
def State.endRead (j : ReadJob) (s : State) : State :=
  if j.cut then s.answerProgress readReportCode .noSuchSlot (put4 j.sent)
  else
    (s.onRps (Rps.onReport j.slot (noteRead j.part j.first j.total))).answerProgress readReportCode .done (put4 j.sent)

/-- The next RPT frame of a report read: up to sixteen records copied from the slot (R160). -/
def rptFrame (dest : Nat) (j : ReadJob) (r : Report) (n : Nat) : OwnFrame where
  kind := .rpt
  dest := dest
  payload := rptPayload j.slot j.part j.passage (j.first + j.sent)
    (((sectionRecords r j.part).drop (j.first + j.sent)).take n)
  busy := false
  newStation := none

/-- The job after a frame of `n` records. -/
def advanceRead (n : Nat) (l : Lif) : Lif :=
  { l with inProgress := l.inProgress.map fun p =>
      match p.job with
      | .read r => { p with job := .read { r with sent := r.sent + n } }
      | .stop | .store => p }

/-- RPS hands LIF the next RPT frame, or ends the read when none is left or the slot was taken over (R160). -/
def State.sendRpt (j : ReadJob) (s : State) : State :=
  if j.cut ∨ j.total ≤ j.sent then s.endRead j
  else
    match s.rps.slot j.slot with
    | .sealed r =>
      let n := min Config.rptRecords (j.total - j.sent)
      (s.handOwn (rptFrame s.controller j r n)).onLif (advanceRead n)
    | .free | .filling _ => s.endRead { j with cut := true }

/-- No RPT frame waits or is being sent (R160, R189). -/
def Lif.rptClear (l : Lif) : Bool :=
  (l.own.all fun f => f.kind != .rpt) && (l.sending.all fun x => x.kind != .own .rpt)

/-- The report read in progress, if its next frame or its final answer may be handed over: no RPT frame waits or is being sent (R160, R189; notes/assumptions/45.md). -/
def State.readReady (s : State) : Option ReadJob :=
  match s.lif.inProgress with
  | some p =>
    match p.job with
    | .read j => if s.lif.rptClear then some j else none
    | .stop | .store => none
  | none => none

/-! ### Event notices (R165) -/

/-- The kinds that an EVT frame lists: pending and not masked (R165). -/
def Rps.listed (r : Rps) : BitVec 13 := r.pending &&& ~~~r.mask

/-- The passage number of an EVT frame (R165). -/
def State.evtPassage (s : State) : Nat :=
  match s.passage with
  | some p => p.number
  | none => s.rps.lastPassage

/-- RPS may form an EVT frame (R165, R189). -/
def State.evtReady (s : State) : Bool :=
  s.rps.sendDue && s.rps.holdOff.isNone && s.lif.locked && s.lif.own.all fun f => f.kind != .evt

/-- RPS as it forms an EVT frame (R165). -/
def Rps.formEvt (now : LoopTime) (r : Rps) : Rps :=
  { r with marks := r.marks &&& ~~~r.listed, sendDue := false, lastEvt := some now }

/-- An EVT frame is formed and handed to LIF, or send-due is cleared when no kind is listed (R165). -/
def State.formEvt (s : State) : State :=
  let kinds := s.rps.listed
  if kinds = 0 then s.onRps fun r => { r with sendDue := false }
  else
    (s.onRps (Rps.formEvt s.now)).handOwn
      { kind := .evt
        dest := s.controller
        payload := evtPayload kinds s.scu.site s.evtPassage
        busy := false
        newStation := none }

/-! ### RESTART (R150, R163, R167) -/

/-- RPS after RESTART: everything as after POWER_ON but the mask, which is kept (R167, R168). -/
def Rps.restart (r : Rps) : Rps := { Rps.reset with mask := r.mask }

end Sys2Proof.Machine
end

