-- ==== Sys2Proof/Machine/Validate.lean ====
section
/-! DEFINITION. Table validation: the checks of every table in the order of R171 (R50, R68, R86, R171 to R173). -/

namespace Sys2Proof.Machine

/-- A failed check: the entry named, or none for the table as a whole, and the check number (R171). -/
structure CheckFailure where
  entry : Option Nat
  check : Nat
deriving DecidableEq, Repr

/-- The first failure of a list of checks. -/
def firstFailure (l : List (Option CheckFailure)) : Option CheckFailure :=
  match l with
  | [] => none
  | some f :: _ => some f
  | none :: rest => firstFailure rest

/-- A check of one entry: it fails unless the condition holds. -/
def need (ok : Bool) (entry check : Nat) : Option CheckFailure := if ok then none else some ⟨some entry, check⟩

/-! ### Site parameters, geometry, nodes (R173) -/

/-- The site parameters check: band low at most band high, naming band high (R67, R173). -/
def checkSite (site : List Nat) : Option CheckFailure := need (siteParam site 10 ≤ siteParam site 11) 11 1

/-- The geometry checks: every position set, then each greater than the one before (R173). -/
def checkGeometry (l : List (Option Int)) : Option CheckFailure :=
  firstFailure
    ((List.range 4).map (fun i => need (l.getD i none).isSome (i + 1) 1)
     ++ [1, 2, 3].map fun i => need (decide ((l.getD (i - 1) none).getD 0 < (l.getD i none).getD 0)) (i + 1) 2)

/-- No lower-numbered used node entry satisfies a condition. -/
def noLowerNode (t : Tables) (n : Nat) (p : NodeEntry → Bool) : Bool :=
  (List.range' 1 (n - 1)).all fun m => (nodeEntry t m).all fun e => !p e

/-- The checks 1 to 3 of one used node entry (R173). -/
def checkNode (own controller : Nat) (t : Tables) (n : Nat) : Option CheckFailure :=
  match nodeEntry t n with
  | none => none
  | some e =>
    firstFailure
      [need (e.station != own && e.station != controller) n 1,
       need (noLowerNode t n fun x => x.station == e.station) n 2,
       need (e.kind != .transducer || noLowerNode t n fun x => x.kind == .transducer) n 3]

/-- The node checks, entry by entry, then check 4 of the table (R173). -/
def checkNodes (own controller : Nat) (t : Tables) : Option CheckFailure :=
  firstFailure
    ((List.range' 1 12).map (checkNode own controller t)
     ++ [if (List.range' 1 12).any fun n => (nodeEntry t n).any fun e => e.kind == .transducer then none
         else some ⟨none, 4⟩])

/-! ### Channels and conversion tables (R173) -/

/-- The node kind that a channel kind must name (R7). -/
def nodeKindOf (k : ChannelKind) : Option NodeKind :=
  match k with
  | .crib => some .cribDigitizer
  | .scanner => some .scannerDigitizer
  | .ambient => none

/-- The node entry a channel names (R7). -/
def channelNode (t : Tables) (e : ChannelEntry) : Option NodeEntry := e.node.bind (nodeEntry t)

/-- No lower-numbered used channel entry names the same node and index (R7). -/
def noLowerChannel (t : Tables) (c : Nat) (e : ChannelEntry) : Bool :=
  (List.range c).all fun d => (channelEntry t d).all fun x => !(x.node.isSome && x.node == e.node && x.index == e.index)

/-- The checks 3 to 6 of a CRIB or SCANNER entry (R173). -/
def checkMeasuring (t : Tables) (c : Nat) (e : ChannelEntry) : Option CheckFailure :=
  firstFailure
    [need ((channelNode t e).any fun n => some n.kind == nodeKindOf e.kind) c 3,
     need ((channelNode t e).any fun n => e.index < n.channelCount) c 4,
     need (noLowerChannel t c e) c 5,
     need (e.kind != .crib || decide (e.platLow < e.platHigh)) c 6]

/-- The checks of one channel entry (R173). -/
def checkChannel (t : Tables) (c : Nat) : Option CheckFailure :=
  if c = 31 then
    need ((channelEntry t 31).any fun e => e.kind == .ambient && e.node.isNone) 31 1
  else
    match channelEntry t c with
    | none => none
    | some e =>
      match e.kind with
      | .ambient => some ⟨some c, 2⟩
      | .crib | .scanner => checkMeasuring t c e

/-- The channel checks over entries 0 to 31 (R173). -/
def checkChannels (t : Tables) : Option CheckFailure := firstFailure ((List.range 32).map (checkChannel t))

/-- A used channel entry of kind SCANNER or AMBIENT names a conversion table (R171, R173). -/
def conversionNamed (t : Tables) (k : Nat) : Bool :=
  (List.range 32).any fun c => (channelEntry t c).any fun e => e.kind != .crib && e.conv == k

/-- The input of a point of a conversion table. -/
def pointInput (l : List (Option ConvPoint)) (i : Nat) : Int :=
  match l.getD i none with
  | some p => p.input
  | none => 0

/-- The checks of conversion table `k`: all points set, then inputs increasing; a table that no channel names passes (R173). -/
def checkConversion (t : Tables) (k : Nat) : Option CheckFailure :=
  let l := t.conv.getD k []
  if conversionNamed t k then
    firstFailure
      ((List.range 17).map (fun i => need (l.getD i none).isSome (i + 1) 1)
       ++ (List.range' 1 16).map fun i => need (decide (pointInput l (i - 1) < pointInput l i)) (i + 1) 2)
  else none

/-! ### Zone sets (R50) -/

/-- A listed channel serves a window's kind and rail (R50, check 3). -/
def serves (t : Tables) (w : Window) (c : Nat) : Bool :=
  (channelEntry t c).any fun e =>
    e.rail == w.rail && e.kind == (if w.kind = .scan then ChannelKind.scanner else ChannelKind.crib)

/-- No member appears twice. -/
def distinct (l : List Nat) : Bool :=
  match l with
  | [] => true
  | a :: rest => !rest.contains a && distinct rest

/-- How many used windows numbered up to `n` satisfy a condition. -/
def countUpTo (zone : List (Option Window)) (n : Nat) (p : Window → Bool) : Nat :=
  ((zone.take n).filter fun x => x.any p).length

/-- The checks 1 to 7 of one used window (R50). -/
def checkWindow (t : Tables) (zone : List (Option Window)) (n : Nat) : Option CheckFailure :=
  match zone.getD (n - 1) none with
  | none => none
  | some w =>
    let mark := w.kind == .mark
    firstFailure
      [need (decide (w.lower < w.upper)) n 1,
       need (!mark || w.channels.isEmpty) n 2,
       need (mark || (1 ≤ w.channels.length && w.channels.length ≤ 12 && w.channels.all (serves t w))) n 3,
       need (distinct w.channels) n 4,
       need (mark || (decide (wtPosition t .wt2 + 1 < w.lower) && decide (w.upper < wtPosition t .wt3))) n 5,
       need (mark || countUpTo zone n (fun x => x.kind == w.kind && x.rail == w.rail) ≤ 1) n 6,
       need (!mark || countUpTo zone n (fun x => x.kind == .mark) ≤ Config.markWindowsMax) n 7]

/-- The zone checks, window by window (R50). -/
def checkZone (t : Tables) (zone : List (Option Window)) : Option CheckFailure :=
  firstFailure ((List.range' 1 12).map (checkWindow t zone))

/-! ### Speed correction and vehicle types (R68, R86) -/

/-- The speed of a point of the speed correction table. -/
def pointSpeed (l : List (Option SpeedPoint)) (i : Nat) : Nat :=
  match l.getD i none with
  | some p => p.speed
  | none => 0

/-- The speed correction checks, point by point (R68). -/
def checkSpeed (l : List (Option SpeedPoint)) : Option CheckFailure :=
  firstFailure ((List.range 9).flatMap fun i =>
    [need (l.getD i none).isSome (i + 1) 1,
     need (i == 0 || decide (pointSpeed l (i - 1) < pointSpeed l i)) (i + 1) 2])

/-- The vehicle type check: no used entry repeats a lower one's type code (R86). -/
def checkVehicles (l : List (Option VehicleType)) : Option CheckFailure :=
  firstFailure ((List.range 24).map fun i =>
    match l.getD i none with
    | none => none
    | some v => need ((l.take i).all fun x => x.all fun y => y.code != v.code) (i + 1) 1)

/-! ### The whole validation (R171) -/

/-- The first entry of a table, by its identifier (R171, R193). -/
def firstEntry (table : Nat) : Nat := if table = 4 then 0 else 1

/-- The checks of a table by its identifier (R171). -/
def checkTable (own controller : Nat) (t : Tables) (table : Nat) : Option CheckFailure :=
  match table with
  | 1 => checkSite t.site
  | 2 => checkGeometry t.geometry
  | 3 => checkNodes own controller t
  | 4 => checkChannels t
  | 5 => checkConversion t 0
  | 6 => checkConversion t 1
  | 7 => checkConversion t 2
  | 8 => checkConversion t 3
  | 9 => checkZone t t.zoneU
  | 10 => checkZone t t.zoneD
  | 11 => checkSpeed t.speed
  | 12 => checkVehicles t.vehicle
  | _ => none

/-- A table is exempt from the test of its INVALID mark: a conversion table that no used channel names (R171). -/
def markExempt (t : Tables) (table : Nat) : Bool := 5 ≤ table && table ≤ 8 && !conversionNamed t (table - 5)

/-- The failure of one table, its INVALID mark first (R171). -/
def tableFailure (own controller : Nat) (t : Tables) (invalid : List Bool) (table : Nat) : Option Failure :=
  if invalid.getD (table - 1) false ∧ ¬ markExempt t table then
    some ⟨table, some (firstEntry table), 1, .markedInvalid⟩
  else (checkTable own controller t table).map fun f => ⟨table, f.entry, f.check, .checkFailed⟩

/-- The first failure over the fourteen tables in the order of R171, if there is one. -/
def validate (own controller : Nat) (t : Tables) (invalid : List Bool) : Option Failure :=
  ((List.range' 1 14).filterMap (tableFailure own controller t invalid)).head?

/-- SCU validates the working tables, with the controller station that would be committed (R171, R173; notes/assumptions/7.md). -/
def State.validation (s : State) : Option Failure :=
  validate s.lif.station (siteParam s.tables.site 16) s.tables s.invalid

end Sys2Proof.Machine
end

