-- ==== Sys2Proof/Machine/Control.lean ====
section
/-! DEFINITION. Site Control: changes of the site state with the actions of every block, the channel check, the table commit, supervision and the loop's lock (R169 to R181, R187, R192, R198). -/

namespace Sys2Proof.Machine

/-! ### Changes of the site state (R169) -/

/-- The site state changes: STATE_CHANGED is raised, the live value is fresh, and the loss timer runs on in PASSAGE alone (R169, R176, R197). -/
def State.changeSite (x : SiteState) (s : State) : State :=
  (s.onScu fun u =>
    { u with
      site := x
      siteFresh := true
      loss := match x with
        | .passage => u.loss
        | .offline | .checking | .armed | .closing => none }).raise .stateChanged

/-- Pending captures and reference verdicts are discarded (R14, R131, R132, R180). -/
def State.discardPending (s : State) : State :=
  s.onSin fun x => { x with channels := x.channels.map fun c => { c with capture := none, gather := none } }

/-- The crossing queue is emptied, each crossing counted offline, and the carried mark cleared (R26). -/
def emptyQueue (x : Axt) : Axt :=
  { x with
    queue := []
    carried := false
    counters := { x.counters with offline := min Config.counterMax (x.counters.offline + x.queue.length) } }

/-- SCU at the entry into OFFLINE: the check's and the interval's timers stop and no check is due (R174, R181). -/
def stopChecks (u : Scu) : Scu :=
  { u with settle := none, phaseTimer := none, endTimer := none, interval := none, due := false }

/-- LIF at the entry into OFFLINE: supervision stops and the link is PRESENT (R198). -/
def suspendLink (l : Lif) : Lif := { l with linkLost := false, supTimer := none }

/-- The entry into OFFLINE, with what every block states for it (R6, R21, R26, R54, R118, R132, R147, R149, R174, R181, R198). -/
def State.enterOffline (s : State) : State :=
  let a := (s.changeSite .offline).discardPending
  let b := ((a.onScu stopChecks).onLif suspendLink).onSin fun x => suspendNodes (emptyLine x)
  let c := (b.onAxt emptyQueue).onPassage fun p => { p with contexts := [] }
  let d := (c.onAou fun x => { x with lines := x.lines.map offlineLine }).closeShutters
  State.equipmentSince s d.judgeLines

/-- The channel check begins with its settle wait (R178, R181). -/
def beginCheck (settle : Nat) (u : Scu) : Scu :=
  { u with
    check := .run .settle
    settle := some settle
    phaseTimer := none
    endTimer := none
    due := false }

/-- The entry into CHECKING with a channel check (R118, R178). -/
def State.enterChecking (settle : Nat) (s : State) : State :=
  (((s.changeSite .checking).onScu (beginCheck settle)).discardPending.closeShutters).judgeLines

/-- Supervision starts as the site state leaves OFFLINE (R198). -/
def State.startSupervision (s : State) : State :=
  if s.supervised then s.onLif fun l => { l with supTimer := some s.supervisionLimit } else s

/-- The site state leaves OFFLINE: nodes and the controller are supervised, and test levels are OFF (R6, R11, R147, R198). -/
def State.leaveOffline (s : State) : State :=
  ((s.onSin (superviseNodes s.tables)).startSupervision).onAou fun a =>
    { a with lines := a.lines.map fun x => { x with test := false } }

/-- The entry into ARMED (R117, R118, R169). -/
def State.enterArmed (s : State) : State := ((s.changeSite .armed).shuttersAtArmed).judgeLines

/-! ### The table commit (R24, R170, R183) -/

/-- The working site parameters become the committed ones, and t_dp with them (R24, R67, R170). -/
def State.commitTables (s : State) : State :=
  { s with commit :=
    { s.commit with site := some s.tables.site, tdp := some (doublePulseInterval s.tables.site) } }

/-- A commit and the entry into CHECKING from OFFLINE (R170, R175, R183). -/
def State.startSite (settle : Nat) (s : State) : State :=
  ((s.onScu fun u => { u with validation := .passed }).commitTables.leaveOffline).enterChecking settle

/-- Auto-arm: with the flag set, the tables are validated and, if they pass, committed and CHECKING is entered (R175, R183). -/
def State.autoArm (settle : Nat) (s : State) : State :=
  if s.scu.autoArm then
    match s.validation with
    | some f => s.onScu fun u => { u with validation := .failed f }
    | none => s.startSite settle
  else s

/-! ### The channel check (R9, R14, R131, R178 to R181) -/

/-- The interval timer starts, unless the interval is 0 (R181). -/
def State.startInterval (s : State) : State :=
  s.onScu fun u => { u with interval := if s.checkInterval = 0 then none else some s.checkInterval }

/-- A running check is abandoned (R180). -/
def State.abortCheck (r : AbortReason) (s : State) : State :=
  ((((s.onScu fun u =>
    { u with
      check := .aborted r
      checkTime := some s.now
      settle := none
      phaseTimer := none
      endTimer := none }).discardPending).raise .checkEnded).startInterval)

/-- A channel check is running (R178). -/
def State.checkRunning (s : State) : Bool :=
  match s.scu.check with
  | .run _ => true
  | .idle | .ended | .aborted _ => false

/-- A verdict of a channel check (R9). -/
inductive Verdict where
  | pass
  | fail
  | undecided
deriving DecidableEq, Repr

/-- The verdict's effect on recorded health and failure run (R9). -/
def applyVerdict (v : Verdict) (x : ChannelState) : ChannelState :=
  match v with
  | .pass => { x with health := .ok, run := 0 }
  | .fail =>
    match x.health with
    | .notReady | .ok => { x with health := .suspect, run := 1 }
    | .suspect | .faulty => { x with health := .faulty, run := 2 }
  | .undecided =>
    match x.health with
    | .notReady | .ok | .suspect => { x with health := .suspect }
    | .faulty => x

/-- The captured baseline (R14). -/
def capturedBaseline (c : Capture) : Int := divRound (c.sum * 256) c.count

/-- The verdict of a capture (R14). -/
def captureVerdict (zLim nLim : Nat) (c : Capture) : Verdict :=
  if (capturedBaseline c).natAbs ≤ zLim * 256 ∧ c.high - c.low ≤ nLim then .pass else .fail

/-- The verdict of a scanner's reference check (R131). -/
def referenceVerdict (rTol : Nat) (ambient : Option Int) (sawOpen : Bool) (g : Gather) : Verdict :=
  match ambient with
  | none => .undecided
  | some a =>
    if sawOpen then .undecided
    else if (divRound g.sum g.count - a).natAbs ≤ rTol then .pass else .fail

/-- A crib channel as the check ends: the captured baseline is installed with its fresh flag and the verdict applied (R9, R14). -/
def installBaseline (zLim nLim : Nat) (x : ChannelState) : ChannelState :=
  match x.capture with
  | some c => applyVerdict (captureVerdict zLim nLim c) { x with baseline := some (capturedBaseline c), fresh := true }
  | none => x

/-- A scanner channel as the check ends (R9, R131). -/
def judgeReference (rTol : Nat) (ambient : Option Int) (sawOpen : Bool) (x : ChannelState) : ChannelState :=
  match x.gather with
  | some g => applyVerdict (referenceVerdict rTol ambient sawOpen g) x
  | none => x

/-- One channel as the check reaches END; an ABSENT channel gets no verdict (R14, R131). -/
def State.endChannel (s : State) (c : Nat) (x : ChannelState) : ChannelState :=
  match channelEntry s.tables c with
  | none => x
  | some e =>
    if s.effHealth c = some .absent then x
    else
      match e.kind with
      | .crib => installBaseline (siteParam s.tables.site 2) (siteParam s.tables.site 3) x
      | .scanner =>
        judgeReference (s.threshold 15) s.ambient
          (openWithin (s.brg.records.get e.rail) (later s.scu.sampleStart Config.capturePeriod) Config.referencePeriod) x
      | .ambient => x

/-- Every verdict is applied and every pending baseline installed (R179). -/
def State.endChannels (s : State) : State :=
  State.equipmentSince s
    (s.onSin fun n => { n with channels := n.channels.zipIdx.map fun (x, c) => s.endChannel c x }).discardPending

/-- The check reaches END and ARMED is entered (R179). -/
def State.endCheck (s : State) : State :=
  let t := s.endChannels.onScu fun u =>
    { u with check := .ended, checkTime := some s.now, settle := none, phaseTimer := none, endTimer := none }
  ((t.raise .checkEnded).startInterval).enterArmed

/-- The settle wait is over: the abort on approach or loop, or phase CAPTURE with its timers (R178, R179). -/
def State.endSettle (s : State) : State :=
  if s.pins.approach then (s.abortCheck .approach).enterArmed
  else if s.lif.locked then
    s.onScu fun u =>
      { u with
        check := .run .capture
        settle := none
        sampleStart := s.now
        phaseTimer := some Config.capturePeriod
        endTimer := some (Config.capturePeriod + Config.referencePeriod + s.holdDelay + Config.longestSampleFrame) }
  else (s.abortCheck .loop).enterArmed

/-- A due check may start: ARMED with the approach input RELEASED (R181). -/
def State.mayCheck (s : State) : Bool := s.scu.site == .armed && !s.pins.approach

/-! ### Lock and its loss (R176, R180, R187, R189, R190, R192) -/

/-- The own frames that a loss of lock discards are the ANS and RPT frames (R189). -/
def keptOwn (l : List OwnFrame) : List OwnFrame := l.filter fun f => f.kind == .evt

/-- The ANS frames that wait (R192). -/
def waitingAnswers (l : List OwnFrame) : Nat := (l.filter fun f => f.kind == .ans).length

/-- A new station whose answer is discarded takes effect without a kept address (R190; notes/assumptions/8.md). -/
def discardedStation (l : Lif) : Nat := (l.own.findSome? fun f => f.newStation).getD l.station

/-- The command in progress after a loss of lock: a read ends, a STOP or a store goes on with its answer lost (R192). -/
def loseProgress (p : InProgress) : Option InProgress :=
  match p.job with
  | .read _ => none
  | .stop | .store => some { p with lost := true }

/-- One answer lost where a report read is ended (R192). -/
def readLost (p : Option InProgress) : Nat := if p.any fun x => (loseProgress x).isNone then 1 else 0

/-- LIF as it enters SEARCH from LOCKED (R187, R189, R190, R192, R199). -/
def loseLock (l : Lif) : Lif :=
  { l with
    locked := false
    rate := .mbit16
    dwell := some Config.searchDwell
    quiet := none
    loopLost := true
    station := discardedStation l
    strip := none
    queue := []
    inProgress := l.inProgress.bind loseProgress
    sending := none
    timWaiting := false
    timTimer := none
    own := keptOwn l.own
    forward := []
    counters :=
      { l.counters with
        loopLosses := bump l.counters.loopLosses
        answersLost := min Config.counterMax
          (l.counters.answersLost + l.queue.length + waitingAnswers l.own + readLost l.inProgress) } }

/-- The loop leaves LOCKED in phase CAPTURE or REFERENCE (R180). -/
def State.checkSampling (s : State) : Bool := s.scu.check == .run .capture || s.scu.check == .run .reference

/-- The loss timer starts in PASSAGE (R176). -/
def State.startLoss (s : State) : State :=
  if s.scu.site = .passage then s.onScu fun u => { u with loss := some Config.lossLimit } else s

/-- The loop is lost (R176, R180, R187). -/
def State.loseLoop (s : State) : State :=
  let t := (s.onLif loseLock).equipmentChanged.startLoss
  if t.checkSampling then (t.abortCheck .loop).enterArmed else t

/-- LIF as a frame brings lock: the quiet timer runs, and the first TIM frame is due (R187, R189). -/
def gainLock (limit : Nat) (l : Lif) : Lif :=
  { l with
    locked := true
    dwell := none
    quiet := some limit
    loopLost := false
    timWaiting := true
    timTimer := some Config.timPeriod }

/-- The loop locks at the rate listened to; after a loss, LOOP_LOST leaves the set and LOOP_RELOCKED is raised (R176, R187). -/
def State.lockLoop (s : State) : State :=
  let t := ((s.onLif (gainLock s.quietLimit)).onScu fun u => { u with loss := none }).transmit
  if s.lif.loopLost then t.equipmentChanged.raise .loopRelocked else t

/-- The next lower rate, 16 Mbit/s after 2 (R187). -/
def nextRate (r : Rate) : Rate :=
  match r with
  | .mbit16 => .mbit8
  | .mbit8 => .mbit4
  | .mbit4 => .mbit2
  | .mbit2 => .mbit16

/-! ### Controller supervision (R198) -/

/-- A valid command frame arrives: the timer restarts, and a lost controller is PRESENT again (R198). -/
def State.hearController (s : State) : State :=
  if s.lif.linkLost then
    ((s.onLif fun l => { l with linkLost := false, supTimer := some s.supervisionLimit }).raise
      .controllerResumed).judgeLines
  else if s.lif.supTimer.isSome then s.onLif fun l => { l with supTimer := some s.supervisionLimit }
  else s

/-- The supervision timer expires (R198). -/
def State.loseController (s : State) : State :=
  (s.onLif fun l => { l with linkLost := true, supTimer := none }).judgeLines

end Sys2Proof.Machine
end

