-- ==== Sys2Proof/Machine/Tracker.lean ====
section
/-! DEFINITION. The Axle Tracker: crossing intake, passage start, filters, counts, speeds, spacings, marks and timers (R23 to R48). -/

namespace Sys2Proof.Machine

/-! ### Crossing intake (R25, R26) -/

/-- Changes the site counters of AXT alone. -/
def State.onAxtCounters (f : AxtCounters → AxtCounters) (s : State) : State :=
  s.onAxt fun x => { x with counters := f x.counters }

/-- Changes the counters of the current passage alone. -/
def State.onPassageCounters (f : PassageCounters → PassageCounters) (s : State) : State :=
  s.onPassage fun p => { p with counters := f p.counters }

/-- The current passage gains TRACKING_SUSPECT; its entry into the fault set raises EQUIPMENT_CHANGED (R35). -/
def State.suspectPassage (s : State) : State :=
  if s.trackingSuspect then s
  else State.equipmentSince s (s.onPassage fun p => { p with flags := { p.flags with suspect := true } })

/-- A crossing arrives to a full queue (R26). -/
def State.overflowCrossing (s : State) : State :=
  let t := s.onAxtCounters fun c => { c with overflow := bump c.overflow }
  match s.scu.site with
  | .passage => t.suspectPassage
  | .closing => t.onAxt fun x => { x with carried := true }
  | .offline | .checking | .armed => t

/-- A crossing is offered to the queue (R25, R26). -/
def State.offerCrossing (c : Crossing) (s : State) : State :=
  if s.axt.queue.length < Config.crossingQueueDepth then s.onAxt fun x => { x with queue := x.queue ++ [c] }
  else s.overflowCrossing

/-- The transducer that a record's code names (R200, crossing record). -/
def transducerOf (code : Nat) : Option Transducer := if code = 0 then none else wtAt (code - 1)

/-- The direction that a record's code names (R200, crossing record). -/
def directionOf (code : Nat) : Option Direction :=
  match code with
  | 1 => some .up
  | 2 => some .down
  | _ => none

/-- Record `i` of a CRS payload, none where it is bad (R25, R200). -/
def crossingAt (payload : List Byte) (now : LoopTime) (i : Nat) : Option Crossing :=
  let at_ := 4 + 8 * i
  (transducerOf (byteAt payload at_)).bind fun w =>
    (directionOf (byteAt payload (at_ + 1))).map fun d => ⟨w, d, timeAt payload (at_ + 4), now⟩

/-- One record of a CRS frame: bad, offline, or offered to the queue (R25). -/
def State.takeRecord (payload : List Byte) (i : Nat) (s : State) : State :=
  match crossingAt payload s.now i with
  | none => s.onAxtCounters fun c => { c with malformed := bump c.malformed }
  | some c =>
    if s.scu.site = .offline then s.onAxtCounters fun x => { x with offline := bump x.offline }
    else s.offerCrossing c

/-- The station of the TRANSDUCER entry of the node table, the lowest-numbered one where an unvalidated table holds two (R25; notes/assumptions/39.md). -/
def transducerStation (t : Tables) : Option Nat :=
  (t.nodes.filterMap id).find? (fun e => e.kind == .transducer) |>.map (·.station)

/-- The records a CRS payload holds whole, up to its record count (R25, R200; notes/assumptions/9.md). -/
def recordCount (payload : List Byte) : Nat := min (byteAt payload 0) ((payload.length - 4) / 8)

/-- AXT takes a CRS frame by its source station (R25). -/
def State.takeCrs (source : Nat) (payload : List Byte) (s : State) : State :=
  if transducerStation s.tables = some source then
    forEach (List.range (recordCount payload)) (State.takeRecord payload) s
  else s.onAxtCounters fun c => { c with source := bump c.source }

/-! ### Counts (R32 to R35) -/

/-- The forward count of a place k = 1..4 (R32). -/
def Counts.at (c : Counts) (k : Nat) : Nat :=
  match k with
  | 1 => c.c1
  | 2 => c.c2
  | 3 => c.c3
  | 4 => c.c4
  | _ => 0

/-- Replaces the forward count of a place. -/
def Counts.put (k v : Nat) (c : Counts) : Counts :=
  match k with
  | 1 => { c with c1 := v }
  | 2 => { c with c2 := v }
  | 3 => { c with c3 := v }
  | 4 => { c with c4 := v }
  | _ => c

/-- What the crossing rule makes of a crossing (R33, R34). -/
inductive Applied where
  | refused
  | forward (axle : Nat)
  | entered (axle : Nat)
  | backward (axle : Nat)
deriving DecidableEq, Repr

/-- The crossing rule for a forward crossing at place `k` (R33). -/
def forwardRule (c : Counts) (total k : Nat) : Applied :=
  if k = 1 then
    if c.c1 < total then .forward (c.c1 + 1)
    else if total < Config.axleTotalMax then .entered (total + 1)
    else .refused
  else if c.at k + 1 ≤ c.at (k - 1) then .forward (c.at k + 1)
  else .refused

/-- The crossing rule for a backward crossing at place `k` (R34). -/
def backwardRule (c : Counts) (k : Nat) : Applied :=
  if c.at k = 0 then .refused
  else if k < 4 ∧ c.at k - 1 < c.at (k + 1) then .refused
  else .backward (c.at k)

/-- The crossing rule (R33, R34). -/
def crossingRule (p : Passage) (x : Crossing) : Applied :=
  let k := entryPlace p.dir x.wt
  if x.dir = p.dir then forwardRule p.counts p.total k else backwardRule p.counts k

/-- The counts and the axle total after a crossing (R33, R34). -/
def countCrossing (a : Applied) (k : Nat) (p : Passage) : Passage :=
  match a with
  | .refused => p
  | .forward _ => { p with counts := p.counts.put k (p.counts.at k + 1) }
  | .entered n => { p with counts := p.counts.put k (p.counts.at k + 1), total := n }
  | .backward _ => { p with counts := p.counts.put k (p.counts.at k - 1) }

/-! ### Axle records and speed (R36 to R39) -/

/-- The record of a new axle: no measurement yet, and final segment 0 until CLOSING writes it (R36, R41; notes/assumptions/40.md). -/
def AxleRecord.created (n : Nat) (x : Crossing) : AxleRecord where
  number := n
  history := [⟨x.wt, x.dir, x.time, none, false⟩]
  reversed := false
  speed := none
  reference := none
  spacing := if n = 1 then .absent else .pending
  marks := []
  finalSegment := 0
  load := PerRail.same none
  impact := PerRail.same none
  bearing := PerRail.same none
  axleLoad := none
  negative := false
  imbalance := none
  loadSettlement := none
  lostWeigh := PerRail.same false
  lostImpact := PerRail.same false
  lostScan := PerRail.same false
  reversedInWindow := false
  vehicle := none
  lostWindows := []

/-- A new axle gets a record, or sets TRUNCATED past 1,024 (R36, R37). -/
def createAxle (n : Nat) (x : Crossing) (p : Passage) : Passage :=
  if n ≤ Config.axleRecords then { p with axles := p.axles ++ [AxleRecord.created n x] }
  else { p with flags := { p.flags with truncated := true } }

/-- The speed of a run of `d` mm in `t` µs: held at 65,535, absent below the creep limit, as every negative quotient is (R39). -/
def speedOf (d : Nat) (t : Int) : Option Nat :=
  if t < 0 then none
  else
    let v := if t = 0 then 65535 else min 65535 (divRoundNat (d * 1000000) t.toNat)
    if v < Config.creepLimit then none else some v

/-- The speed from a crossing onward, beside the axle's previous applied crossing (R39). -/
def crossingSpeed (g : Tables) (previous : Option HistEntry) (x : Crossing) : Option Nat :=
  match previous with
  | none => none
  | some e =>
    if e.dir = x.dir ∧ wtNext e.wt x.dir = some x.wt then
      speedOf (wtPosition g x.wt - wtPosition g e.wt).natAbs (timeDiff x.time e.time)
    else none

/-- A crossing joins the history, the older of two leaving (R38). -/
def joinCrossing (e : HistEntry) (h : List HistEntry) : List HistEntry := (h ++ [e]).drop (h.length - 1)

/-- An applied crossing of an axle with a record (R38, R39). -/
def recordCrossing (e : HistEntry) (backward : Bool) (a : AxleRecord) : AxleRecord :=
  { a with history := joinCrossing e a.history, reversed := a.reversed || backward }

/-! ### Spacing (R42) -/

/-- The spacing behind an axle's predecessor, from the span between their crossings of the reference transducer (R42; notes/assumptions/27.md). -/
def spacingBetween (a b : AxleRecord) : Spacing :=
  match a.reference, b.reference, a.speed, b.speed with
  | some ra, some rb, some va, some vb =>
    let span := ra.age - rb.age
    if (Config.recordAge : Int) ≤ span then .value 65535
    else .value (min 65535 (divRoundNat ((va + vb) * span.toNat) 2000000))
  | _, _, _, _ => .absent

/-- The axle's first applied forward crossing of the reference transducer sets its axle speed, which, present or absent, becomes the live last axle speed with its fresh flag set (R39). -/
def State.setAxleSpeed (i : Nat) (t : LoopTime) (v : Option Nat) (s : State) : State :=
  (s.onAxle i fun x => { x with reference := some ⟨t, timeDiff s.now t⟩, speed := v }).onAxt fun x =>
    { x with lastSpeed := v, lastSpeedFresh := true }

/-- AXT resolves a PENDING spacing, and the segmenter makes an attempt (R42, R89). -/
def State.resolveSpacing (i : Nat) (s : State) : State :=
  match s.axle (i - 1), s.axle i with
  | some a, some b =>
    if b.spacing = .pending then
      (s.onAxle i fun x => { x with spacing := spacingBetween a b }).segmentAttempt false
    else s
  | _, _ => s

/-- The part of a crossing at the reference transducer: the first forward one sets speed and spacing (R39, R42). -/
def State.referenceCrossing (i : Nat) (e : HistEntry) (s : State) : State :=
  match s.passage, s.axle i with
  | some p, some a =>
    if e.dir = p.dir ∧ entryPlace p.dir e.wt = 2 ∧ a.reference.isNone then
      (s.setAxleSpeed i e.time e.speed).resolveSpacing i
    else s
  | _, _ => s

/-! ### Marks (R45 to R47) -/

/-- A bound of a MARK window with its position (R45). -/
structure MarkBound where
  window : Nat
  bound : Bound
  position : Int
deriving DecidableEq, Repr

/-- The bounds of a window whose flags are set, NEAR before FAR (R45, R51). -/
def markBounds (entry : Direction) (x : Nat × Window) : List MarkBound :=
  let near := match entry with
    | .up => x.2.lower
    | .down => x.2.upper
  let far := match entry with
    | .up => x.2.upper
    | .down => x.2.lower
  if x.2.kind = .mark then
    (if x.2.nearMark then [⟨x.1, .near, near⟩] else []) ++ (if x.2.farMark then [⟨x.1, .far, far⟩] else [])
  else []

/-- A mark to enter, with the time from its crossing (R45). -/
structure NewMark where
  window : Nat
  bound : Bound
  delay : Nat
deriving DecidableEq, Repr

/-- The mark of a bound from a crossing, if the bound lies ahead and within reach (R45). -/
def markFrom (g : Tables) (e : HistEntry) (v : Nat) (b : MarkBound) : Option NewMark :=
  let ahead := b.position - wtPosition g e.wt
  if 0 ≤ dirSign e.dir * ahead ∧ (ahead.natAbs : Int) ≤ reach g e.wt e.dir then
    some ⟨b.window, b.bound, divRoundNat (ahead.natAbs * 1000000) v⟩
  else none

/-- A mark placed in increasing order of time, after those of equal time (R46). -/
def insertNew (m : NewMark) (l : List NewMark) : List NewMark :=
  match l with
  | [] => [m]
  | x :: rest => if m.delay < x.delay then m :: l else x :: insertNew m rest

/-- The marks of one crossing in the order of R46. -/
def sortMarks (l : List NewMark) : List NewMark := l.foldl (fun acc m => insertNew m acc) []

/-- A mark placed in the schedule in order of mark time, after those of equal time (R46). -/
def insertMark (m : MarkEntry) (l : List MarkEntry) : List MarkEntry :=
  match l with
  | [] => [m]
  | x :: rest => if earlier m.time x.time then m :: l else x :: insertMark m rest

/-- A taken mark joins the axle's mark list or replaces its entry's time (R47). -/
def noteMark (m : MarkEntry) (l : List MarkRecord) : List MarkRecord :=
  if l.any fun x => x.window == m.window && x.bound == m.bound then
    l.map fun x => if x.window = m.window ∧ x.bound = m.bound then { x with time := m.time } else x
  else l ++ [⟨m.window, m.bound, m.time⟩]

/-- AXT takes the head mark: it is recorded and handed to AOU (R47). -/
def State.takeMark (s : State) : State :=
  match s.passage with
  | none => s
  | some p =>
    match p.marks with
    | [] => s
    | m :: rest =>
      ((s.onPassage fun q => { q with marks := rest }).onAxle m.axle fun a => { a with marks := noteMark m a.marks }).pulseLines
        m.window

/-- The head mark's time has been reached (R47). -/
def State.markDue (s : State) : Bool :=
  match s.passage with
  | none => false
  | some p =>
    match p.marks with
    | [] => false
    | m :: _ => reached s.now m.time

/-- Every mark already reached is taken in schedule order (R47). -/
def State.takeDueMarks (fuel : Nat) (s : State) : State :=
  match fuel with
  | 0 => s
  | n + 1 => if s.markDue then s.takeMark.takeDueMarks n else s

/-- A mark is entered in the schedule or lost to a full one; one already reached is taken at once (R46, R47). -/
def State.enterMark (axle : Nat) (t : LoopTime) (m : NewMark) (s : State) : State :=
  match s.passage with
  | none => s
  | some p =>
    if p.marks.length < Config.markScheduleDepth then
      (s.onPassage fun q =>
        { q with marks := insertMark ⟨axle, m.window, m.bound, later t m.delay⟩ q.marks }).takeDueMarks
        (p.marks.length + 1)
    else s.onPassageCounters fun c => { c with lostMarks := bump c.lostMarks }

/-- The axle's pending marks are removed, and a forward crossing with a speed schedules new ones (R38, R45, R46). -/
def State.scheduleMarks (axle : Nat) (e : HistEntry) (s : State) : State :=
  match s.passage with
  | none => s
  | some p =>
    let t := s.onPassage fun q => { q with marks := q.marks.filter fun m => m.axle ≠ axle }
    match forwardSpeed p.dir e with
    | none => t
    | some v =>
      let bounds := s.windows.flatMap (markBounds p.dir)
      forEach (sortMarks (bounds.filterMap (markFrom s.tables e v))) (State.enterMark axle e.time) t

/-! ### Applying a crossing (R33 to R39, R42, R45) -/

/-- A refused crossing (R35). -/
def State.refuseCrossing (s : State) : State :=
  (s.onPassageCounters fun c => { c with sequence := bump c.sequence }).suspectPassage

/-- The counts change, and the live counts are fresh (R32 to R34). -/
def State.count (a : Applied) (k : Nat) (s : State) : State :=
  (s.onPassage (countCrossing a k)).onAxt fun x => { x with countsFresh := true }

/-- The crossing of an axle with a record is handed to WIN, and its marks are scheduled (R38). -/
def State.handOn (i : Nat) (e : HistEntry) (s : State) : State := (s.winCrossing i e).scheduleMarks i e

/-- The history entry of a crossing that has been applied (R38, R39). -/
def State.entryFor (s : State) (i : Nat) (x : Crossing) : HistEntry :=
  ⟨x.wt, x.dir, x.time, crossingSpeed s.tables ((s.axle i).bind fun a => a.history.getLast?) x, false⟩

/-- An applied crossing of axle `i`, whose counts have changed (R38, R39, R42, R45). -/
def State.moveAxle (i : Nat) (x : Crossing) (backward : Bool) (s : State) : State :=
  match s.axle i with
  | none => s
  | some _ =>
    let e := s.entryFor i x
    ((s.onAxle i (recordCrossing e backward)).referenceCrossing i e).handOn i e

/-- A crossing that has passed both filters meets the crossing rule (R33 to R35). -/
def State.applyCrossing (x : Crossing) (s : State) : State :=
  match s.passage with
  | none => s
  | some p =>
    let k := entryPlace p.dir x.wt
    let a := crossingRule p x
    match a with
    | .refused => s.refuseCrossing
    | .entered n => (s.count a k).onPassage (createAxle n x)
    | .forward i => (s.count a k).moveAxle i x false
    | .backward i => (s.count a k).moveAxle i x true

/-! ### Filters and timers (R25, R30, R31, R43, R44) -/

/-- A crossing is late: its arrival exceeds its own time by more than D_hold (R25). -/
def State.lateCrossing (s : State) (x : Crossing) : Bool :=
  decide ((s.holdDelay : Int) < timeDiff x.arrival x.time)

/-- The late crossing counter of the passage (R25). -/
def State.countLate (x : Crossing) (s : State) : State :=
  if s.lateCrossing x then s.onPassageCounters fun c => { c with late := bump c.late } else s

/-- The time-order record takes a time (R30). -/
def State.noteOrder (t : LoopTime) (s : State) : State := s.onPassage fun p => { p with timeOrder := some t }

/-- The double-pulse record of a transducer and direction (R31). -/
def pulseRecord (p : Passage) (w : Transducer) (d : Direction) : Option LoopTime := (p.doublePulse.get w).get d

/-- Replaces a double-pulse record (R31). -/
def setPulseRecord (w : Transducer) (d : Direction) (t : Option LoopTime) (p : Passage) : Passage :=
  { p with doublePulse := p.doublePulse.set w ((p.doublePulse.get w).set d t) }

/-- A crossing fails the time-order filter (R30). -/
def failsOrder (p : Passage) (x : Crossing) : Bool := p.timeOrder.any fun t => earlier x.time t

/-- A crossing is a double pulse (R31). -/
def isDoublePulse (tdp : Nat) (p : Passage) (x : Crossing) : Bool :=
  (pulseRecord p x.wt x.dir).any fun t => decide (timeDiff x.time t < tdp)

/-- A crossing passes both filters: their records take its time (R30, R31). -/
def State.passFilters (x : Crossing) (s : State) : State :=
  (s.noteOrder x.time).onPassage (setPulseRecord x.wt x.dir (some x.time))

/-- A crossing meets the filters and, past them, the crossing rule (R30, R31). -/
def State.filterCrossing (x : Crossing) (s : State) : State :=
  match s.passage with
  | none => s
  | some p =>
    if failsOrder p x then s.refuseCrossing
    else if isDoublePulse (s.commit.tdp.getD 0) p x then
      (s.noteOrder x.time).onPassageCounters fun c => { c with doublePulses := bump c.doublePulses }
    else (s.passFilters x).applyCrossing x

/-- The end-condition timers after a crossing taken in PASSAGE (R43, R44). -/
def endTimers (standing clear : Nat) (p : Passage) : Passage :=
  { p with
    standing := if p.counts.c4 < p.counts.c1 then some standing else none
    clear := if p.counts.c1 = p.counts.c4 then some clear else none }

/-- A crossing taken in PASSAGE (R25, R30 to R35, R43, R44). -/
def State.trackCrossing (x : Crossing) (s : State) : State :=
  let t := (s.countLate x).filterCrossing x
  t.onPassage (endTimers t.standingTime t.clearHold)

/-! ### Passage start (R27, R28, R120, R122, R135) -/

/-- The passage context as it is set up (R28). -/
def Passage.begun (number : Nat) (x : Crossing) (suspect : Bool) : Passage where
  number := number
  startTime := x.time
  endTime := none
  disposition := none
  dir := x.dir
  counts := ⟨0, 0, 0, 0⟩
  total := 0
  axles := []
  flags := ⟨suspect, false, false, false, false, false⟩
  counters := ⟨0, 0, 0, 0, 0, 0, 0, 0⟩
  timeOrder := none
  doublePulse := ⟨⟨none, none⟩, ⟨none, none⟩, ⟨none, none⟩, ⟨none, none⟩⟩
  standing := none
  clear := none
  marks := []
  contexts := []
  segmentStart := 1
  vehicles := []
  vehicleCount := 0
  ambient := none
  notOpen := PerRail.same false
  slot := none

/-- The next-passage number after one is used: it wraps from 4,294,967,295 to 1 (R28). -/
def numberAfter (n : Nat) : Nat := if n < Config.countMax then n + 1 else 1

/-- The passage context and the alarm list are set up for a new passage (R28, R135). -/
def State.openPassage (x : Crossing) (s : State) : State :=
  let n := s.axt.nextPassage
  { s with
    passage := some (Passage.begun n x s.axt.carried)
    axt := { s.axt with nextPassage := numberAfter n, carried := false }
    aou := { s.aou with alarms := { AlarmList.reset with passage := some n } } }

/-- A CRIB channel in the table has recorded health NOT_READY (R8). -/
def State.anyNotReady (s : State) : Bool :=
  (List.range 32).any fun c =>
    (channelEntry s.tables c).any (fun e => e.kind == .crib) && (s.channel c).health == .notReady

/-- BRG and SIN mark the new passage: frozen ambient, not-open marks, NOT_READY channels (R8, R120, R122). -/
def State.markPassage (s : State) : State :=
  s.onPassage fun p =>
    { p with
      ambient := s.ambient
      notOpen := s.brg.faults.map fun f => f == some .fromOpen
      flags := { p.flags with notReady := s.anyNotReady } }

/-- The loss timer starts with a passage if the loop is not LOCKED (R176). -/
def State.lossAtStart (s : State) : State := if s.lif.locked then s else s.startLoss

/-- A passage starts with a crossing that met the start condition (R28, R43, R117, R151). -/
def State.startPassage (x : Crossing) (s : State) : State :=
  let a := State.equipmentSince s (s.openPassage x)
  let b := ((a.countLate x).passFilters x).applyCrossing x
  let c := ((b.changeSite .passage).lossAtStart).markPassage
  let d := (c.openShutters.takeSlot s.axt.nextPassage).onPassage (endTimers s.standingTime s.clearHold)
  d.judgeLines

/-- A crossing meets the start condition (R27). -/
def startsPassage (x : Crossing) : Bool := (x.wt == .wt1 && x.dir == .up) || (x.wt == .wt4 && x.dir == .down)

/-- A stray crossing; the carried mark goes as the queue becomes empty in ARMED (R26, R27). -/
def State.strayCrossing (s : State) : State :=
  let t := s.onAxtCounters fun c => { c with stray := bump c.stray }
  if t.scu.site = .armed ∧ t.axt.queue.isEmpty then t.onAxt fun x => { x with carried := false } else t

/-- AXT takes a crossing under the rules of the site state (R26, R27, R180). -/
def State.takeCrossing (x : Crossing) (s : State) : State :=
  match s.scu.site with
  | .armed => if startsPassage x then s.startPassage x else s.strayCrossing
  | .checking => if startsPassage x then (s.abortCheck .train).startPassage x else s.strayCrossing
  | .passage => s.trackCrossing x
  | .offline => s.onAxtCounters fun c => { c with offline := bump c.offline }
  | .closing => s

/-- AXT takes the head crossing; in CLOSING crossings stay (R26). -/
def State.takeHeadCrossing (s : State) : State :=
  match s.axt.queue with
  | [] => s
  | x :: rest =>
    if s.scu.site = .closing then s else (s.onAxt fun a => { a with queue := rest }).takeCrossing x

end Sys2Proof.Machine
end

