-- ==== Sys2Proof/Machine/Closing.lean ====
section
/-! DEFINITION. The end of a passage and CLOSING: its entry, its steps and its exit (R41, R44, R61, R118, R143, R155, R174, R176, R177). -/

namespace Sys2Proof.Machine

/-! ### The end of a passage (R41, R44, R46, R61, R176) -/

/-- The segment of an axle: the number of places it has crossed (R41). -/
def segmentOf (c : Counts) (i : Nat) : Nat := ([1, 2, 3, 4].filter fun k => i ≤ c.at k).length

/-- The passage as it ends: time and disposition set, timers stopped, final segments written, schedule and contexts emptied (R41, R44, R46, R61). -/
def endedPassage (now : LoopTime) (d : Disposition) (p : Passage) : Passage :=
  { p with
    endTime := some now
    disposition := some d
    standing := none
    clear := none
    marks := []
    contexts := []
    axles := p.axles.map fun a => { a with finalSegment := segmentOf p.counts a.number } }

/-- The passage ends and CLOSING is entered, with its step 0 (R44, R118, R177). -/
def State.endPassage (d : Disposition) (s : State) : State :=
  (((s.onPassage (endedPassage s.now d)).changeSite .closing).closeWaitClosing).judgeLines

/-- The disposition at the expiry of the clear hold (R44). -/
def clearDisposition (p : Passage) : Disposition :=
  if p.counts.c4 = p.total then .complete else if p.counts.c4 = 0 then .withdrawn else .split

/-! ### The steps of CLOSING (R177) -/

/-- Steps 1 to 5 of CLOSING in turn: outlier check, tail segmentation, finalising, closing evaluation, sealing (R177). -/
def State.closingWork (s : State) : State :=
  ((((s.outlierCheck).segmentAttempt true).finalise).closingEvaluation).sealPassage

/-- The passage's counts and total are all 0 already (R32). -/
def noCounts (p : Passage) : Bool := p.counts == ⟨0, 0, 0, 0⟩ && p.total == 0

/-- The passage context is cleared; its number stays as that of the latest passage that ended (R32, R48, R165). -/
def State.clearPassage (s : State) : State :=
  match s.passage with
  | none => s
  | some p =>
    { s with
      passage := none
      rps := { s.rps with lastPassage := p.number }
      axt := { s.axt with countsFresh := s.axt.countsFresh || !noCounts p } }

/-- A STOP is in progress (R174, R177). -/
def State.stopping (s : State) : Bool := s.lif.inProgress.any fun p => p.job == .stop

/-- The command code of STOP (R200). -/
def stopCode : Nat := 7

/-- CLOSING ends into ARMED: hold timers start, the context goes, the lines are judged (R143, R177). -/
def State.closeToArmed (s : State) : State :=
  State.equipmentSince s (s.clearPassage.holdLines.enterArmed)

/-- CLOSING ends into OFFLINE after a STOP, which is answered DONE at that entry (R174, R177). -/
def State.closeToOffline (s : State) : State :=
  (State.equipmentSince s s.clearPassage.enterOffline).answerProgress stopCode .done []

/-- CLOSING runs its steps and ends (R177). -/
def State.runClosing (s : State) : State :=
  let t := s.closingWork
  if t.stopping then t.closeToOffline else t.closeToArmed

end Sys2Proof.Machine
end

