-- ==== Sys2Proof/Machine/Tables.lean ====
section
/-! DEFINITION. Tables over the loop: the entry layouts, clamps and codes of every table, WRITE_TABLE's effects and READ_TABLE's content (R5, R7, R8, R15, R23, R49, R68, R85, R133, R141, R193 to R195, R200). -/

namespace Sys2Proof.Machine

/-! ### Fields that are clamped (R193) -/

/-- A value as it is written, with whether any of its fields was clamped (R193). -/
structure Written (α : Type) where
  value : α
  clamped : Bool
deriving DecidableEq, Repr

/-- A natural clamped to its range (R3, R193). -/
def writtenNat (lo hi v : Nat) : Written Nat := ⟨clampNat lo hi v, decide (v < lo) || decide (hi < v)⟩

/-- An integer clamped to its range (R3, R193). -/
def writtenInt (lo hi v : Int) : Written Int := ⟨clampInt lo hi v, decide (v < lo) || decide (hi < v)⟩

/-- An unsigned numeric field clamped to its range. -/
def takeNat (lo hi : Nat) : Field (Written Nat) := fun l => (take4 l).map fun (v, r) => (writtenNat lo hi v, r)

/-- A signed numeric field clamped to its range. -/
def takeInt (lo hi : Int) : Field (Written Int) := fun l => (take4s l).map fun (v, r) => (writtenInt lo hi v, r)

/-- A set of flags as its number. -/
def takeSet : Field Nat := take4

/-- A field followed by the fields that depend on it. -/
def andThen {α β : Type} (f : Field α) (g : α → Field β) : Field β := fun l =>
  (f l).bind fun (a, r) => g a r

/-- A field that reads no octet. -/
def pureField {α : Type} (a : α) : Field α := fun l => some (a, l)

/-- A field refused where its value is not allowed. -/
def onlyIf {α : Type} (ok : α → Bool) (f : Field α) : Field α := fun l =>
  (f l).bind fun (a, r) => if ok a then some (a, r) else none

/-! ### Entries as they arrive (R200) -/

/-- An entry with a used flag: a clear flag stands alone and makes the entry unused (R193; notes/assumptions/12.md). -/
def usedEntry {α : Type} (f : Field (Written α)) : Field (Written (Option α)) :=
  andThen takeFlag fun used =>
    if used then andThen f fun w => pureField ⟨some w.value, w.clamped⟩ else pureField ⟨none, false⟩

/-- An entry of a table that ignores its used flag (R193). -/
def setEntry {α : Type} (f : Field α) : Field α := andThen takeFlag fun _ => f

/-- The node kinds in order (R5). -/
def nodeKinds : List NodeKind := [.cribDigitizer, .scannerDigitizer, .transducer]
/-- The channel kinds in order (R7). -/
def channelKinds : List ChannelKind := [.crib, .scanner, .ambient]
/-- The rails in order. -/
def rails : List Rail := [.left, .right]
/-- The window kinds in order (R49). -/
def windowKinds : List WindowKind := [.weigh, .impact, .scan, .mark]
/-- The output modes in order (R141). -/
def outputModes : List OutputMode := [.steady, .envelope, .pulse]

/-- A node entry (R5). -/
def takeNode : Field (Written NodeEntry) :=
  andThen (takeNat 1 126) fun station =>
  andThen (takeCode nodeKinds) fun kind =>
  andThen (takeNat 1 8) fun count =>
  pureField ⟨⟨station.value, kind, count.value⟩, station.clamped || count.clamped⟩

/-- A channel entry; an index beyond the node's channels is written as it stands and left to check 4 of START (R7, R173; notes/assumptions/20.md). -/
def takeChannel : Field (Written ChannelEntry) :=
  andThen (takeOption (takeNat 1 12)) fun node =>
  andThen take4 fun index =>
  andThen (takeCode channelKinds) fun kind =>
  andThen (takeCode rails) fun rail =>
  andThen (takeInt (-30000) 30000) fun low =>
  andThen (takeInt (-30000) 30000) fun high =>
  andThen (takeNat 0 65535) fun gain =>
  andThen (takeNat 4 12) fun shift =>
  andThen (takeNat 0 3) fun conv =>
  pureField
    ⟨⟨node.map (·.value), index, kind, rail, low.value, high.value, gain.value, shift.value, conv.value⟩,
     node.any (·.clamped) || low.clamped || high.clamped || gain.clamped || shift.clamped
       || conv.clamped⟩

/-- A point of a conversion table (R15). -/
def takePoint : Field (Written ConvPoint) :=
  andThen take4s fun input =>
  andThen (takeInt (-500) 2500) fun output =>
  pureField ⟨⟨input, output.value⟩, output.clamped⟩

/-- A window entry: a channel number outside 0..31 or a list longer than 12 is refused (R49). -/
def takeWindow : Field (Written Window) :=
  andThen (takeInt (-30000) 30000) fun lower =>
  andThen (takeInt (-30000) 30000) fun upper =>
  andThen (takeCode windowKinds) fun kind =>
  andThen (takeCode rails) fun rail =>
  andThen (onlyIf (fun l => decide (l.length ≤ 12) && l.all fun c => decide (c ≤ 31)) (takeList take4)) fun channels =>
  andThen takeFlag fun near =>
  andThen takeFlag fun far =>
  pureField ⟨⟨lower.value, upper.value, kind, rail, channels, near, far⟩, lower.clamped || upper.clamped⟩

/-- A speed correction point (R68). -/
def takeSpeedPoint : Field (Written SpeedPoint) :=
  andThen (takeNat 0 65535) fun speed =>
  andThen (takeNat 16384 49152) fun factor =>
  pureField ⟨⟨speed.value, factor.value⟩, speed.clamped || factor.clamped⟩

/-- A vehicle type entry (R85). -/
def takeVehicle : Field (Written VehicleType) :=
  andThen (takeNat 1 250) fun code =>
  andThen (takeNat 2 8) fun axles =>
  andThen (takeMany (takeNat 500 30000) 7) fun spacings =>
  andThen (takeNat 0 2000) fun tolerance =>
  andThen (takeNat 0 60000) fun gap =>
  andThen take4 fun gross =>
  pureField
    ⟨⟨code.value, axles.value, spacings.map (·.value), tolerance.value, gap.value, gross⟩,
     code.clamped || axles.clamped || spacings.any (·.clamped) || tolerance.clamped || gap.clamped⟩

/-- A class set of six flags; the bits beyond are dropped (R141, R193; notes/assumptions/44.md). -/
def classSetOf (v : Nat) : ClassSet := ⟨flagOf v 0, flagOf v 1, flagOf v 2, flagOf v 3, flagOf v 4, flagOf v 5⟩

/-- An envelope set of three flags; the bits beyond are dropped (R141, R193; notes/assumptions/44.md). -/
def envelopeSetOf (v : Nat) : EnvelopeSet := ⟨flagOf v 0, flagOf v 1, flagOf v 2⟩

/-- A pulse window 1..12, or none (R141). -/
def pulseWindowOk (w : Option Nat) : Bool := w.all fun n => decide (1 ≤ n) && decide (n ≤ 12)

/-- An output entry: a pulse window outside 1..12 is refused (R141); bits beyond the members of its two sets are dropped (R193; notes/assumptions/44.md). -/
def takeOutput : Field (Written OutputEntry) :=
  andThen takeSet fun classes =>
  andThen (takeCode outputModes) fun mode =>
  andThen takeSet fun envelope =>
  andThen takeFlag fun latched =>
  andThen (takeNat 0 600) fun hold =>
  andThen (onlyIf pulseWindowOk (takeOption take4)) fun window =>
  andThen (takeNat 1 50) fun length =>
  pureField
    ⟨⟨classSetOf classes, mode, envelopeSetOf envelope, latched, hold.value, window, length.value⟩,
     hold.clamped || length.clamped⟩

/-- A value that takes one of two: the first below a bound, the second from it on (R165, R194). -/
def writtenChoice (bound low high v : Nat) : Written Nat :=
  ⟨if v < bound then low else high, v != low && v != high⟩

/-- Site parameter `n` as it is written (R194). -/
def writtenSite (n v : Nat) : Written Nat :=
  let r := Config.siteLimits.getD (n - 1) ⟨0, 0, 0⟩
  match n with
  | 14 => writtenChoice 51 2 100 v
  | 17 => writtenChoice 1 0 1 v
  | 18 => writtenChoice 55 10 100 v
  | _ => writtenNat r.low r.high v

/-- Threshold `n` as it is written (R133). -/
def writtenThreshold (n v : Nat) : Written Nat :=
  let r := Config.thresholdLimits.getD (n - 1) ⟨0, 0, 0⟩
  writtenNat r.low r.high v

/-! ### Entry numbers (R193) -/

/-- The first entry number of a table and the number past its last (R193). -/
structure EntryRange where
  low : Nat
  past : Nat
deriving DecidableEq, Repr

/-- The entries of a table by its identifier 1..14 (R193). -/
def entryRange (table : Nat) : Option EntryRange :=
  match table with
  | 1 => some ⟨1, 21⟩
  | 2 => some ⟨1, 5⟩
  | 3 => some ⟨1, 13⟩
  | 4 => some ⟨0, 32⟩
  | 5 | 6 | 7 | 8 => some ⟨1, 18⟩
  | 9 | 10 => some ⟨1, 13⟩
  | 11 => some ⟨1, 10⟩
  | 12 => some ⟨1, 25⟩
  | 13 => some ⟨1, 16⟩
  | 14 => some ⟨1, 5⟩
  | _ => none

/-- A count of at least 1 whose entries all lie inside the table (R193, step 3). -/
def entriesFit (r : EntryRange) (first count : Nat) : Bool :=
  decide (1 ≤ count) && decide (r.low ≤ first) && decide (first + count ≤ r.past)

/-- A table may be written in a site state (R193, step 2). -/
def writable (table : Nat) (x : SiteState) : Bool :=
  x == .offline || ((table == 13 || table == 14) && x == .armed)

/-! ### Writing (R193) -/

/-- Replaces the members of a list from a place on. -/
def replaceFrom {α : Type} (i : Nat) (new l : List α) : List α := l.take i ++ new ++ l.drop (i + new.length)

/-- Some member was clamped. -/
def anyClamped {α : Type} (l : List (Written α)) : Bool := l.any (·.clamped)

/-- The values of written members. -/
def values {α : Type} (l : List (Written α)) : List α := l.map (·.value)

/-- The entries of an argument, all of one form and none left over (R192, R193). -/
def entriesOf {α : Type} (f : Field α) (count : Nat) (bytes : List Byte) : Option (List α) := whole (takeMany f count) bytes

/-- Numbered entries as they are written. -/
def numbered {α β : Type} (first : Nat) (f : Nat → α → β) (l : List α) : List β :=
  (l.zipIdx first).map fun (v, n) => f n v

/-- The tables after a write at place `i`, with whether a field was clamped. -/
def wroteAt {α : Type} (put : List α → Tables) (old : List α) (i : Nat) (l : List (Written α)) : Written Tables :=
  ⟨put (replaceFrom i (values l) old), anyClamped l⟩

/-- Conversion table `k` after a write. -/
def writeConv (t : Tables) (k i : Nat) (l : List (Written (Option ConvPoint))) : Written Tables :=
  wroteAt (fun x => { t with conv := t.conv.set k x }) (t.conv.getD k []) i l

/-- The tables after a write of `count` entries of a table from entry `first`; none where step 4 of R193 refuses an entry. -/
def writeEntries (t : Tables) (table first count : Nat) (bytes : List Byte) : Option (Written Tables) :=
  let i := first - 1
  match table with
  | 1 => (entriesOf (setEntry take4) count bytes).map fun l =>
      wroteAt (fun x => { t with site := x }) t.site i (numbered first writtenSite l)
  | 2 => (entriesOf (setEntry (takeInt (-30000) 30000)) count bytes).map fun l =>
      wroteAt (fun x => { t with geometry := x }) t.geometry i (l.map fun w => ⟨some w.value, w.clamped⟩)
  | 3 => (entriesOf (usedEntry takeNode) count bytes).map (wroteAt (fun x => { t with nodes := x }) t.nodes i)
  | 4 => (entriesOf (usedEntry takeChannel) count bytes).map
      (wroteAt (fun x => { t with channels := x }) t.channels first)
  | 5 => (entriesOf (usedEntry takePoint) count bytes).map (writeConv t 0 i)
  | 6 => (entriesOf (usedEntry takePoint) count bytes).map (writeConv t 1 i)
  | 7 => (entriesOf (usedEntry takePoint) count bytes).map (writeConv t 2 i)
  | 8 => (entriesOf (usedEntry takePoint) count bytes).map (writeConv t 3 i)
  | 9 => (entriesOf (usedEntry takeWindow) count bytes).map (wroteAt (fun x => { t with zoneU := x }) t.zoneU i)
  | 10 => (entriesOf (usedEntry takeWindow) count bytes).map (wroteAt (fun x => { t with zoneD := x }) t.zoneD i)
  | 11 => (entriesOf (usedEntry takeSpeedPoint) count bytes).map (wroteAt (fun x => { t with speed := x }) t.speed i)
  | 12 => (entriesOf (usedEntry takeVehicle) count bytes).map (wroteAt (fun x => { t with vehicle := x }) t.vehicle i)
  | 13 => (entriesOf (setEntry take4) count bytes).map fun l =>
      wroteAt (fun x => { t with threshold := x }) t.threshold i (numbered first writtenThreshold l)
  | 14 => (entriesOf (setEntry takeOutput) count bytes).map (wroteAt (fun x => { t with output := x }) t.output i)
  | _ => none

/-- The recorded health that POWER_ON gives a channel entry (R8). -/
def initialHealth (e : Option ChannelEntry) : Health :=
  match e with
  | some x =>
    match x.kind with
    | .crib => .notReady
    | .scanner | .ambient => .ok
  | none => .ok

/-- A written channel entry resets its channel as POWER_ON does (R8). -/
def State.resetChannel (c : Nat) (s : State) : State :=
  s.onChannel c fun _ => ChannelState.reset (initialHealth (channelEntry s.tables c))

/-- A written node entry empties the node's order record (R11). -/
def State.resetOrder (n : Nat) (s : State) : State := s.onNode n fun x => { x with order := none }

/-- A written output entry restarts its line's envelope phase; a running pulse runs on (R141, R145; notes/assumptions/42.md). -/
def State.restartPhase (n : Nat) (s : State) : State :=
  match allLines[n - 1]? with
  | some l => s.onLine l fun x => { x with phase := 0 }
  | none => s

/-- The further effects of a write (R8, R11, R141, R145, R193). -/
def State.afterWrite (table first count : Nat) (s : State) : State :=
  let entries := List.range' first count
  match table with
  | 3 => forEach entries State.resetOrder s
  | 4 => forEach entries State.resetChannel s
  | 14 => forEach entries State.restartPhase s
  | _ => s

/-- The tables take what was written; the table's INVALID mark goes (R172, R193). -/
def State.putTables (table : Nat) (t : Tables) (s : State) : State :=
  { s with tables := t, invalid := s.invalid.set (table - 1) false }

/-- A write with its further effects, the lines re-judged (R141, R193). -/
def State.write (table first count : Nat) (t : Tables) (s : State) : State :=
  State.equipmentSince s ((s.putTables table t).afterWrite table first count).judgeLines

/-! ### Reading (R195, R200) -/

/-- An entry with its used flag (R200; notes/assumptions/12.md). -/
def putEntry {α : Type} (f : α → List Byte) (x : Option α) : List Byte :=
  match x with
  | none => [0]
  | some a => 1 :: f a

/-- A node entry, without the sample period that its kind fixes (R5, R195; notes/assumptions/10.md). -/
def putNode (e : NodeEntry) : List Byte := put4 e.station ++ putCode (nodeKindCode e.kind) ++ put4 e.channelCount

/-- A channel entry. -/
def putChannel (e : ChannelEntry) : List Byte :=
  putOption put4 e.node ++ put4 e.index ++ putCode (channelKindCode e.kind) ++ putCode (railCode e.rail)
  ++ put4s e.platLow ++ put4s e.platHigh ++ put4 e.gain ++ put4 e.shift ++ put4 e.conv

/-- A conversion point. -/
def putPoint (p : ConvPoint) : List Byte := put4s p.input ++ put4s p.output

/-- A window entry. -/
def putWindow (w : Window) : List Byte :=
  put4s w.lower ++ put4s w.upper ++ putCode (windowKindCode w.kind) ++ putCode (railCode w.rail)
  ++ putList put4 w.channels ++ putFlag w.nearMark ++ putFlag w.farMark

/-- A speed correction point. -/
def putSpeedPoint (p : SpeedPoint) : List Byte := put4 p.speed ++ put4 p.factor

/-- A vehicle type entry. -/
def putVehicle (v : VehicleType) : List Byte :=
  put4 v.code ++ put4 v.axles ++ v.spacings.flatMap put4 ++ put4 v.tolerance ++ put4 v.gap ++ put4 v.maxGross

/-- A class set. -/
def putClasses (c : ClassSet) : List Byte :=
  putSet [c.critical, c.alarm, c.watch, c.equipment, c.presence, c.link]

/-- An output entry. -/
def putOutput (e : OutputEntry) : List Byte :=
  putClasses e.classes ++ putCode (modeCode e.mode) ++ putSet [e.envelope.hz1, e.envelope.hz2, e.envelope.hz4]
  ++ putFlag e.latched ++ put4 e.hold ++ putOption put4 e.pulseWindow ++ put4 e.pulseLength

/-- The octets of every entry of a table, in order (R195). -/
def tableEntries (t : Tables) (table : Nat) : List (List Byte) :=
  match table with
  | 1 => t.site.map fun v => putEntry put4 (some v)
  | 2 => t.geometry.map (putEntry put4s)
  | 3 => t.nodes.map (putEntry putNode)
  | 4 => t.channels.map (putEntry putChannel)
  | 5 => (t.conv.getD 0 []).map (putEntry putPoint)
  | 6 => (t.conv.getD 1 []).map (putEntry putPoint)
  | 7 => (t.conv.getD 2 []).map (putEntry putPoint)
  | 8 => (t.conv.getD 3 []).map (putEntry putPoint)
  | 9 => t.zoneU.map (putEntry putWindow)
  | 10 => t.zoneD.map (putEntry putWindow)
  | 11 => t.speed.map (putEntry putSpeedPoint)
  | 12 => t.vehicle.map (putEntry putVehicle)
  | 13 => t.threshold.map fun v => putEntry put4 (some v)
  | 14 => t.output.map fun e => putEntry putOutput (some e)
  | _ => []

/-- As many members, from the first on, as a room in octets holds (R139, R195). -/
def fitting (room : Nat) (l : List (List Byte)) : List (List Byte) :=
  match l with
  | [] => []
  | x :: rest => if x.length ≤ room then x :: fitting (room - x.length) rest else []

/-- The entries READ_TABLE returns (R195). -/
def readEntries (t : Tables) (table first count : Nat) (r : EntryRange) : List (List Byte) :=
  fitting (ansRoom - 5) (((tableEntries t table).drop (first - r.low)).take count)

end Sys2Proof.Machine
end

