-- ==== Sys2Proof/Machine/Resets.lean ====
section
/-! DEFINITION. The settings store, POWER_ON, RESTART and the loss of supply (R172, R175, R182 to R185). -/

namespace Sys2Proof.Machine

/-! ### The settings store (R182, R184) -/

/-- The octets of a section by its place 0..14: the entries of its table as R195 returns them, or the identity (R182; notes/assumptions/29.md). -/
def sectionOctets (t : Tables) (d : Identity) (i : Nat) : List Byte :=
  if i = 14 then put4 d.station ++ putFlag d.fixed ++ putFlag d.autoArm
  else (tableEntries t (i + 1)).flatMap id

/-- The CRC-16 of a section, formed as for frames (R182, R200). -/
def sectionCheck (t : Tables) (d : Identity) (i : Nat) : BitVec 16 := crc16 (sectionOctets t d i)

/-- The condition of a section by its place: blank, good while its check holds, bad otherwise (R182). -/
def condAt (x : SettingsStore) (i : Nat) : SectionCond :=
  match x.checks.getD i none with
  | none => .blank
  | some c => if c = sectionCheck x.tables x.identity i then .good else .bad

/-- The condition of every section (R182). -/
def allConds (x : SettingsStore) : List SectionCond := (List.range 15).map (condAt x)

/-- The tables of which the first `n` sections are new and the others old (R182, R184). -/
def mixTables (n : Nat) (new old : Tables) : Tables where
  site := if 0 < n then new.site else old.site
  geometry := if 1 < n then new.geometry else old.geometry
  nodes := if 2 < n then new.nodes else old.nodes
  channels := if 3 < n then new.channels else old.channels
  conv := (List.range 4).map fun k => (if 4 + k < n then new else old).conv.getD k []
  zoneU := if 8 < n then new.zoneU else old.zoneU
  zoneD := if 9 < n then new.zoneD else old.zoneD
  speed := if 10 < n then new.speed else old.speed
  vehicle := if 11 < n then new.vehicle else old.vehicle
  threshold := if 12 < n then new.threshold else old.threshold
  output := if 13 < n then new.output else old.output

/-- A store that ended in section `i`, whose check is left false: the sections before it new and good, those after it old (R184; notes/assumptions/29.md). -/
def brokenStore (i : Nat) (j : StoreJob) (x : SettingsStore) : SettingsStore :=
  let t := mixTables i j.tables x.tables
  { checks := (List.range i).map (fun k => some (sectionCheck j.tables j.identity k))
      ++ some (~~~ sectionCheck t x.identity i) :: x.checks.drop (i + 1)
    tables := t
    identity := x.identity }

/-- A store whose every section read back good (R184). -/
def wholeStore (j : StoreJob) : SettingsStore where
  checks := (List.range 15).map fun k => some (sectionCheck j.tables j.identity k)
  tables := j.tables
  identity := j.identity

/-- The store after a completion (R184). -/
def completedStore (failed : Option Nat) (j : StoreJob) (x : SettingsStore) : SettingsStore :=
  match failed with
  | none => wholeStore j
  | some i => brokenStore i j x

/-- The command code of STORE_TABLES (R200). -/
def storeCode : Nat := 19

/-- The working flags take effect as a store ends DONE (R184). -/
def State.takeFlags (failed : Option Nat) (i : Identity) (s : State) : State :=
  match failed with
  | none => (s.onScu fun u => { u with autoArm := i.autoArm }).onLif fun l => { l with fixed := i.fixed }
  | some _ => s

/-- The answer to a store: DONE, or STORE_FAILED naming the section by its number 1..15 (R184; notes/assumptions/13.md). -/
def State.answerStore (failed : Option Nat) (s : State) : State :=
  match failed with
  | none => s.answerProgress storeCode .done []
  | some i => s.answerProgress storeCode .storeFailed (put4 (i + 1))

/-- STORE_TABLES completes (R184). -/
def State.completeStore (failed : Option Nat) (s : State) : State :=
  match s.scu.store with
  | none => s
  | some j =>
    let t := { s with store := completedStore failed j s.store, scu := { s.scu with store := none } }
    ((t.takeFlags failed j.identity).raise .storeEnded).answerStore failed

/-! ### POWER_ON (R172, R182, R183) -/

/-- A table section's content by its condition: stored, default or empty (R172, R182). -/
def loadSection {α : Type} (x : SettingsStore) (i : Nat) (stored default empty : α) : α :=
  match condAt x i with
  | .good => stored
  | .blank => default
  | .bad => empty

/-- Conversion table `k` as loaded (R15, R182). -/
def loadConv (x : SettingsStore) (k : Nat) : List (Option ConvPoint) :=
  loadSection x (4 + k) (x.tables.conv.getD k []) (List.replicate 17 none) (List.replicate 17 none)

/-- The tables as loaded (R172, R182). -/
def loadTables (x : SettingsStore) : Tables where
  site := loadSection x 0 x.tables.site Tables.blank.site Tables.blank.site
  geometry := loadSection x 1 x.tables.geometry Tables.blank.geometry (List.replicate 4 none)
  nodes := loadSection x 2 x.tables.nodes Tables.blank.nodes Tables.blank.nodes
  channels := loadSection x 3 x.tables.channels Tables.blank.channels Tables.blank.channels
  conv := [loadConv x 0, loadConv x 1, loadConv x 2, loadConv x 3]
  zoneU := loadSection x 8 x.tables.zoneU Tables.blank.zoneU Tables.blank.zoneU
  zoneD := loadSection x 9 x.tables.zoneD Tables.blank.zoneD Tables.blank.zoneD
  speed := loadSection x 10 x.tables.speed Tables.blank.speed Tables.blank.speed
  vehicle := loadSection x 11 x.tables.vehicle Tables.blank.vehicle Tables.blank.vehicle
  threshold := loadSection x 12 x.tables.threshold Tables.blank.threshold Tables.blank.threshold
  output := loadSection x 13 x.tables.output Tables.blank.output Tables.blank.output

/-- The identity as loaded (R182). -/
def loadIdentity (x : SettingsStore) : Identity := loadSection x 14 x.identity Identity.blank Identity.blank

/-- The INVALID marks as loaded (R172). -/
def loadMarks (x : SettingsStore) : List Bool := (List.range 14).map fun i => condAt x i == .bad

/-- The part as the power-on load leaves it in OFFLINE (R8, R121, R149, R182). -/
def State.loaded (s : State) : State :=
  let t := loadTables s.store
  let i := loadIdentity s.store
  { pending := s.pending
    powered := true
    now := 0
    pins := s.pins
    store := s.store
    conds := allConds s.store
    tables := t
    invalid := loadMarks s.store
    commit := ⟨t.site, none, none⟩
    lif := { Lif.reset with station := i.station, fixed := i.fixed }
    sin := { Sin.reset with channels := t.channels.map fun e => ChannelState.reset (initialHealth e) }
    axt := Axt.reset
    passage := none
    brg := { Brg.reset with records := s.pins.feedback.map fun o => ⟨o, 0, []⟩ }
    aou := { Aou.reset with lines := s.pins.readback.map resetLine }
    rps := Rps.reset
    scu := { Scu.reset with autoArm := i.autoArm } }

/-- A section is bad (R182). -/
def anyBad (x : SettingsStore) : Bool := (allConds x).any fun c => c == .bad

/-- POWER_ON: the store is loaded, EQUIPMENT_CHANGED raised once for bad sections, and auto-arm acts (R182, R183). -/
def State.powerUp (s : State) : State := (s.loaded.raiseIf (anyBad s.store) .equipmentChanged).autoArm 0

/-! ### RESTART (R175) -/

/-- SIN after RESTART: tables, health, baselines, gate, history and fault are kept (R6, R8, R11, R16, R17, R21, R22, R197). -/
def restartSin (x : Sin) : Sin :=
  { x with
    nodes := x.nodes.map fun _ => NodeState.reset
    channels := x.channels.map fun c => { c with fresh := false, capture := none, gather := none }
    ambientFresh := false
    line := []
    released := none
    counters := SinCounters.zero }

/-- SCU after RESTART's clearing (R175, R185). -/
def restartScu (u : Scu) : Scu :=
  { u with
    siteFresh := false
    check := .idle
    checkTime := none
    settle := none
    phaseTimer := none
    endTimer := none
    interval := none
    due := false
    loss := none }

/-- Step 1 of RESTART: the cleared state (R175). -/
def State.clearForRestart (s : State) : State :=
  { s with
    passage := none
    axt := { Axt.reset with nextPassage := s.axt.nextPassage }
    rps := s.rps.restart
    aou := { Aou.reset with lines := s.pins.readback.map resetLine }
    sin := restartSin s.sin
    lif := { s.lif with counters := LifCounters.zero }
    scu := restartScu s.scu }

/-- RESTART's effects in the order of R175; its answer follows. -/
def State.restart (s : State) : State :=
  ((State.equipmentSince s s.clearForRestart).enterOffline).autoArm Config.commandSettle

/-! ### Loss of supply (R184) -/

/-- The store as a power-off leaves it (R184). -/
def State.storeAtLoss (s : State) (writing : Nat) : SettingsStore :=
  match s.scu.store with
  | none => s.store
  | some j => brokenStore writing j s.store

/-- The part without supply: the store and the inputs stand, everything else is lost (R182, R184; notes/assumptions/3.md). -/
def State.powerDown (writing : Nat) (s : State) : State :=
  { State.reset with
    powered := false
    pending := s.pending
    pins := s.pins
    store := s.storeAtLoss writing }

end Sys2Proof.Machine
end

