-- ==== Sys2Proof/Machine/Commands.lean ====
section
/-! DEFINITION. The twenty commands of the site controller, each as LIF takes it (R139, R144, R147, R159, R162 to R167, R170, R174 to R176, R181, R184, R190, R193 to R197). -/

namespace Sys2Proof.Machine

/-! ### Answers of one command -/

/-- An answer that carries its code alone (R192). -/
def State.reply (code : Nat) (tag : Byte) (a : AnswerCode) (s : State) : State := s.answer code tag a []

/-- A command without arguments: its own refusal first, then arguments that do not fit, then its effect (R192). -/
def plainCommand (code : Nat) (tag : Byte) (args : List Byte) (f : State → State) (s : State) : State :=
  match s.refusal code with
  | some a => s.reply code tag a
  | none => if args = [] then f s else s.reply code tag .badArgument

/-- A command with arguments of one form (R192). -/
def argCommand {α : Type} (code : Nat) (tag : Byte) (form : Field α) (args : List Byte) (f : α → State → State) (s : State) : State :=
  match s.refusal code with
  | some a => s.reply code tag a
  | none =>
    match whole form args with
    | some x => f x s
    | none => s.reply code tag .badArgument

/-! ### READ_IDENTITY (R195) -/

/-- The part name KP418 as five characters (R195). -/
def partName : List Byte := [0x4B, 0x50, 0x34, 0x31, 0x38]

/-- The answer data of READ_IDENTITY (R195). -/
def State.identityData (s : State) : List Byte :=
  partName ++ put4 1 ++ put4 s.lif.station ++ putFlag s.lif.fixed ++ put4 s.controller
  ++ putCode (rateCode s.lif.rate) ++ putFlag s.scu.autoArm ++ putTime s.now

/-- READ_IDENTITY as taken (R195). -/
def readIdentity (tag : Byte) (args : List Byte) (s : State) : State :=
  plainCommand 1 tag args (fun t => t.answer 1 tag .done t.identityData) s

/-! ### READ_STATUS (R196; notes/assumptions/14.md) -/

/-- The time left on a timer in ms, absent while it is stopped (R185, R196). -/
def putTimer (t : Option Nat) : List Byte := putOption (fun us => put4 (divRoundNat us 1000)) t

/-- A validation failure's four items (R171). -/
def putFailure (f : Failure) : List Byte :=
  put4 f.table ++ putOption put4 f.entry ++ put4 f.check ++ putCode (causeCode f.cause)

/-- The last validation result (R171, R185). -/
def putValidation (v : Validation) : List Byte :=
  match v with
  | .none => putCode 0
  | .passed => putCode 1
  | .failed f => putCode 2 ++ putFailure f

/-- The check status with its phase or its abort reason (R178, R185). -/
def putCheck (c : CheckStatus) : List Byte :=
  putCode (checkCode c) ++
    (match c with
     | .run p => putCode (phaseCode p)
     | .aborted r => putCode (reasonCode r)
     | .idle | .ended => [])

/-- Group 1, SITE (R115, R185, R196). -/
def State.siteGroup (s : State) : List Byte :=
  putCode (siteCode s.scu.site) ++ putCheck s.scu.check ++ putOption putTime s.scu.checkTime
  ++ putFlag s.scu.due ++ putTimer s.scu.interval ++ putFlag s.scu.powerMark
  ++ putValidation s.scu.validation ++ putSet s.invalid
  ++ s.conds.flatMap (fun c => putCode (condCode c))
  ++ putFlag s.scu.autoArm ++ putFlag s.scu.store.isSome
  ++ putCode (if s.pins.approach then 0 else 1) ++ putCode (shutterCode s.brg.shutter)
  ++ putSet [s.brg.faults.left.isSome, s.brg.faults.right.isSome]

/-- The presence of a node, absent for an unused entry (R6). -/
def State.putPresence (s : State) (n : Nat) : List Byte :=
  putOption putCode ((nodeEntry s.tables n).map fun _ => if (s.node n).silent then 1 else 0)

/-- A channel's recorded and effective health and failure run, absent for an unused entry (R8). -/
def State.putChannelHealth (s : State) (c : Nat) : List Byte :=
  putOption (fun h => putCode (healthCode (s.channel c).health) ++ putCode (effHealthCode h) ++ put4 (s.channel c).run)
    (s.effHealth c)

/-- Group 2, INTAKE (R6, R8, R16, R22, R196). -/
def State.intakeGroup (s : State) : List Byte :=
  (List.range' 1 12).flatMap s.putPresence ++ (List.range 32).flatMap s.putChannelHealth
  ++ putFlag s.sin.ambientFault
  ++ [s.sin.counters.unknownNode, s.sin.counters.malformed, s.sin.counters.order,
      s.sin.counters.late, s.sin.counters.early].flatMap put4

/-- Group 3, TRACKING (R48, R196). -/
def State.trackingGroup (s : State) : List Byte :=
  [s.axt.counters.offline, s.axt.counters.stray, s.axt.counters.source,
   s.axt.counters.malformed, s.axt.counters.overflow].flatMap put4

/-- A member of the equipment fault set: its code in the order of R140, then what it names. -/
def putMember (m : FaultMember) : List Byte :=
  match m with
  | .channelFault c => putCode 0 ++ put4 c
  | .scannerFault c => putCode 1 ++ put4 c
  | .nodeSilent n => putCode 2 ++ put4 n
  | .ambientFault => putCode 3
  | .shutterFault r => putCode 4 ++ putCode (railCode r)
  | .outputFault l => putCode 5 ++ putCode (lineIndex l)
  | .loopLost => putCode 6
  | .trackingSuspect => putCode 7

/-- A level, high before low (R148, R200). -/
def putLevel (high : Bool) : List Byte := putCode (if high then 0 else 1)

/-- One line's assertion, driven level, readback level, health and test level, each named value coded from 0 in the order of its rule: asserted, high, OK and ON are 0 (R142, R147, R148, R200; notes/assumptions/14.md). -/
def State.putLine (s : State) (l : Line) : List Byte :=
  let x := s.aou.lines.get l
  putCode (if x.asserted then 0 else 1) ++ putLevel x.driven ++ putLevel (s.pins.readback.get l)
  ++ putCode (if x.faulty then 1 else 0) ++ putCode (if x.test then 0 else 1)

/-- Group 4, OUTPUTS (R140, R144, R148, R196). -/
def State.outputsGroup (s : State) : List Byte :=
  putList putMember s.faultSet ++ putSet (allLines.map fun l => (s.aou.lines.get l).latched)
  ++ allLines.flatMap s.putLine

/-- A slot's state, passage number, and of a SEALED slot its seal order, read-complete flag and protection (R150). -/
def putSlot (x : Slot) : List Byte :=
  match x with
  | .free => putCode 0
  | .filling n => putCode 1 ++ put4 n
  | .sealed r =>
    putCode 2 ++ put4 r.header.number ++ put4 r.sealOrder ++ putFlag r.readComplete ++ putFlag (protectedReport r)

/-- Group 5, REPORTS: the four slots without a member count, then the event state (R150, R164, R168, R196; notes/assumptions/14.md). -/
def State.reportsGroup (s : State) : List Byte :=
  s.rps.slots.flatMap putSlot ++ put4 s.rps.pending.toNat ++ put4 s.rps.marks.toNat ++ put4 s.rps.mask.toNat
  ++ putOption putTime s.rps.lastEvt

/-- Group 6, LOOP (R187, R190, R196, R198, R199). -/
def State.loopGroup (s : State) : List Byte :=
  putCode (if s.lif.locked then 1 else 0) ++ putCode (rateCode s.lif.rate) ++ put4 s.lif.station
  ++ putOption (fun p => put4 p.station) s.lif.strip ++ putCode (if s.lif.linkLost then 1 else 0)
  ++ putTimer s.lif.supTimer
  ++ [s.lif.counters.badFrames, s.lif.counters.unexpected, s.lif.counters.foreign, s.lif.counters.malformed,
      s.lif.counters.refusedBusy, s.lif.counters.answersLost, s.lif.counters.loopLosses,
      s.lif.counters.forwardOverflows].flatMap put4

/-- The contents of a status group 1..6, each with the loop time at the taking (R196). -/
def State.statusGroup (s : State) (g : Nat) : Option (List Byte) :=
  match g with
  | 1 => some (putTime s.now ++ s.siteGroup)
  | 2 => some (putTime s.now ++ s.intakeGroup)
  | 3 => some (putTime s.now ++ s.trackingGroup)
  | 4 => some (putTime s.now ++ s.outputsGroup)
  | 5 => some (putTime s.now ++ s.reportsGroup)
  | 6 => some (putTime s.now ++ s.loopGroup)
  | _ => none

/-- READ_STATUS as taken (R196). -/
def readStatus (tag : Byte) (args : List Byte) (s : State) : State :=
  argCommand 2 tag take4 args (fun g t =>
    match t.statusGroup g with
    | some d => t.answer 2 tag .done d
    | none => t.reply 2 tag .badArgument) s

/-! ### READ_LIVE (R197) -/

/-- The counts of the current passage, all 0 outside one (R32, R48). -/
def State.liveCounts (s : State) : List Nat :=
  match s.passage with
  | some p => [p.counts.c1, p.counts.c2, p.counts.c3, p.counts.c4, p.total, p.axles.length]
  | none => [0, 0, 0, 0, 0, 0]

/-- The live baseline of a channel with its fresh flag: absent unless CRIB with a baseline (R197). -/
def State.putBaseline (s : State) (c : Nat) : List Byte :=
  let crib := (channelEntry s.tables c).any fun e => e.kind == .crib
  putOption put4s (if crib then (s.channel c).baseline else none) ++ putFlag (s.channel c).fresh

/-- The answer data of READ_LIVE, each value with its fresh flag (R197). -/
def State.liveData (s : State) : List Byte :=
  putOption put4s s.ambient ++ putFlag s.sin.ambientFresh
  ++ putOption put4 s.axt.lastSpeed ++ putFlag s.axt.lastSpeedFresh
  ++ putTime s.now ++ putFlag true
  ++ putCode (siteCode s.scu.site) ++ putFlag s.scu.siteFresh
  ++ s.liveCounts.flatMap put4 ++ putFlag s.axt.countsFresh
  ++ (List.range 31).flatMap s.putBaseline

/-- Every fresh flag is cleared as READ_LIVE returns it (R197). -/
def State.clearFresh (s : State) : State :=
  { s with
    sin := { s.sin with ambientFresh := false, channels := s.sin.channels.map fun c => { c with fresh := false } }
    axt := { s.axt with lastSpeedFresh := false, countsFresh := false }
    scu := { s.scu with siteFresh := false } }

/-- READ_LIVE as taken (R197). -/
def readLive (tag : Byte) (args : List Byte) (s : State) : State :=
  plainCommand 3 tag args (fun t => t.clearFresh.answer 3 tag .done t.liveData) s

/-! ### WRITE_TABLE and READ_TABLE (R193, R195) -/

/-- The outcome of judging a WRITE_TABLE: an answer, with the write if there is one (R193). -/
structure JudgedWrite where
  answer : AnswerCode
  table : Nat
  first : Nat
  count : Nat
  tables : Option Tables
deriving DecidableEq, Repr

/-- A WRITE_TABLE that writes nothing. -/
def refusedWrite (a : AnswerCode) : JudgedWrite := ⟨a, 0, 0, 0, none⟩

/-- Steps 3 and 4 of R193. -/
def judgeEntries (t : Tables) (table : Nat) (r : EntryRange) (rest : List Byte) : JudgedWrite :=
  match takePair take4 take4 rest with
  | none => refusedWrite .badArgument
  | some ((first, count), bytes) =>
    if entriesFit r first count then
      match writeEntries t table first count bytes with
      | some w => ⟨if w.clamped then .doneClamped else .done, table, first, count, some w.value⟩
      | none => refusedWrite .badArgument
    else refusedWrite .badArgument

/-- WRITE_TABLE judged in the order of R193: identifier, state, entry numbers, entries. -/
def State.judgeWrite (s : State) (args : List Byte) : JudgedWrite :=
  match take4 args with
  | none => refusedWrite .badArgument
  | some (table, rest) =>
    match entryRange table with
    | none => refusedWrite .badArgument
    | some r => if writable table s.scu.site then judgeEntries s.tables table r rest else refusedWrite .refusedState

/-- WRITE_TABLE as taken (R193). -/
def writeTable (tag : Byte) (args : List Byte) (s : State) : State :=
  let j := s.judgeWrite args
  match j.tables with
  | some t => (s.write j.table j.first j.count t).reply 4 tag j.answer
  | none => s.reply 4 tag j.answer

/-- The answer data of READ_TABLE (R195). -/
def State.tableData (s : State) (table first count : Nat) (r : EntryRange) : List Byte :=
  let l := readEntries s.tables table first count r
  putFlag (s.invalid.getD (table - 1) false) ++ put4 l.length ++ l.flatMap id

/-- READ_TABLE as taken (R195). -/
def readTable (tag : Byte) (args : List Byte) (s : State) : State :=
  argCommand 5 tag (takePair take4 (takePair take4 take4)) args (fun x t =>
    match entryRange x.1 with
    | none => t.reply 5 tag .badArgument
    | some r =>
      if entriesFit r x.2.1 x.2.2 then t.answer 5 tag .done (t.tableData x.1 x.2.1 x.2.2 r)
      else t.reply 5 tag .badArgument) s

/-! ### START, STOP, RESTART, RUN_CHECK, FORCE_CLOSE (R170, R174 to R176, R181) -/

/-- START as taken (R170). -/
def start (tag : Byte) (args : List Byte) (s : State) : State :=
  plainCommand 6 tag args (fun t =>
    match t.validation with
    | some f => (t.onScu fun u => { u with validation := .failed f }).answer 6 tag .tableInvalid (putFailure f)
    | none => (t.startSite Config.commandSettle).reply 6 tag .done) s

/-- A command stays in progress over an operation; taken in SEARCH its answer is lost from the start (R192). -/
def State.holdCommand (tag : Byte) (j : Job) (s : State) : State :=
  s.onLif fun l => { l with inProgress := some ⟨j, tag, !l.locked⟩ }

/-- STOP as taken, by site state (R174). -/
def stop (tag : Byte) (args : List Byte) (s : State) : State :=
  plainCommand stopCode tag args (fun t =>
    match t.scu.site with
    | .offline => t.reply stopCode tag .done
    | .checking => ((t.abortCheck .stop).enterOffline).reply stopCode tag .done
    | .armed => t.enterOffline.reply stopCode tag .done
    | .passage => (t.holdCommand tag .stop).endPassage .aborted
    | .closing => t.holdCommand tag .stop) s

/-- RESTART as taken (R175). -/
def restart (tag : Byte) (args : List Byte) (s : State) : State :=
  plainCommand 8 tag args (fun t => t.restart.reply 8 tag .done) s

/-- RUN_CHECK as taken (R181). -/
def runCheck (tag : Byte) (args : List Byte) (s : State) : State :=
  plainCommand 9 tag args (fun t => (t.enterChecking 0).reply 9 tag .done) s

/-- FORCE_CLOSE as taken (R176). -/
def forceClose (tag : Byte) (args : List Byte) (s : State) : State :=
  plainCommand 10 tag args (fun t => (t.endPassage .forced).reply 10 tag .done) s

/-! ### READ_ALARMS (R139) -/

/-- The passage values of the alarm list as READ_ALARMS returns them (R139). -/
def State.alarmValues (s : State) : List Byte :=
  let a := s.aou.alarms
  putOption put4 a.passage ++ putFlag s.inPassage ++ put4 a.entries.length ++ put4 a.lost
  ++ [a.highest.critical, a.highest.alarm, a.highest.watch].flatMap put4

/-- The answer data of READ_ALARMS (R139). -/
def State.alarmData (s : State) (first count : Nat) : List Byte :=
  let l := fitting (ansRoom - s.alarmValues.length - 2) (((s.aou.alarms.entries.map alarmRecord).drop first).take count)
  s.alarmValues ++ putList id l

/-- READ_ALARMS as taken (R139). -/
def readAlarms (tag : Byte) (args : List Byte) (s : State) : State :=
  argCommand 11 tag (takePair take4 take4) args (fun x t =>
    if x.1 ≤ 127 then t.answer 11 tag .done (t.alarmData x.1 x.2) else t.reply 11 tag .badArgument) s

/-! ### READ_REPORT, RELEASE_REPORT, READ_SUMMARIES (R159 to R163) -/

/-- The sections in order (R159). -/
def sections : List Section := [.header, .axles, .vehicles, .alarms]

/-- The arguments of READ_REPORT (R159). -/
structure ReadArgs where
  slot : Nat
  part : Section
  first : Nat
  count : Nat
deriving DecidableEq, Repr

/-- The arguments of READ_REPORT as they arrive (R159, R200). -/
def takeReadArgs : Field ReadArgs :=
  andThen take4 fun slot =>
  andThen (takeCode sections) fun part =>
  andThen take4 fun first =>
  andThen take4 fun count => pureField ⟨slot, part, first, count⟩

/-- The arguments lie in their ranges (R159, step 1). -/
def readArgsFit (x : ReadArgs) : Bool :=
  decide (1 ≤ x.slot) && decide (x.slot ≤ 4) && decide (x.first ≤ 1023) && decide (1 ≤ x.count) && decide (x.count ≤ 1024)

/-- An accepted read: in progress over its frames, or ended at once where it serves nothing (R160). -/
def State.beginRead (tag : Byte) (x : ReadArgs) (r : Report) (s : State) : State :=
  let n := servedCount r x.part x.first x.count
  if n = 0 then
    (s.onRps (Rps.onReport x.slot (noteRead x.part x.first 0))).answer readReportCode tag .done (put4 0)
  else if s.lif.locked then
    s.holdCommand tag (.read ⟨x.slot, r.header.number, x.part, x.first, n, 0, false⟩)
  else s.onLif loseAnswer

/-- READ_REPORT as taken (R159, R160). -/
def readReport (tag : Byte) (args : List Byte) (s : State) : State :=
  argCommand readReportCode tag takeReadArgs args (fun x t =>
    if readArgsFit x then
      match t.rps.slot x.slot with
      | .free => t.reply readReportCode tag .noSuchSlot
      | .filling _ => t.reply readReportCode tag .notSealed
      | .sealed r => t.beginRead tag x r
    else t.reply readReportCode tag .badArgument) s

/-- A release frees the slot, and the summary shows RELEASED (R162). -/
def Rps.release (n : Nat) (r : Rps) : Rps := (r.setDetail n .released).setSlot n .free

/-- RELEASE_REPORT as taken (R162). -/
def releaseReport (tag : Byte) (args : List Byte) (s : State) : State :=
  argCommand 13 tag (takePair take4 take4) args (fun x t =>
    if x.1 = 0 ∨ 4 < x.1 ∨ x.2 = 0 then t.reply 13 tag .badArgument
    else
      match t.rps.slot x.1 with
      | .free => t.reply 13 tag .noSuchSlot
      | .filling n => t.reply 13 tag (if n = x.2 then .notSealed else .noSuchSlot)
      | .sealed r =>
        if r.header.number = x.2 then (t.onRps (Rps.release x.1)).reply 13 tag .done
        else t.reply 13 tag .noSuchSlot) s

/-- A detail field: its code, and the slot of IN_SLOT alone (R163; notes/assumptions/46.md). -/
def putDetail (d : Detail) : List Byte :=
  match d with
  | .inSlot n => putCode 0 ++ put4 n
  | .released => putCode 1
  | .takenOver => putCode 2
  | .detailLost => putCode 3

/-- A summary (R163). -/
def putSummary (x : Summary) : List Byte :=
  put4 x.number ++ putTime x.startTime ++ putTime x.endTime ++ putCode (dispositionCode x.disposition)
  ++ putCode (dirCode x.dir) ++ put4 x.total
  ++ [x.highest.critical, x.highest.alarm, x.highest.watch].flatMap put4 ++ putDetail x.detail

/-- The answer data of READ_SUMMARIES (R163). -/
def State.summaryData (s : State) : List Byte := put4 s.rps.ring.length ++ s.rps.ring.flatMap putSummary

/-- READ_SUMMARIES as taken (R163). -/
def readSummaries (tag : Byte) (args : List Byte) (s : State) : State :=
  plainCommand 14 tag args (fun t => t.answer 14 tag .done t.summaryData) s

/-! ### ACK_EVENTS and SET_EVENT_MASK (R166, R167) -/

/-- An event kind by its number 1..13; another number is refused (R166, R200; notes/assumptions/43.md). -/
def takeKind : Field (BitVec 13) :=
  andThen (onlyIf (fun n => decide (1 ≤ n) && decide (n ≤ 13)) take1) fun n => pureField (BitVec.twoPow 13 (n - 1))

/-- The pending set after an acknowledgement: listed kinds whose marks are clear leave (R166). -/
def Rps.acknowledge (kinds : List (BitVec 13)) (r : Rps) : Rps :=
  { r with pending := r.pending &&& ~~~(kinds.foldl (· ||| ·) 0 &&& ~~~r.marks) }

/-- ACK_EVENTS as taken (R166). -/
def ackEvents (tag : Byte) (args : List Byte) (s : State) : State :=
  argCommand 15 tag (takeList takeKind) args (fun kinds t =>
    let u := t.onRps (Rps.acknowledge kinds)
    u.answer 15 tag .done (put4 u.rps.pending.toNat)) s

/-- The mask is replaced as a whole; a pending kind that is unmasked sets send-due (R167). -/
def Rps.setMask (mask : BitVec 13) (r : Rps) : Rps :=
  { r with mask := mask, sendDue := r.sendDue || (r.pending &&& r.mask &&& ~~~mask) != 0 }

/-- SET_EVENT_MASK as taken; set bits beyond the thirteen kinds are dropped (R167; notes/assumptions/44.md). -/
def setEventMask (tag : Byte) (args : List Byte) (s : State) : State :=
  argCommand 16 tag takeSet args (fun m t => (t.onRps (Rps.setMask (BitVec.ofNat 13 m))).reply 16 tag .done) s

/-! ### CLEAR_OUTPUTS and TEST_OUTPUTS (R144, R147) -/

/-- CLEAR_OUTPUTS as taken (R144). -/
def clearOutputs (tag : Byte) (args : List Byte) (s : State) : State :=
  plainCommand 17 tag args (fun t => t.clearOutputs.reply 17 tag .done) s

/-- A test setting: ON, OFF or KEEP, in this order (R147). -/
def testSettings : List (Option Bool) := [some true, some false, none]

/-- A line's test level takes its setting (R147). -/
def testLine (x : Option Bool) (l : LineState) : LineState := { l with test := x.getD l.test }

/-- The four lines' test levels take their settings (R147). -/
def State.testLines (x : List (Option Bool)) (s : State) : State :=
  (forEach allLines (fun l t => t.onLine l (testLine (x.getD (lineIndex l) none))) s).judgeLines

/-- TEST_OUTPUTS as taken (R147). -/
def testOutputs (tag : Byte) (args : List Byte) (s : State) : State :=
  argCommand 18 tag (takeMany (takeCode testSettings) 4) args (fun x t => (t.testLines x).reply 18 tag .done) s

/-! ### STORE_TABLES and SET_STATION (R184, R190) -/

/-- The auto-arm settings SET, CLEAR and KEEP (R184). -/
def armSettings : List (Option Bool) := [some true, some false, none]

/-- The station-fixed settings KEEP and CLEAR (R184). -/
def fixedSettings : List (Option Bool) := [none, some false]

/-- The identity to be stored (R184). -/
def State.identityToStore (s : State) (arm fixed : Option Bool) : Identity :=
  ⟨s.lif.station, fixed.getD s.lif.fixed, arm.getD s.scu.autoArm⟩

/-- STORE_TABLES as taken (R184). -/
def storeTables (tag : Byte) (args : List Byte) (s : State) : State :=
  argCommand storeCode tag (takePair (takeCode armSettings) (takeCode fixedSettings)) args (fun x t =>
    (t.onScu fun u => { u with store := some ⟨t.tables, t.identityToStore x.1 x.2⟩ }).holdCommand tag .store) s

/-- The fixed settings SET and KEEP of SET_STATION (R190). -/
def stationSettings : List Bool := [true, false]

/-- A new station is refused: outside 1..126, or the controller station in use (R190). -/
def State.stationRefused (s : State) (n : Nat) : Bool := n = 0 || 126 < n || n == s.controller

/-- The new address takes effect as the answer DONE begins to be sent; in SEARCH at once (R190; notes/assumptions/8.md). -/
def State.changeStation (tag : Byte) (n : Nat) (s : State) : State :=
  if s.lif.locked then s.handOwn (ansFrame s.controller 20 tag .done [] false (some n))
  else s.onLif fun l => loseAnswer { l with station := n }

/-- SET_STATION as taken (R190). -/
def setStation (tag : Byte) (args : List Byte) (s : State) : State :=
  argCommand 20 tag (takePair take4 (takeCode stationSettings)) args (fun x t =>
    if t.stationRefused x.1 then t.reply 20 tag .badArgument
    else (t.onLif fun l => { l with fixed := l.fixed || x.2 }).changeStation tag x.1) s

/-! ### The meanings -/

/-- READ_IDENTITY. -/
def execReadIdentity (dt : Nat) (tag : Byte) (args : List Byte) (s : State) : Host.Outcome State Fault Refusal :=
  timed dt (command 1 tag args (readIdentity tag args)) s
/-- READ_STATUS. -/
def execReadStatus (dt : Nat) (tag : Byte) (args : List Byte) (s : State) : Host.Outcome State Fault Refusal :=
  timed dt (command 2 tag args (readStatus tag args)) s
/-- READ_LIVE. -/
def execReadLive (dt : Nat) (tag : Byte) (args : List Byte) (s : State) : Host.Outcome State Fault Refusal :=
  timed dt (command 3 tag args (readLive tag args)) s
/-- WRITE_TABLE. -/
def execWriteTable (dt : Nat) (tag : Byte) (args : List Byte) (s : State) : Host.Outcome State Fault Refusal :=
  timed dt (command 4 tag args (writeTable tag args)) s
/-- READ_TABLE. -/
def execReadTable (dt : Nat) (tag : Byte) (args : List Byte) (s : State) : Host.Outcome State Fault Refusal :=
  timed dt (command 5 tag args (readTable tag args)) s
/-- START. -/
def execStart (dt : Nat) (tag : Byte) (args : List Byte) (s : State) : Host.Outcome State Fault Refusal :=
  timed dt (command 6 tag args (start tag args)) s
/-- STOP. -/
def execStop (dt : Nat) (tag : Byte) (args : List Byte) (s : State) : Host.Outcome State Fault Refusal :=
  timed dt (command stopCode tag args (stop tag args)) s
/-- RESTART. -/
def execRestart (dt : Nat) (tag : Byte) (args : List Byte) (s : State) : Host.Outcome State Fault Refusal :=
  timed dt (command 8 tag args (restart tag args)) s
/-- RUN_CHECK. -/
def execRunCheck (dt : Nat) (tag : Byte) (args : List Byte) (s : State) : Host.Outcome State Fault Refusal :=
  timed dt (command 9 tag args (runCheck tag args)) s
/-- FORCE_CLOSE. -/
def execForceClose (dt : Nat) (tag : Byte) (args : List Byte) (s : State) : Host.Outcome State Fault Refusal :=
  timed dt (command 10 tag args (forceClose tag args)) s
/-- READ_ALARMS. -/
def execReadAlarms (dt : Nat) (tag : Byte) (args : List Byte) (s : State) : Host.Outcome State Fault Refusal :=
  timed dt (command 11 tag args (readAlarms tag args)) s
/-- READ_REPORT. -/
def execReadReport (dt : Nat) (tag : Byte) (args : List Byte) (s : State) : Host.Outcome State Fault Refusal :=
  timed dt (command readReportCode tag args (readReport tag args)) s
/-- RELEASE_REPORT. -/
def execReleaseReport (dt : Nat) (tag : Byte) (args : List Byte) (s : State) : Host.Outcome State Fault Refusal :=
  timed dt (command 13 tag args (releaseReport tag args)) s
/-- READ_SUMMARIES. -/
def execReadSummaries (dt : Nat) (tag : Byte) (args : List Byte) (s : State) : Host.Outcome State Fault Refusal :=
  timed dt (command 14 tag args (readSummaries tag args)) s
/-- ACK_EVENTS. -/
def execAckEvents (dt : Nat) (tag : Byte) (args : List Byte) (s : State) : Host.Outcome State Fault Refusal :=
  timed dt (command 15 tag args (ackEvents tag args)) s
/-- SET_EVENT_MASK. -/
def execSetEventMask (dt : Nat) (tag : Byte) (args : List Byte) (s : State) : Host.Outcome State Fault Refusal :=
  timed dt (command 16 tag args (setEventMask tag args)) s
/-- CLEAR_OUTPUTS. -/
def execClearOutputs (dt : Nat) (tag : Byte) (args : List Byte) (s : State) : Host.Outcome State Fault Refusal :=
  timed dt (command 17 tag args (clearOutputs tag args)) s
/-- TEST_OUTPUTS. -/
def execTestOutputs (dt : Nat) (tag : Byte) (args : List Byte) (s : State) : Host.Outcome State Fault Refusal :=
  timed dt (command 18 tag args (testOutputs tag args)) s
/-- STORE_TABLES. -/
def execStoreTables (dt : Nat) (tag : Byte) (args : List Byte) (s : State) : Host.Outcome State Fault Refusal :=
  timed dt (command storeCode tag args (storeTables tag args)) s
/-- SET_STATION. -/
def execSetStation (dt : Nat) (tag : Byte) (args : List Byte) (s : State) : Host.Outcome State Fault Refusal :=
  timed dt (command 20 tag args (setStation tag args)) s

end Sys2Proof.Machine
end

