-- ==== Sys2Proof/Machine/Events.lean ====
section
/-! DEFINITION. The resets, frames, timers and inputs of the part: one meaning for each row that is not a command of the site controller. -/

namespace Sys2Proof.Machine

/-! ### Frames from the ring (R187, R188, R191) -/

/-- Changes the counters of LIF alone. -/
def State.onLifCounters (f : LifCounters → LifCounters) (s : State) : State :=
  s.onLif fun l => { l with counters := f l.counters }

/-- A CMD payload as a waiting command (R191, R200). -/
def cmdOf (payload : List Byte) : Cmd :=
  let n := natAt payload 2 2
  ⟨byteAt payload 0, payload.getD 1 0, (payload.drop 4).take n, decide (payload.length - 4 < n)⟩

/-- A well-formed command is offered to the command queue (R191). -/
def State.offerCommand (c : Cmd) (s : State) : State :=
  if s.lif.queue.length < Config.commandQueueDepth then
    (s.onLif fun l => { l with queue := l.queue ++ [c] }).drain
  else s.answerBusy c.code c.tag

/-- The command intake takes a CMD frame by its source station (R191). -/
def State.takeCmd (source : Nat) (payload : List Byte) (s : State) : State :=
  if source = s.controller then
    let t := s.hearController
    if payload.length < 4 then t.onLifCounters fun c => { c with malformed := bump c.malformed }
    else t.offerCommand (cmdOf payload)
  else s.onLifCounters fun c => { c with foreign := bump c.foreign }

/-- A frame of kind SMP, CRS or NST reaches its block; other kinds nothing (R188). -/
def State.takeTraffic (f : Frame) (s : State) : State :=
  match f.kind with
  | 1 => s.takeSmp f.source f.payload
  | 2 => s.takeCrs f.source f.payload
  | 3 => s.takeNst f.source
  | _ => s

/-- A frame addressed to the part is handled by kind (R188, step 3). -/
def State.takeAddressed (f : Frame) (s : State) : State :=
  match f.kind with
  | 1 | 2 | 3 => s.takeTraffic f
  | 5 => s.takeCmd f.source f.payload
  | _ => s.onLifCounters fun c => { c with unexpected := bump c.unexpected }

/-- A frame's source is the part's station or the kept previous one (R188, R190). -/
def ownSource (l : Lif) (source : Nat) : Bool := source == l.station || l.strip.any fun p => p.station == source

/-- A frame of the part's own has come round: the first one sent under the new address, known by its octets, ends the kept one (R190; notes/assumptions/50.md). -/
def stripFrame (octets : List Byte) (l : Lif) : Lif :=
  if l.strip.any fun p => p.first == octets then { l with strip := none } else l

/-- A frame that passed its check is stripped, consumed, copied or forwarded (R188, steps 2 to 5). -/
def State.handleFrame (f : Frame) (s : State) : State :=
  if ownSource s.lif f.source then s.onLif (stripFrame f.octets)
  else if f.dest = s.lif.station then s.takeAddressed f
  else if f.dest = Config.broadcast then (s.forwardFrame f.octets).takeTraffic f
  else s.forwardFrame f.octets

/-- A frame in LOCKED: judged by its check at the loop's rate (R187, R188). -/
def State.frameLocked (rate : Rate) (bytes : List Byte) (s : State) : State :=
  match if rate = s.lif.rate then checkFrame bytes else none with
  | some f => (s.onLif fun l => { l with quiet := some s.quietLimit }).handleFrame f
  | none => s.onLifCounters fun c => { c with badFrames := bump c.badFrames }

/-- A frame in SEARCH: one that passes its check at the rate listened to brings lock and is handled (R187). -/
def State.frameSearching (rate : Rate) (bytes : List Byte) (s : State) : State :=
  match if rate = s.lif.rate then checkFrame bytes else none with
  | some f => s.lockLoop.handleFrame f
  | none => s

/-- A frame arrives from the ring (R187, R188). -/
def State.receive (rate : Rate) (bytes : List Byte) (s : State) : State :=
  if s.lif.locked then s.frameLocked rate bytes else s.frameSearching rate bytes

/-! ### Transmission (R160, R165, R189) -/

/-- The frame being sent ends, and the transmitter takes the next one (R189, R192). -/
def State.endSending (s : State) : State :=
  if s.lif.sending.isSome then ((s.onLif fun l => { l with sending := none }).transmit).drain else s

/-- A TIM frame falls due; while one waits none is formed (R189). -/
def State.timDue (s : State) : State :=
  if s.lif.locked ∧ expired s.lif.timTimer then
    (s.onLif fun l => { l with timTimer := some Config.timPeriod, timWaiting := true }).transmit
  else s

/-- The next RPT frame of a read, or its end (R160). -/
def State.nextRpt (s : State) : State :=
  match s.readReady with
  | some j => (s.sendRpt j).drain
  | none => s

/-- An EVT frame is formed where R165 asks for one. -/
def State.nextEvt (s : State) : State := if s.evtReady then s.formEvt else s

/-! ### Records that age (R11, R18, R30, R31, R121) -/

/-- A recorded loop time, emptied once loop time has run 2³⁰ µs past it. -/
def ageOut (now : LoopTime) (r : Option LoopTime) : Option LoopTime :=
  match r with
  | some t => if agedAt now t then none else some t
  | none => none

/-- A node's order record, emptied 2³⁰ µs past its first-sample time (R11). -/
def ageOrder (now : LoopTime) (n : NodeState) : NodeState :=
  match n.order with
  | some r => if agedAt now r.first then { n with order := none } else n
  | none => n

/-- A feedback record whose oldest change is 2³⁰ µs old (R121). -/
def ageFeedbackChange (now : LoopTime) (r : FeedbackRecord) : FeedbackRecord :=
  match r.changes with
  | c :: _ => if agedAt now c.time then ageOldest r else r
  | [] => r

/-! ### Lines and readback (R145, R148) -/

/-- The readback input of a line changes: the comparison restarts (R148). -/
def State.readbackChanged (l : Line) (high : Bool) (s : State) : State :=
  s.onLine l fun x => { x with readback := compareTimer x.faulty x.driven high }

/-- The readback timer of a line expires: its health changes, and the comparison goes on under the new health (R148). -/
def State.readbackExpired (l : Line) (s : State) : State :=
  (s.onLine l fun x =>
    { x with
      faulty := !x.faulty
      readback := compareTimer (!x.faulty) x.driven (s.pins.readback.get l) }).equipmentChanged

/-! ### Approach and shutters (R117 to R120, R180) -/

/-- An assertion of the approach input, by site state (R117, R180). -/
def State.approachAsserted (s : State) : State :=
  match s.scu.site with
  | .armed | .closing => s.openShutters
  | .checking => if s.checkRunning then (s.abortCheck .approach).enterArmed else s
  | .offline | .passage => s

/-- A release of the approach input, by site state (R118). -/
def State.approachReleased (s : State) : State :=
  match s.scu.site with
  | .armed => s.closeWaitApproach
  | .offline | .checking | .passage | .closing => s

/-- BRG after a change of one feedback input: the record, the timer that stops, the fault that now agrees (R119, R121). -/
def changeFeedback (now : LoopTime) (rail : Rail) (isOpen : Bool) (b : Brg) : Brg :=
  { b with
    records := b.records.set rail (joinFeedback ⟨now, isOpen⟩ (b.records.get rail))
    openTimers := if isOpen then b.openTimers.set rail none else b.openTimers
    closeTimers := if isOpen then b.closeTimers else b.closeTimers.set rail none
    faults := b.faults.set rail (dropFault (linesOpen b) isOpen (b.faults.get rail)) }

/-- An open timer expires: the shutter fault is entered, and in PASSAGE the not-open mark is set (R119, R120). -/
def State.openTimerExpired (rail : Rail) (s : State) : State :=
  let t := (s.onBrg fun b =>
    { b with
      openTimers := b.openTimers.set rail none
      faults := b.faults.set rail (some .fromOpen) }).equipmentChanged
  if s.scu.site = .passage then t.onPassage (Passage.setNotOpen rail) else t

/-- A close timer expires: the shutter fault is entered (R119). -/
def State.closeTimerFault (rail : Rail) (s : State) : State :=
  (s.onBrg fun b =>
    { b with
      closeTimers := b.closeTimers.set rail none
      faults := b.faults.set rail (some .fromClose) }).equipmentChanged

/-! ### Timers of the passage and of Site Control -/

/-- The standing timer expires (R43). -/
def standEpisode (p : Passage) : Passage :=
  { p with
    standing := none
    flags := { p.flags with stood := true }
    counters := { p.counters with standing := bump p.counters.standing } }

/-- The clear hold expires: the passage ends by its counts (R44). -/
def State.clearHoldEnd (s : State) : State :=
  match s.passage with
  | some p => if s.scu.site = .passage ∧ expired p.clear then s.endPassage (clearDisposition p) else s
  | none => s

/-- The interval timer expires: a check is due, and starts at once where it may (R181). -/
def State.intervalEnd (s : State) : State :=
  let t := s.onScu fun u => { u with interval := none, due := true }
  if t.mayCheck then t.enterChecking 0 else t

/-- A change made when a condition holds. -/
def whenever (b : Bool) (f : State → State) (s : State) : State := if b then f s else s

/-- An input's row: the input shows its new level with or without supply, and the part acts on a change while powered (R115, R119, R148; notes/assumptions/3.md). -/
def pinRow (dt : Nat) (changed : State → Bool) (f : State → State) (pins : Pins → Pins) (s : State) : Host.Outcome State Fault Refusal :=
  if s.powered then
    .next (whenever (changed s) f { s.elapse dt with pins := pins s.pins })
  else .next { s with pins := pins s.pins }

/-! ### The meanings -/

/-- POWER_ON (R182). -/
def execPowerOn (s : State) : Host.Outcome State Fault Refusal := .next s.powerUp

/-- STORE_COMPLETE (R184). -/
def execStoreComplete (dt : Nat) (failed : Option Nat) (s : State) : Host.Outcome State Fault Refusal :=
  timed dt (fun t => (t.completeStore failed).drain) s

/-- FRAME_RECEIVED (R188). -/
def execFrameReceived (dt : Nat) (rate : Rate) (bytes : List Byte) (s : State) : Host.Outcome State Fault Refusal :=
  timed dt (State.receive rate bytes) s

/-- FRAME_SEND_COMPLETE (R189). -/
def execFrameSendComplete (dt : Nat) (s : State) : Host.Outcome State Fault Refusal := timed dt State.endSending s

/-- TIM_FRAME_DUE (R189). -/
def execTimFrameDue (dt : Nat) (s : State) : Host.Outcome State Fault Refusal := timed dt State.timDue s

/-- RPT_FRAME_SEND (R160). -/
def execRptFrameSend (dt : Nat) (s : State) : Host.Outcome State Fault Refusal := timed dt State.nextRpt s

/-- EVT_FRAME_SEND (R165). -/
def execEvtFrameSend (dt : Nat) (s : State) : Host.Outcome State Fault Refusal := timed dt State.nextEvt s

/-- HOLD_OFF_EXPIRY (R165). -/
def execHoldOffExpiry (dt : Nat) (s : State) : Host.Outcome State Fault Refusal :=
  timed dt (fun t => whenever (expired t.rps.holdOff) (State.onRps fun r => { r with holdOff := none }) t) s

/-- QUIET_TIMER_EXPIRY (R187). -/
def execQuietTimerExpiry (dt : Nat) (s : State) : Host.Outcome State Fault Refusal :=
  timed dt (fun t => whenever (t.lif.locked && expired t.lif.quiet) State.loseLoop t) s

/-- SEARCH_DWELL_EXPIRY (R187). -/
def execSearchDwellExpiry (dt : Nat) (s : State) : Host.Outcome State Fault Refusal :=
  timed dt (fun t => whenever (!t.lif.locked && expired t.lif.dwell)
    (State.onLif fun l => { l with rate := nextRate l.rate, dwell := some Config.searchDwell }) t) s

/-- STRIP_ADDRESS_TIMEOUT (R190). -/
def execStripAddressTimeout (dt : Nat) (s : State) : Host.Outcome State Fault Refusal :=
  timed dt (fun t => whenever (t.lif.strip.any fun p => expired p.timer) (State.onLif fun l => { l with strip := none }) t) s

/-- SUPERVISION_TIMER_EXPIRY (R198). -/
def execSupervisionTimerExpiry (dt : Nat) (s : State) : Host.Outcome State Fault Refusal :=
  timed dt (fun t => whenever (expired t.lif.supTimer) State.loseController t) s

/-- NODE_SILENCE_EXPIRY (R6). -/
def execNodeSilenceExpiry (dt : Nat) (node : Nat) (s : State) : Host.Outcome State Fault Refusal :=
  timed dt (fun t => whenever (expired (t.node node).timer)
    (fun u => (u.onNode node fun n => { n with silent := true, timer := none }).equipmentChanged) t) s

/-- AMBIENT_GATE_END (R16). -/
def execAmbientGateEnd (dt : Nat) (s : State) : Host.Outcome State Fault Refusal :=
  timed dt (fun t => whenever (t.sin.gateLeft == 0) State.endGate t) s

/-- ORDER_RECORD_AGED (R11). -/
def execOrderRecordAged (dt : Nat) (node : Nat) (s : State) : Host.Outcome State Fault Refusal :=
  timed dt (fun t => t.onNode node (ageOrder t.now)) s

/-- RELEASE_RECORD_AGED (R18). -/
def execReleaseRecordAged (dt : Nat) (s : State) : Host.Outcome State Fault Refusal :=
  timed dt (fun t => t.onSin fun x => { x with released := ageOut t.now x.released }) s

/-- TIME_ORDER_RECORD_AGED (R30). -/
def execTimeOrderRecordAged (dt : Nat) (s : State) : Host.Outcome State Fault Refusal :=
  timed dt (fun t => t.onPassage fun p => { p with timeOrder := ageOut t.now p.timeOrder }) s

/-- DOUBLE_PULSE_RECORD_AGED (R31). -/
def execDoublePulseRecordAged (dt : Nat) (wt : Transducer) (dir : Direction) (s : State) : Host.Outcome State Fault Refusal :=
  timed dt (fun t => t.onPassage fun p => setPulseRecord wt dir (ageOut t.now (pulseRecord p wt dir)) p) s

/-- FEEDBACK_RECORD_AGED (R121). -/
def execFeedbackRecordAged (dt : Nat) (rail : Rail) (s : State) : Host.Outcome State Fault Refusal :=
  timed dt (fun t => t.onBrg fun b => { b with records := b.records.set rail (ageFeedbackChange t.now (b.records.get rail)) }) s

/-- DELAY_LINE_RELEASE (R19). -/
def execDelayLineRelease (dt : Nat) (s : State) : Host.Outcome State Fault Refusal := timed dt State.releaseDue s

/-- CROSSING_TAKE (R26). -/
def execCrossingTake (dt : Nat) (s : State) : Host.Outcome State Fault Refusal := timed dt State.takeHeadCrossing s

/-- STANDING_TIMER_EXPIRY (R43). -/
def execStandingTimerExpiry (dt : Nat) (s : State) : Host.Outcome State Fault Refusal :=
  timed dt (fun t => whenever (t.passage.any fun p => expired p.standing) (State.onPassage standEpisode) t) s

/-- CLEAR_HOLD_EXPIRY (R44). -/
def execClearHoldExpiry (dt : Nat) (s : State) : Host.Outcome State Fault Refusal := timed dt State.clearHoldEnd s

/-- LOSS_TIMER_EXPIRY (R176). -/
def execLossTimerExpiry (dt : Nat) (s : State) : Host.Outcome State Fault Refusal :=
  timed dt (fun t => whenever (t.scu.site == .passage && expired t.scu.loss) (State.endPassage .aborted) t) s

/-- CLOSING_STEPS (R177). -/
def execClosingSteps (dt : Nat) (s : State) : Host.Outcome State Fault Refusal :=
  timed dt (fun t => whenever (t.scu.site == .closing) (fun u => u.runClosing.drain) t) s

/-- MARK_TAKEN (R47). -/
def execMarkTaken (dt : Nat) (s : State) : Host.Outcome State Fault Refusal :=
  timed dt (fun t => whenever t.markDue State.takeMark t) s

/-- PULSE_END (R146). -/
def execPulseEnd (dt : Nat) (line : Line) (s : State) : Host.Outcome State Fault Refusal :=
  timed dt (fun t => whenever (expired (t.aou.lines.get line).pulse)
    (fun u => (u.onLine line fun x => { x with pulse := none }).judgeLine line) t) s

/-- HOLD_TIMER_EXPIRY (R143). -/
def execHoldTimerExpiry (dt : Nat) (line : Line) (s : State) : Host.Outcome State Fault Refusal :=
  timed dt (fun t => whenever (expired (t.aou.lines.get line).hold)
    (fun u => (u.onLine line fun x => { x with hold := none }).judgeLine line) t) s

/-- ENVELOPE_EDGE (R145). -/
def execEnvelopeEdge (dt : Nat) (line : Line) (s : State) : Host.Outcome State Fault Refusal :=
  timed dt (State.judgeLine line) s

/-- READBACK_INPUT_CHANGE (R148). -/
def execReadbackInputChange (dt : Nat) (line : Line) (high : Bool) (s : State) : Host.Outcome State Fault Refusal :=
  pinRow dt (fun t => t.pins.readback.get line != high) (State.readbackChanged line high)
    (fun p => { p with readback := p.readback.set line high }) s

/-- READBACK_TIMER_EXPIRY (R148). -/
def execReadbackTimerExpiry (dt : Nat) (line : Line) (s : State) : Host.Outcome State Fault Refusal :=
  timed dt (fun t => whenever (expired (t.aou.lines.get line).readback) (State.readbackExpired line) t) s

/-- APPROACH_ASSERTION (R117). -/
def execApproachAssertion (dt : Nat) (s : State) : Host.Outcome State Fault Refusal :=
  pinRow dt (fun t => !t.pins.approach) State.approachAsserted (fun p => { p with approach := true }) s

/-- APPROACH_RELEASE (R118). -/
def execApproachRelease (dt : Nat) (s : State) : Host.Outcome State Fault Refusal :=
  pinRow dt (fun t => t.pins.approach) State.approachReleased (fun p => { p with approach := false }) s

/-- CLOSE_TIMER_EXPIRY (R118). -/
def execCloseTimerExpiry (dt : Nat) (s : State) : Host.Outcome State Fault Refusal :=
  timed dt (fun t => whenever (expired t.brg.closeTimer) State.closeShutters t) s

/-- SHUTTER_FEEDBACK_CHANGE (R119). -/
def execShutterFeedbackChange (dt : Nat) (rail : Rail) (isOpen : Bool) (s : State) : Host.Outcome State Fault Refusal :=
  pinRow dt (fun t => t.pins.feedback.get rail != isOpen)
    (fun t => t.withBrg (changeFeedback t.now rail isOpen))
    (fun p => { p with feedback := p.feedback.set rail isOpen }) s

/-- FEEDBACK_OPEN_TIMER_EXPIRY (R119). -/
def execFeedbackOpenTimerExpiry (dt : Nat) (rail : Rail) (s : State) : Host.Outcome State Fault Refusal :=
  timed dt (fun t => whenever (expired (t.brg.openTimers.get rail)) (State.openTimerExpired rail) t) s

/-- FEEDBACK_CLOSE_TIMER_EXPIRY (R119). -/
def execFeedbackCloseTimerExpiry (dt : Nat) (rail : Rail) (s : State) : Host.Outcome State Fault Refusal :=
  timed dt (fun t => whenever (expired (t.brg.closeTimers.get rail)) (State.closeTimerFault rail) t) s

/-- POWER_SETTLE_END (R178). -/
def execPowerSettleEnd (dt : Nat) (s : State) : Host.Outcome State Fault Refusal :=
  timed dt (fun t => whenever (expired t.scu.powerTimer)
    (State.onScu fun u => { u with powerTimer := none, powerMark := true }) t) s

/-- SETTLE_WAIT_END (R178). -/
def execSettleWaitEnd (dt : Nat) (s : State) : Host.Outcome State Fault Refusal :=
  timed dt (fun t => whenever (t.scu.check == .run .settle && expired t.scu.settle && t.scu.powerMark) State.endSettle t) s

/-- CHECK_REFERENCE_PHASE (R179). -/
def execCheckReferencePhase (dt : Nat) (s : State) : Host.Outcome State Fault Refusal :=
  timed dt (fun t => whenever (t.scu.check == .run .capture && expired t.scu.phaseTimer)
    (State.onScu fun u => { u with check := .run .reference, phaseTimer := none }) t) s

/-- CHECK_END (R179). -/
def execCheckEnd (dt : Nat) (s : State) : Host.Outcome State Fault Refusal :=
  timed dt (fun t => whenever (t.scu.check == .run .reference && expired t.scu.endTimer) State.endCheck t) s

/-- INTERVAL_TIMER_EXPIRY (R181). -/
def execIntervalTimerExpiry (dt : Nat) (s : State) : Host.Outcome State Fault Refusal :=
  timed dt (fun t => whenever (expired t.scu.interval) State.intervalEnd t) s

/-- DUE_CHECK_START (R181). -/
def execDueCheckStart (dt : Nat) (s : State) : Host.Outcome State Fault Refusal :=
  timed dt (fun t => whenever (t.scu.due && t.mayCheck) (State.enterChecking 0) t) s

/-- POWER_LOSS (R184). -/
def execPowerLoss (dt : Nat) (writing : Nat) (s : State) : Host.Outcome State Fault Refusal :=
  timed dt (State.powerDown writing) s

/-- AMBIENT_OSCILLATOR_CYCLE (R16). -/
def execAmbientOscillatorCycle (dt : Nat) (s : State) : Host.Outcome State Fault Refusal :=
  timed dt (State.onSin fun x => { x with gateCount := satInc Config.gateCountMax x.gateCount }) s

end Sys2Proof.Machine
end

