-- ==== Sys2Proof/Machine/Dispatch.lean ====
section
/-! DEFINITION. The meaning of every command: one arm per constructor of Instr. -/

namespace Sys2Proof.Machine

/-- What a command does to everything but the queue of pending commands. -/
def exec (i : Instr) (s : State) : Host.Outcome State Fault Refusal :=
  match i with
  | .powerOn => Sys2Proof.Machine.execPowerOn s
  | .readIdentity dt tag args => Sys2Proof.Machine.execReadIdentity dt tag args s
  | .readStatus dt tag args => Sys2Proof.Machine.execReadStatus dt tag args s
  | .readLive dt tag args => Sys2Proof.Machine.execReadLive dt tag args s
  | .writeTable dt tag args => Sys2Proof.Machine.execWriteTable dt tag args s
  | .readTable dt tag args => Sys2Proof.Machine.execReadTable dt tag args s
  | .start dt tag args => Sys2Proof.Machine.execStart dt tag args s
  | .stop dt tag args => Sys2Proof.Machine.execStop dt tag args s
  | .restart dt tag args => Sys2Proof.Machine.execRestart dt tag args s
  | .runCheck dt tag args => Sys2Proof.Machine.execRunCheck dt tag args s
  | .forceClose dt tag args => Sys2Proof.Machine.execForceClose dt tag args s
  | .readAlarms dt tag args => Sys2Proof.Machine.execReadAlarms dt tag args s
  | .readReport dt tag args => Sys2Proof.Machine.execReadReport dt tag args s
  | .releaseReport dt tag args => Sys2Proof.Machine.execReleaseReport dt tag args s
  | .readSummaries dt tag args => Sys2Proof.Machine.execReadSummaries dt tag args s
  | .ackEvents dt tag args => Sys2Proof.Machine.execAckEvents dt tag args s
  | .setEventMask dt tag args => Sys2Proof.Machine.execSetEventMask dt tag args s
  | .clearOutputs dt tag args => Sys2Proof.Machine.execClearOutputs dt tag args s
  | .testOutputs dt tag args => Sys2Proof.Machine.execTestOutputs dt tag args s
  | .storeTables dt tag args => Sys2Proof.Machine.execStoreTables dt tag args s
  | .setStation dt tag args => Sys2Proof.Machine.execSetStation dt tag args s
  | .storeComplete dt failed => Sys2Proof.Machine.execStoreComplete dt failed s
  | .frameReceived dt rate bytes => Sys2Proof.Machine.execFrameReceived dt rate bytes s
  | .frameSendComplete dt => Sys2Proof.Machine.execFrameSendComplete dt s
  | .timFrameDue dt => Sys2Proof.Machine.execTimFrameDue dt s
  | .rptFrameSend dt => Sys2Proof.Machine.execRptFrameSend dt s
  | .evtFrameSend dt => Sys2Proof.Machine.execEvtFrameSend dt s
  | .holdOffExpiry dt => Sys2Proof.Machine.execHoldOffExpiry dt s
  | .quietTimerExpiry dt => Sys2Proof.Machine.execQuietTimerExpiry dt s
  | .searchDwellExpiry dt => Sys2Proof.Machine.execSearchDwellExpiry dt s
  | .stripAddressTimeout dt => Sys2Proof.Machine.execStripAddressTimeout dt s
  | .supervisionTimerExpiry dt => Sys2Proof.Machine.execSupervisionTimerExpiry dt s
  | .nodeSilenceExpiry dt node => Sys2Proof.Machine.execNodeSilenceExpiry dt node s
  | .ambientGateEnd dt => Sys2Proof.Machine.execAmbientGateEnd dt s
  | .orderRecordAged dt node => Sys2Proof.Machine.execOrderRecordAged dt node s
  | .releaseRecordAged dt => Sys2Proof.Machine.execReleaseRecordAged dt s
  | .timeOrderRecordAged dt => Sys2Proof.Machine.execTimeOrderRecordAged dt s
  | .doublePulseRecordAged dt wt dir => Sys2Proof.Machine.execDoublePulseRecordAged dt wt dir s
  | .feedbackRecordAged dt rail => Sys2Proof.Machine.execFeedbackRecordAged dt rail s
  | .delayLineRelease dt => Sys2Proof.Machine.execDelayLineRelease dt s
  | .crossingTake dt => Sys2Proof.Machine.execCrossingTake dt s
  | .standingTimerExpiry dt => Sys2Proof.Machine.execStandingTimerExpiry dt s
  | .clearHoldExpiry dt => Sys2Proof.Machine.execClearHoldExpiry dt s
  | .lossTimerExpiry dt => Sys2Proof.Machine.execLossTimerExpiry dt s
  | .closingSteps dt => Sys2Proof.Machine.execClosingSteps dt s
  | .markTaken dt => Sys2Proof.Machine.execMarkTaken dt s
  | .pulseEnd dt line => Sys2Proof.Machine.execPulseEnd dt line s
  | .holdTimerExpiry dt line => Sys2Proof.Machine.execHoldTimerExpiry dt line s
  | .envelopeEdge dt line => Sys2Proof.Machine.execEnvelopeEdge dt line s
  | .readbackInputChange dt line high => Sys2Proof.Machine.execReadbackInputChange dt line high s
  | .readbackTimerExpiry dt line => Sys2Proof.Machine.execReadbackTimerExpiry dt line s
  | .approachAssertion dt => Sys2Proof.Machine.execApproachAssertion dt s
  | .approachRelease dt => Sys2Proof.Machine.execApproachRelease dt s
  | .closeTimerExpiry dt => Sys2Proof.Machine.execCloseTimerExpiry dt s
  | .shutterFeedbackChange dt rail isOpen => Sys2Proof.Machine.execShutterFeedbackChange dt rail isOpen s
  | .feedbackOpenTimerExpiry dt rail => Sys2Proof.Machine.execFeedbackOpenTimerExpiry dt rail s
  | .feedbackCloseTimerExpiry dt rail => Sys2Proof.Machine.execFeedbackCloseTimerExpiry dt rail s
  | .powerSettleEnd dt => Sys2Proof.Machine.execPowerSettleEnd dt s
  | .settleWaitEnd dt => Sys2Proof.Machine.execSettleWaitEnd dt s
  | .checkReferencePhase dt => Sys2Proof.Machine.execCheckReferencePhase dt s
  | .checkEnd dt => Sys2Proof.Machine.execCheckEnd dt s
  | .intervalTimerExpiry dt => Sys2Proof.Machine.execIntervalTimerExpiry dt s
  | .dueCheckStart dt => Sys2Proof.Machine.execDueCheckStart dt s
  | .powerLoss dt writing => Sys2Proof.Machine.execPowerLoss dt writing s
  | .ambientOscillatorCycle dt => Sys2Proof.Machine.execAmbientOscillatorCycle dt s

end Sys2Proof.Machine
end

