-- ==== Sys2Proof/Machine/Step.lean ====
section
/-! DEFINITION. One step: the command at the front of the queue, or on an empty queue the part's own earliest due step. -/

namespace Sys2Proof.Machine

/-! ### What falls due by itself (notes/assumptions/2.md) -/

/-- A step that falls due after a wait in µs of loop time. -/
structure Due where
  wait : Nat
  act : Instr
deriving DecidableEq, Repr

/-- A step due when a timer runs out. -/
def dueTimer (t : Option Nat) (act : Nat → Instr) : Option Due := t.map fun n => ⟨n, act n⟩

/-- A step due at once. -/
def dueNow (b : Bool) (act : Nat → Instr) : Option Due := if b then some ⟨0, act 0⟩ else none

/-- The µs until loop time reaches a time, 0 once it has (R1). -/
def untilTime (now t : LoopTime) : Nat := (timeDiff t now).toNat

/-- A step due when loop time reaches a time. -/
def dueAt (now : LoopTime) (t : Option LoopTime) (act : Nat → Instr) : Option Due :=
  t.map fun x => ⟨untilTime now x, act (untilTime now x)⟩

/-- A step due when loop time has run 2³⁰ µs past a time. -/
def dueAged (now : LoopTime) (t : Option LoopTime) (act : Nat → Instr) : Option Due :=
  t.map fun x =>
    let n := ((Config.recordAge : Int) - timeDiff now x).toNat
    ⟨n, act n⟩

/-- The command row of a waiting command's code (R200). -/
def commandRow (c : Cmd) : Option Instr :=
  match c.code with
  | 1 => some (.readIdentity 0 c.tag c.args)
  | 2 => some (.readStatus 0 c.tag c.args)
  | 3 => some (.readLive 0 c.tag c.args)
  | 4 => some (.writeTable 0 c.tag c.args)
  | 5 => some (.readTable 0 c.tag c.args)
  | 6 => some (.start 0 c.tag c.args)
  | 7 => some (.stop 0 c.tag c.args)
  | 8 => some (.restart 0 c.tag c.args)
  | 9 => some (.runCheck 0 c.tag c.args)
  | 10 => some (.forceClose 0 c.tag c.args)
  | 11 => some (.readAlarms 0 c.tag c.args)
  | 12 => some (.readReport 0 c.tag c.args)
  | 13 => some (.releaseReport 0 c.tag c.args)
  | 14 => some (.readSummaries 0 c.tag c.args)
  | 15 => some (.ackEvents 0 c.tag c.args)
  | 16 => some (.setEventMask 0 c.tag c.args)
  | 17 => some (.clearOutputs 0 c.tag c.args)
  | 18 => some (.testOutputs 0 c.tag c.args)
  | 19 => some (.storeTables 0 c.tag c.args)
  | 20 => some (.setStation 0 c.tag c.args)
  | _ => none

/-- The head command, where LIF may take it (R192). -/
def State.dueCommand (s : State) : Option Due :=
  match s.lif.queue with
  | [] => none
  | c :: _ => if s.lif.free then (commandRow c).map fun i => ⟨0, i⟩ else none

/-- The steps that are due at once. -/
def State.dueAtOnce (s : State) : List (Option Due) :=
  [dueNow (!s.axt.queue.isEmpty && s.scu.site != .closing) .crossingTake,
   dueNow (s.scu.site == .closing) .closingSteps,
   s.dueCommand,
   dueNow s.readReady.isSome .rptFrameSend,
   dueNow s.evtReady .evtFrameSend,
   dueNow (s.scu.due && s.mayCheck) .dueCheckStart]

/-- The timers of LIF and RPS. -/
def State.dueLoop (s : State) : List (Option Due) :=
  [dueTimer (if s.lif.locked then s.lif.quiet else none) .quietTimerExpiry,
   dueTimer (if s.lif.locked then none else s.lif.dwell) .searchDwellExpiry,
   dueTimer (if s.lif.locked then s.lif.timTimer else none) .timFrameDue,
   dueTimer (s.lif.strip.bind (·.timer)) .stripAddressTimeout,
   dueTimer s.lif.supTimer .supervisionTimerExpiry,
   dueTimer s.rps.holdOff .holdOffExpiry]

/-- The timers, the delay line and the records of SIN. -/
def State.dueIntake (s : State) : List (Option Due) :=
  (List.range' 1 12).map (fun n => dueTimer (s.node n).timer fun d => .nodeSilenceExpiry d n)
  ++ [dueTimer (some s.sin.gateLeft) .ambientGateEnd,
      dueAt s.now (s.sin.line.head?.map fun f => later f.last s.holdDelay) .delayLineRelease,
      dueAged s.now s.sin.released .releaseRecordAged]
  ++ (List.range' 1 12).map fun n => dueAged s.now ((s.node n).order.map (·.first)) fun d => .orderRecordAged d n

/-- The four transducers in order. -/
def allWts : List Transducer := [.wt1, .wt2, .wt3, .wt4]

/-- The timers, marks and records of a passage. -/
def State.duePassage (s : State) : List (Option Due) :=
  match s.passage with
  | none => []
  | some p =>
    [dueAt s.now (p.marks.head?.map (·.time)) .markTaken,
     dueTimer p.standing .standingTimerExpiry,
     dueTimer (if s.scu.site = .passage then p.clear else none) .clearHoldExpiry,
     dueAged s.now p.timeOrder .timeOrderRecordAged]
    ++ allWts.flatMap fun w =>
        [dueAged s.now (pulseRecord p w .up) fun d => .doublePulseRecordAged d w .up,
         dueAged s.now (pulseRecord p w .down) fun d => .doublePulseRecordAged d w .down]

/-- The timers and records of BRG for one scanner. -/
def State.dueScanner (s : State) (r : Rail) : List (Option Due) :=
  [dueTimer (s.brg.openTimers.get r) fun d => .feedbackOpenTimerExpiry d r,
   dueTimer (s.brg.closeTimers.get r) fun d => .feedbackCloseTimerExpiry d r,
   dueAged s.now ((s.brg.records.get r).changes.head?.map (·.time)) fun d => .feedbackRecordAged d r]

/-- The wait for the next edge of an asserted ENVELOPE line, all edges being multiples of 125 ms of its phase (R145). -/
def State.edgeWait (s : State) (l : Line) : Option Nat :=
  let e := s.outputEntry l
  let x := s.aou.lines.get l
  if x.asserted ∧ e.mode = .envelope then
    some (if x.driven = drivenLevel e x.asserted x.phase then 125000 - x.phase % 125000 else 0)
  else none

/-- The timers and edges of one line. -/
def State.dueLine (s : State) (l : Line) : List (Option Due) :=
  let x := s.aou.lines.get l
  [dueTimer x.pulse fun d => .pulseEnd d l,
   dueTimer x.hold fun d => .holdTimerExpiry d l,
   dueTimer x.readback fun d => .readbackTimerExpiry d l,
   dueTimer (s.edgeWait l) fun d => .envelopeEdge d l]

/-- The timers of SCU, and the shutter close timer. -/
def State.dueControl (s : State) : List (Option Due) :=
  [dueTimer s.brg.closeTimer .closeTimerExpiry,
   dueTimer s.scu.powerTimer .powerSettleEnd,
   dueTimer (if s.scu.check = .run .settle ∧ s.scu.powerMark then s.scu.settle else none) .settleWaitEnd,
   dueTimer (if s.scu.check = .run .capture then s.scu.phaseTimer else none) .checkReferencePhase,
   dueTimer (if s.scu.check = .run .reference then s.scu.endTimer else none) .checkEnd,
   dueTimer s.scu.interval .intervalTimerExpiry,
   dueTimer (if s.scu.site = .passage then s.scu.loss else none) .lossTimerExpiry]

/-- The earlier of two due steps, the first where they are due together. -/
def sooner (a b : Option Due) : Option Due :=
  match a, b with
  | none, y => y
  | x, none => x
  | some x, some y => if y.wait < x.wait then some y else some x

/-- The part's own earliest due step; none without supply. -/
def State.nextDue (s : State) : Option Instr :=
  if s.powered then
    ((s.dueAtOnce ++ s.dueIntake ++ s.duePassage ++ s.dueLoop ++ s.dueScanner .left ++ s.dueScanner .right
      ++ allLines.flatMap s.dueLine ++ s.dueControl).foldl sooner none).map (·.act)
  else none

/-! ### The step -/

/-- One step: the command at the front of the queue with the queue's rest; on an empty queue the part's own earliest due step, or nothing (notes/assumptions/2.md). -/
def step (s : State) : Host.Outcome State Fault Refusal :=
  match s.pending with
  | i :: rest => exec i { s with pending := rest }
  | [] =>
    match s.nextDue with
    | some i => exec i s
    | none => .next s

/-- The command a word of the table spells is put at the front of the queue; no word spells one. -/
def State.withFetchWord (s : State) (nbits w : Nat) : State :=
  match decodeTableWord nbits w with
  | some i => { s with pending := i :: s.pending }
  | none => s

end Sys2Proof.Machine
end

