-- ==== Sys2Proof/Safety.lean ====
section
/-! DEFINITION. What every step keeps: each collection within the capacity its rule gives it, the first law of the counts, and the site state in step with the passage context and the channel check; and the words the statements are written in. -/

namespace Sys2Proof.Machine

/-- The own frames of one kind that wait (R189). -/
def waitingOf (k : OwnKind) (l : List OwnFrame) : Nat := (l.filter fun f => f.kind == k).length

/-- The ANS frames that wait and are not REFUSED_BUSY answers (R189, R192). -/
def plainAnswers (l : List OwnFrame) : Nat := (l.filter fun f => f.kind == .ans && !f.busy).length

/-- LIF within its capacities: four commands, sixteen frames to forward, and of own frames one EVT, one RPT, and four ANS, of which three are REFUSED_BUSY answers and the fourth waits only while no command is in progress (R189, R191, R192). -/
structure Lif.Within (l : Lif) : Prop where
  queue : l.queue.length ≤ Config.commandQueueDepth
  forward : l.forward.length ≤ Config.forwardDepth
  evt : waitingOf .evt l.own ≤ 1
  rpt : waitingOf .rpt l.own ≤ 1
  busy : busyWaiting l ≤ Config.busyAnswers
  plain : plainAnswers l.own ≤ 1
  waits : l.inProgress.isSome = true → plainAnswers l.own = 0

/-- The first law of the counts: N ≥ c₁ ≥ c₂ ≥ c₃ ≥ c₄, with N at its limit at most (R32, R33). -/
structure Counts.Ordered (c : Counts) (total : Nat) : Prop where
  exit : c.c4 ≤ c.c3
  third : c.c3 ≤ c.c2
  second : c.c2 ≤ c.c1
  entry : c.c1 ≤ total
  limit : total ≤ Config.axleTotalMax

/-- An axle record within its capacities: two crossings of history, and a mark list with at most one entry per window and bound (R38, R47). -/
structure AxleRecord.Within (a : AxleRecord) : Prop where
  history : a.history.length ≤ 2
  marks : (a.marks.map fun m => (m.window, m.bound)).Nodup

/-- A passage context within its capacities: the counts in order, a record for each of the first 1,024 axles, each within its own, and the schedule, the context table and the vehicle list within their depths (R32, R36, R37, R46, R54, R93). -/
structure Passage.Within (p : Passage) : Prop where
  counts : p.counts.Ordered p.total
  axles : p.axles.length = min p.total Config.axleRecords
  records : ∀ a ∈ p.axles, a.Within
  marks : p.marks.length ≤ Config.markScheduleDepth
  contexts : p.contexts.length ≤ Config.contextTableDepth
  vehicles : p.vehicles.length ≤ Config.vehicleListDepth

/-- A passage is current exactly in PASSAGE and CLOSING (R48, R169). -/
def passageSite (x : SiteState) : Bool := x == .passage || x == .closing

/-- The check status shows a running check (R178). -/
def runningStatus (c : CheckStatus) : Bool :=
  match c with
  | .run _ => true
  | .idle | .ended | .aborted _ => false

/-- The site state agrees with the passage context and the check status: a passage context stands exactly in PASSAGE and CLOSING, and a check runs exactly in CHECKING (R48, R169, R178). -/
structure State.Coupled (s : State) : Prop where
  passage : s.passage.isSome = passageSite s.scu.site
  check : runningStatus s.scu.check = (s.scu.site == .checking)

/-- Every collection of the part within its capacity (R17, R18, R26, R121, R135, R150, R163 and the rules above), and the site state coupled. -/
structure State.Within (s : State) : Prop where
  lif : s.lif.Within
  crossings : s.axt.queue.length ≤ Config.crossingQueueDepth
  passage : ∀ p, s.passage = some p → p.Within
  alarms : s.aou.alarms.entries.length ≤ Config.alarmListDepth
  slots : s.rps.slots.length = 4
  ring : s.rps.ring.length ≤ Config.summaryRingDepth
  line : s.sin.line.length ≤ Config.delayLineDepth
  history : s.sin.history.length ≤ Config.ambientDepth
  leftRecord : s.brg.records.left.changes.length ≤ Config.feedbackDepth
  rightRecord : s.brg.records.right.changes.length ≤ Config.feedbackDepth
  coupled : s.Coupled

/-! ### Rows and what they may change -/

/-- The loop time that a row lets run before it acts. -/
def runTime (i : Instr) : Nat :=
  match i with
  | .powerOn => 0
  | .readIdentity dt _ _ | .readStatus dt _ _ | .readLive dt _ _ | .writeTable dt _ _ | .readTable dt _ _ | .start dt _ _
  | .stop dt _ _ | .restart dt _ _ | .runCheck dt _ _ | .forceClose dt _ _ | .readAlarms dt _ _ | .readReport dt _ _
  | .releaseReport dt _ _ | .readSummaries dt _ _ | .ackEvents dt _ _ | .setEventMask dt _ _ | .clearOutputs dt _ _
  | .testOutputs dt _ _ | .storeTables dt _ _ | .setStation dt _ _ | .storeComplete dt _ | .frameReceived dt _ _
  | .frameSendComplete dt | .timFrameDue dt | .rptFrameSend dt | .evtFrameSend dt | .holdOffExpiry dt
  | .quietTimerExpiry dt | .searchDwellExpiry dt | .stripAddressTimeout dt | .supervisionTimerExpiry dt
  | .nodeSilenceExpiry dt _ | .ambientGateEnd dt | .orderRecordAged dt _ | .releaseRecordAged dt
  | .timeOrderRecordAged dt | .doublePulseRecordAged dt _ _ | .feedbackRecordAged dt _ | .delayLineRelease dt
  | .crossingTake dt | .standingTimerExpiry dt | .clearHoldExpiry dt | .lossTimerExpiry dt | .closingSteps dt
  | .markTaken dt | .pulseEnd dt _ | .holdTimerExpiry dt _ | .envelopeEdge dt _ | .readbackInputChange dt _ _
  | .readbackTimerExpiry dt _ | .approachAssertion dt | .approachRelease dt | .closeTimerExpiry dt
  | .shutterFeedbackChange dt _ _ | .feedbackOpenTimerExpiry dt _ | .feedbackCloseTimerExpiry dt _ | .powerSettleEnd dt
  | .settleWaitEnd dt | .checkReferencePhase dt | .checkEnd dt | .intervalTimerExpiry dt | .dueCheckStart dt
  | .powerLoss dt _ | .ambientOscillatorCycle dt => dt

/-- The site state may move from `a` to `b` in one row by a listed transition (R169). -/
def mayMove (a b : SiteState) : Bool :=
  match a, b with
  | .offline, .checking => true
  | .checking, .armed | .checking, .passage | .checking, .offline => true
  | .armed, .checking | .armed, .passage | .armed, .offline => true
  | .passage, .closing => true
  | .closing, .armed | .closing, .offline => true
  | _, _ => false

/-- The rows that give or take the supply (R182, R184). -/
def suppliesPower (i : Instr) : Bool :=
  match i with
  | .powerOn | .powerLoss _ _ => true
  | _ => false

/-- The rows of the local inputs (R115, R119, R148). -/
def movesPins (i : Instr) : Bool :=
  match i with
  | .readbackInputChange _ _ _ | .approachAssertion _ | .approachRelease _ | .shutterFeedbackChange _ _ _ => true
  | _ => false

/-- The row that writes the working tables (R193). -/
def writesTables (i : Instr) : Bool :=
  match i with
  | .writeTable _ _ _ => true
  | _ => false

/-- The row that ends the writing of the settings store (R184). -/
def writesStore (i : Instr) : Bool :=
  match i with
  | .storeComplete _ _ => true
  | _ => false

/-- The rows that commit tables (R24, R170, R175). -/
def commitsTables (i : Instr) : Bool :=
  match i with
  | .start _ _ _ | .restart _ _ _ => true
  | _ => false

/-- The row that writes the event mask (R167). -/
def writesMask (i : Instr) : Bool :=
  match i with
  | .setEventMask _ _ _ => true
  | _ => false

/-- The row that may start a passage, and so moves the next passage number (R27, R28). -/
def startsPassages (i : Instr) : Bool :=
  match i with
  | .crossingTake _ => true
  | _ => false

/-- The rows that may change a report slot, the seal order or the summary ring (R151, R155, R161 to R163, R175). -/
def writesReports (i : Instr) : Bool :=
  match i with
  | .restart _ _ _ | .readReport _ _ _ | .releaseReport _ _ _ | .rptFrameSend _ | .crossingTake _ | .closingSteps _ => true
  | _ => false

/-- The rows that may change the alarm list: those that hand samples or crossings to the measuring blocks, CLOSING and RESTART (R135 to R138, R175). -/
def writesAlarms (i : Instr) : Bool :=
  match i with
  | .restart _ _ _ | .frameReceived _ _ _ | .delayLineRelease _ | .crossingTake _ | .closingSteps _ => true
  | _ => false

/-- The inputs after a row (R115, R119, R148). -/
def pinsAfter (i : Instr) (p : Pins) : Pins :=
  match i with
  | .readbackInputChange _ line high => { p with readback := p.readback.set line high }
  | .approachAssertion _ => { p with approach := true }
  | .approachRelease _ => { p with approach := false }
  | .shutterFeedbackChange _ rail isOpen => { p with feedback := p.feedback.set rail isOpen }
  | _ => p

/-! ### A command that LIF takes -/

/-- A command row finds LIF ready for it: the part is powered, LIF is free, and the command stands at the head of the queue or is handed over to an empty one (R192; notes/assumptions/6.md). -/
structure State.Ready (s : State) (code : Nat) (tag : Byte) (args : List Byte) : Prop where
  powered : s.powered = true
  free : s.lif.free = true
  head : s.lif.queue = [] ∨ ∃ rest, s.lif.queue = ⟨code, tag, args, false⟩ :: rest

/-- The part as LIF takes a command: the loop time that ran has run, and the command has left the queue. -/
def State.taken (dt : Nat) (s : State) : State :=
  (s.elapse dt).onLif fun l => { l with queue := l.queue.tail }

/-- The part after a command's answer: the ANS frame handed over or lost, and then the commands LIF answers by itself (R191, R192). -/
def State.ended (code : Nat) (tag : Byte) (a : AnswerCode) (data : List Byte) (s : State) : State :=
  (s.answer code tag a data).drain

/-! ### A frame that the part consumes -/

/-- A frame that passes its check reaches the part in LOCKED at the loop's rate, from another station, addressed to the part or broadcast (R187, R188). -/
structure State.Hears (s : State) (bytes : List Byte) (f : Frame) : Prop where
  powered : s.powered = true
  locked : s.lif.locked = true
  check : checkFrame bytes = some f
  foreign : ownSource s.lif f.source = false
  address : f.dest = s.lif.station ∨ f.dest = 255

/-- The part as a block takes such a frame: the loop time that ran has run, the quiet timer has restarted, and a broadcast frame has gone on to be forwarded (R187, R188). -/
def State.heard (dt : Nat) (f : Frame) (s : State) : State :=
  let t := (s.elapse dt).onLif fun l => { l with quiet := some s.quietLimit }
  if f.dest = s.lif.station then t else t.forwardFrame f.octets

/-- An SMP frame outside OFFLINE comes from a digitizer of the node table in the form its entry requires (R10). -/
structure State.Samples (s : State) (f : Frame) (node : Nat) (e : NodeEntry) : Prop where
  kind : f.kind = 1
  site : s.scu.site ≠ .offline
  station : nodeAt s.tables f.source = some node
  entry : nodeEntry s.tables node = some e
  digitizer : e.kind ≠ .transducer
  channels : byteAt f.payload 0 = e.channelCount
  least : 1 ≤ byteAt f.payload 1
  most : byteAt f.payload 1 ≤ 32
  length : f.payload.length = smpLength e.channelCount (byteAt f.payload 1)

/-! ### Words of the statements -/

/-- Section `k` of a store holds the content of some tables and an identity (R182). -/
def Holds (x : SettingsStore) (t : Tables) (d : Identity) (k : Nat) : Prop :=
  match k with
  | 0 => x.tables.site = t.site
  | 1 => x.tables.geometry = t.geometry
  | 2 => x.tables.nodes = t.nodes
  | 3 => x.tables.channels = t.channels
  | 4 => x.tables.conv.getD 0 [] = t.conv.getD 0 []
  | 5 => x.tables.conv.getD 1 [] = t.conv.getD 1 []
  | 6 => x.tables.conv.getD 2 [] = t.conv.getD 2 []
  | 7 => x.tables.conv.getD 3 [] = t.conv.getD 3 []
  | 8 => x.tables.zoneU = t.zoneU
  | 9 => x.tables.zoneD = t.zoneD
  | 10 => x.tables.speed = t.speed
  | 11 => x.tables.vehicle = t.vehicle
  | 12 => x.tables.threshold = t.threshold
  | 13 => x.tables.output = t.output
  | _ => x.identity = d

/-- An event kind is pending with its mark set (R164). -/
def State.raised (s : State) (k : EventKind) : Prop :=
  s.rps.pending.getLsbD (eventNumber k - 1) = true ∧ s.rps.marks.getLsbD (eventNumber k - 1) = true

/-- The passage of `s` has ended in `t` with a disposition: CLOSING is entered, the passage values but its end stand, and the shutters wait 2 s to close (R41, R44, R61, R118, R169, R176). -/
structure Ends (s t : State) (d : Disposition) : Prop where
  site : t.scu.site = .closing
  loss : t.scu.loss = none
  raised : t.raised .stateChanged
  shutter : t.brg.shutter = .closeWait
  closeTimer : t.brg.closeTimer = some 2000000
  passage : ∀ p, s.passage = some p → ∃ q, t.passage = some q
    ∧ q.endTime = some t.now ∧ q.disposition = some d
    ∧ q.standing = none ∧ q.clear = none ∧ q.marks = [] ∧ q.contexts = []
    ∧ q.number = p.number ∧ q.counts = p.counts ∧ q.total = p.total ∧ q.axles.length = p.axles.length
    ∧ (∀ a ∈ q.axles, a.finalSegment = segmentOf p.counts a.number)
    ∧ q.vehicles = p.vehicles ∧ q.flags = p.flags ∧ q.counters = p.counters

/-- A channel check has begun in `t` with a settle wait: CHECKING is entered and the shutters are closed (R118, R169, R178, R181). -/
structure Checks (t : State) (settle : Nat) : Prop where
  site : t.scu.site = .checking
  check : t.scu.check = .run .settle
  settle : t.scu.settle = some settle
  phaseTimer : t.scu.phaseTimer = none
  endTimer : t.scu.endTimer = none
  due : t.scu.due = false
  raised : t.raised .stateChanged
  shutter : t.brg.shutter = .closed

/-- OFFLINE has been entered in `t`: what each block states for that entry (R6, R21, R26, R118, R147, R149, R169, R174, R181, R198). -/
structure Rests (t : State) : Prop where
  site : t.scu.site = .offline
  raised : t.raised .stateChanged
  interval : t.scu.interval = none
  due : t.scu.due = false
  queue : t.axt.queue = []
  line : t.sin.line = []
  released : t.sin.released = none
  nodes : ∀ n ∈ t.sin.nodes, n.silent = false ∧ n.timer = none
  link : t.lif.linkLost = false
  supervision : t.lif.supTimer = none
  shutter : t.brg.shutter = .closed
  lines : ∀ l, (t.aou.lines.get l).hold = none ∧ (t.aou.lines.get l).pulse = none ∧ (t.aou.lines.get l).test = false

/-- The blocks that answering a command and reading out leave alone (R192). -/
structure SameBlocks (s t : State) : Prop where
  pending : t.pending = s.pending
  powered : t.powered = s.powered
  now : t.now = s.now
  pins : t.pins = s.pins
  store : t.store = s.store
  conds : t.conds = s.conds
  tables : t.tables = s.tables
  invalid : t.invalid = s.invalid
  commit : t.commit = s.commit
  sin : t.sin = s.sin
  axt : t.axt = s.axt
  passage : t.passage = s.passage
  brg : t.brg = s.brg
  aou : t.aou = s.aou
  scu : t.scu = s.scu

end Sys2Proof.Machine
end

