-- ==== Sys2Proof/Certificates/Slice0/Obligations.lean ====
section
/-! DEFINITION. The statements about the KP418 that are to be proved. -/

open Sys2Proof Sys2Proof.Machine

/-! ### The step and every state -/

/-- A step with a command at the front of the queue is that command on the state with the queue's rest. -/
def Obligations.StepRunsFrontCommand : Prop :=
  ∀ (c : Instr) (rest : List Instr) (s : State),
    step { s with pending := c :: rest } = exec c { s with pending := rest }

/-- With an empty queue a step takes the part's own earliest due step, or nothing (the model's choices, notes/assumptions/2.md and 32.md). -/
def Obligations.StepOnEmptyQueue : Prop :=
  ∀ s : State, s.pending = [] →
    (∀ i, s.nextDue = some i → step s = exec i s) ∧ (s.nextDue = none → step s = .next s)

/-- Every command answers a next state from every state: it never faults and never refuses, whether its condition holds or not, with or without supply (the model's choices, notes/assumptions/1.md, 3.md and 6.md). -/
def Obligations.EveryCommandAnswersNext : Prop := ∀ (i : Instr) (s : State), ∃ t, exec i s = .next t

/-- The part right after reset is within every capacity that State.Within names, its counts in order and its site state coupled to the passage and the check. -/
def Obligations.ResetWithinCapacities : Prop := State.reset.Within

/-- Every step keeps the first law of the counts, the site state in step with the passage and the check, and the capacities that State.Within names: four waiting commands and sixteen frames to forward, the own frames of each kind, 256 frames in the delay line, the crossing queue, the alarm list, the four report slots, the summary ring, the ambient history and the feedback records; and in a passage the axle records, in each at most two crossings of history and one mark entry for each window and bound, the mark schedule, the context table and the vehicle list. -/
def Obligations.StepKeepsCapacities : Prop := ∀ s t : State, s.Within → step s = .next t → t.Within

/-- While the part stays supplied, the site state moves by the transitions of R169 alone; RESTART may end in OFFLINE or CHECKING from any state. The row acts after dt µs of loop time (the model's form, notes/assumptions/1.md). -/
def Obligations.SiteStateMovesAsListed : Prop :=
  ∀ (i : Instr) (s t : State), s.Within → s.powered = true → suppliesPower i = false → exec i s = .next t →
    t.scu.site = s.scu.site ∨ mayMove s.scu.site t.scu.site = true
      ∨ ((∃ dt tag args, i = .restart dt tag args) ∧ (t.scu.site = .offline ∨ t.scu.site = .checking))

/-- The queue of pending commands is no row's; loop time, inputs, store, tables and section conditions change by their own rows alone. The row acts after dt µs of loop time (the model's form, notes/assumptions/1.md). -/
def Obligations.FieldsChangeByTheirRowsAlone : Prop :=
  ∀ (i : Instr) (s t : State), s.Within → s.powered = true → exec i s = .next t →
    t.pending = s.pending
    ∧ t.pins = pinsAfter i s.pins
    ∧ (suppliesPower i = false → t.now = later s.now (runTime i) ∧ t.powered = true ∧ t.conds = s.conds)
    ∧ (suppliesPower i = false → writesTables i = false → t.tables = s.tables ∧ t.invalid = s.invalid)
    ∧ ((∀ dt n, i ≠ .powerLoss dt n) → writesStore i = false → t.store = s.store)

/-- The committed tables, the event mask, the auto-arm flag, the next passage number, the reports with their summaries, and the alarm list change by their own rows alone. -/
def Obligations.RegistersChangeByTheirRowsAlone : Prop :=
  ∀ (i : Instr) (s t : State), suppliesPower i = false → exec i s = .next t →
    (commitsTables i = false → t.commit = s.commit)
    ∧ (writesMask i = false → t.rps.mask = s.rps.mask)
    ∧ (writesStore i = false → t.scu.autoArm = s.scu.autoArm)
    ∧ (startsPassages i = false → t.axt.nextPassage = s.axt.nextPassage)
    ∧ (writesReports i = false → t.rps.slots = s.rps.slots ∧ t.rps.ring = s.rps.ring ∧ t.rps.sealCount = s.rps.sealCount)
    ∧ (writesAlarms i = false → t.aou.alarms = s.aou.alarms)

/-! ### POWER_ON, POWER_LOSS and the settings store -/

/-- The reset state is what POWER_ON leaves of a part whose store was never written, with the values R182 and the blocks give. That the part starts so, and supplied, is the model's choice (notes/assumptions/4.md). -/
def Obligations.ResetIsPowerOnOfBlankStore : Prop :=
  exec .powerOn State.reset = .next State.reset
  ∧ State.reset.now = 0 ∧ State.reset.scu.site = .offline ∧ State.reset.scu.check = .idle
  ∧ State.reset.scu.autoArm = false ∧ State.reset.scu.powerMark = false
  ∧ State.reset.scu.powerTimer = some 60000000
  ∧ State.reset.lif.locked = false ∧ State.reset.lif.rate = .mbit16 ∧ State.reset.lif.dwell = some 100000
  ∧ State.reset.lif.station = 120 ∧ State.reset.lif.fixed = false ∧ State.reset.lif.queue = []
  ∧ State.reset.axt.nextPassage = 1 ∧ State.reset.axt.queue = [] ∧ State.reset.passage = none
  ∧ State.reset.brg.shutter = .closed ∧ State.reset.sin.history = [] ∧ State.reset.sin.line = []
  ∧ (∀ n, State.reset.rps.slot n = .free) ∧ State.reset.rps.ring = []
  ∧ State.reset.rps.pending = 0 ∧ State.reset.rps.mask = BitVec.allOnes 13
  ∧ State.reset.aou.alarms.entries = []
  ∧ (∀ l, (State.reset.aou.lines.get l).asserted = false ∧ (State.reset.aou.lines.get l).driven = false
      ∧ (State.reset.aou.lines.get l).latched = false ∧ (State.reset.aou.lines.get l).faulty = false)

/-- POWER_ON loads each section by its condition, clears what it does not load, and stays in OFFLINE unless auto-arm is set. A power-on with auto-arm set and sound tables enters CHECKING with no settle wait of its own (R178, R183; that the wait is 0 is the model's reading, notes/assumptions/22.md). Each section stands under a CRC-16 over octets that the model chose, and is good while that check holds (notes/assumptions/29.md). -/
def Obligations.PowerOnLoadsTheStore : Prop :=
  (∀ s : State, ∃ t, exec .powerOn s = .next t
      ∧ t.powered = true ∧ t.now = 0 ∧ t.pending = s.pending ∧ t.pins = s.pins
      ∧ t.store = s.store ∧ t.conds = allConds s.store
      ∧ (∀ k, k < 14 → t.invalid.getD k false = (condAt s.store k == .bad))
      ∧ (condAt s.store 0 = .good → t.tables.site = s.store.tables.site)
      ∧ (condAt s.store 0 ≠ .good → t.tables.site = Config.siteLimits.map Config.Limit.default)
      ∧ (condAt s.store 1 = .good → t.tables.geometry = s.store.tables.geometry)
      ∧ (condAt s.store 1 = .blank → t.tables.geometry = [some (-18000), some (-6000), some 6000, some 18000])
      ∧ (condAt s.store 1 = .bad → t.tables.geometry = [none, none, none, none])
      ∧ (condAt s.store 2 = .good → t.tables.nodes = s.store.tables.nodes)
      ∧ (condAt s.store 2 ≠ .good → t.tables.nodes = List.replicate 12 none)
      ∧ (condAt s.store 3 = .good → t.tables.channels = s.store.tables.channels)
      ∧ (condAt s.store 3 ≠ .good → t.tables.channels = List.replicate 32 none)
      ∧ t.tables.conv.length = 4
      ∧ (∀ k, k < 4 →
          (condAt s.store (4 + k) = .good → t.tables.conv.getD k [] = s.store.tables.conv.getD k [])
          ∧ (condAt s.store (4 + k) ≠ .good → t.tables.conv.getD k [] = List.replicate 17 none))
      ∧ (condAt s.store 8 = .good → t.tables.zoneU = s.store.tables.zoneU)
      ∧ (condAt s.store 8 ≠ .good → t.tables.zoneU = List.replicate 12 none)
      ∧ (condAt s.store 9 = .good → t.tables.zoneD = s.store.tables.zoneD)
      ∧ (condAt s.store 9 ≠ .good → t.tables.zoneD = List.replicate 12 none)
      ∧ (condAt s.store 10 = .good → t.tables.speed = s.store.tables.speed)
      ∧ (condAt s.store 10 ≠ .good → t.tables.speed = List.replicate 9 none)
      ∧ (condAt s.store 11 = .good → t.tables.vehicle = s.store.tables.vehicle)
      ∧ (condAt s.store 11 ≠ .good → t.tables.vehicle = List.replicate 24 none)
      ∧ (condAt s.store 12 = .good → t.tables.threshold = s.store.tables.threshold)
      ∧ (condAt s.store 12 ≠ .good → t.tables.threshold = Config.thresholdLimits.map Config.Limit.default)
      ∧ (condAt s.store 13 = .good → t.tables.output = s.store.tables.output)
      ∧ (condAt s.store 13 ≠ .good → t.tables.output = List.replicate 4 OutputEntry.reset)
      ∧ (condAt s.store 14 = .good → t.lif.station = s.store.identity.station
          ∧ t.lif.fixed = s.store.identity.fixed ∧ t.scu.autoArm = s.store.identity.autoArm)
      ∧ (condAt s.store 14 ≠ .good → t.lif.station = 120 ∧ t.lif.fixed = false ∧ t.scu.autoArm = false)
      ∧ (anyBad s.store = true → t.raised .equipmentChanged)
      ∧ t.passage = none ∧ t.lif.locked = false ∧ t.lif.queue = [] ∧ t.rps.mask = BitVec.allOnes 13
      ∧ t.rps.slots = List.replicate 4 .free ∧ t.rps.ring = [] ∧ t.axt = Axt.reset ∧ t.aou.alarms = AlarmList.reset
      ∧ (t.scu.autoArm = false → t.scu.site = .offline ∧ t.commit = ⟨t.tables.site, none, none⟩))
  ∧ (∀ s : State, s.loaded.scu.autoArm = true →
      (s.loaded.validation = none → ∃ t, exec .powerOn s = .next t ∧ Checks t 0
        ∧ t.scu.validation = .passed ∧ t.commit.site = some t.tables.site)
      ∧ (∀ f, s.loaded.validation = some f → ∃ t, exec .powerOn s = .next t ∧ t.scu.site = .offline
        ∧ t.scu.validation = .failed f))

/-- A loss of supply keeps the store, or leaves the section being written bad, those before it new and good, and those after it as they were, each in its content and its condition. Without supply no row but POWER_ON changes anything beyond the level of an input (the model's choice, notes/assumptions/3.md). The row acts after dt µs of loop time (the model's form, notes/assumptions/1.md). -/
def Obligations.PowerLossKeepsTheStore : Prop :=
  (∀ (s : State) (dt writing : Nat), s.powered = true → writing < 15 →
      ∃ t, exec (.powerLoss dt writing) s = .next t
        ∧ t.powered = false ∧ t.pending = s.pending ∧ t.pins = s.pins
        ∧ (s.scu.store = none → t.store = s.store)
        ∧ (∀ j, s.scu.store = some j →
            (∀ k, k < writing → condAt t.store k = .good) ∧ condAt t.store writing = .bad
            ∧ (∀ k, writing < k → condAt t.store k = condAt s.store k)
            ∧ (∀ k, k < writing → Holds t.store j.tables j.identity k)
            ∧ (∀ k, writing < k → k < 15 → Holds t.store s.store.tables s.store.identity k)))
  ∧ (∀ (i : Instr) (s : State), s.powered = false → i ≠ .powerOn →
      exec i s = .next { s with pins := pinsAfter i s.pins })

/-- STORE_TABLES outside OFFLINE and ARMED is refused; otherwise it captures the tables and the identity and is in progress until the store ends. A store that reads back good writes every section, sets the working flags, raises STORE_ENDED and is answered DONE; a section that reads back bad ends it with STORE_FAILED (its number is the model's coding, notes/assumptions/13.md). A command row is LIF taking the command, after dt µs of loop time (the model's form, notes/assumptions/1.md and 6.md). The arrangement of arguments is the model's (notes/assumptions/12.md). -/
def Obligations.StoreWritesEverySection : Prop :=
  (∀ (s : State) (dt : Nat) (tag : Byte) (args : List Byte), s.Ready 19 tag args →
      (s.scu.site ≠ .offline → s.scu.site ≠ .armed →
        exec (.storeTables dt tag args) s = .next ((s.taken dt).ended 19 tag .refusedState []))
      ∧ (s.scu.site = .offline ∨ s.scu.site = .armed →
        (whole (takePair (takeCode armSettings) (takeCode fixedSettings)) args = none →
          exec (.storeTables dt tag args) s = .next ((s.taken dt).ended 19 tag .badArgument []))
        ∧ (∀ arm fixed, whole (takePair (takeCode armSettings) (takeCode fixedSettings)) args = some (arm, fixed) →
          exec (.storeTables dt tag args) s = .next { s.taken dt with
            scu := { (s.taken dt).scu with
              store := some ⟨s.tables, ⟨s.lif.station, fixed.getD s.lif.fixed, arm.getD s.scu.autoArm⟩⟩ }
            lif := { (s.taken dt).lif with inProgress := some ⟨.store, tag, !s.lif.locked⟩ } })))
  ∧ (∀ (s : State) (dt : Nat) (j : StoreJob), s.powered = true → s.scu.store = some j →
      (∃ v : State, exec (.storeComplete dt none) s = .next (v.answerProgress 19 .done []).drain
        ∧ (∀ k, k < 15 → condAt v.store k = .good) ∧ v.store.tables = j.tables ∧ v.store.identity = j.identity
        ∧ v.scu.store = none ∧ v.raised .storeEnded
        ∧ v.scu.autoArm = j.identity.autoArm ∧ v.lif.fixed = j.identity.fixed
        ∧ v.tables = s.tables ∧ v.conds = s.conds ∧ v.scu.site = s.scu.site)
      ∧ (∀ k, k < 15 → ∃ v : State, exec (.storeComplete dt (some k)) s = .next (v.answerProgress 19 .storeFailed (put4 (k + 1))).drain
        ∧ (∀ n, n < k → condAt v.store n = .good) ∧ condAt v.store k = .bad
        ∧ (∀ n, k < n → condAt v.store n = condAt s.store n)
        ∧ (∀ n, n < k → Holds v.store j.tables j.identity n)
        ∧ (∀ n, k < n → n < 15 → Holds v.store s.store.tables s.store.identity n)
        ∧ v.scu.store = none ∧ v.raised .storeEnded
        ∧ v.scu.autoArm = s.scu.autoArm ∧ v.lif.fixed = s.lif.fixed ∧ v.tables = s.tables))

/-! ### Answers and commands that read -/

/-- An answer in LOCKED goes to the controller station in use: it begins to be sent if the transmitter is free and nothing waits before it, and joins the own frames otherwise; in SEARCH it is lost and counted (R189, R192). Answering a command changes LIF and the hold-off timer alone. -/
def Obligations.AnswersGoToTheController : Prop :=
  (∀ (s : State) (code : Nat) (tag : Byte) (a : AnswerCode) (data : List Byte),
      (s.answer code tag a data).lif.inProgress = none
      ∧ (s.lif.locked = true → s.lif.sending = none → s.lif.timWaiting = false → s.lif.own = [] →
          (s.answer code tag a data).lif.sending
            = some ⟨.own .ans, frameOctets s.controller s.lif.station .ans (ansPayload code tag a data)⟩
          ∧ (s.answer code tag a data).lif.own = [])
      ∧ (s.lif.locked = true → s.lif.sending.isSome = true →
          (s.answer code tag a data).lif.own = s.lif.own ++ [⟨.ans, s.controller, ansPayload code tag a data, false, none⟩]
          ∧ (s.answer code tag a data).lif.sending = s.lif.sending)
      ∧ (s.lif.locked = false →
          (s.answer code tag a data).lif
            = { s.lif with
                inProgress := none
                counters := { s.lif.counters with answersLost := min 65535 (s.lif.counters.answersLost + 1) } }))
  ∧ (∀ (s : State) (code : Nat) (tag : Byte) (a : AnswerCode) (data : List Byte),
      SameBlocks s (s.ended code tag a data)
      ∧ (s.ended code tag a data).rps = { s.rps with holdOff := (s.ended code tag a data).rps.holdOff })

/-- READ_IDENTITY answers DONE with the part name, version 1, station, flags, controller station, rate, auto-arm flag and loop time (R195), and changes nothing else. READ_SUMMARIES answers DONE with the summaries of the ring, oldest first (R163). READ_STATUS answers DONE with the loop time and the group asked for, and BAD_ARGUMENT for any other argument (R196; the layout of the contents is the model's, notes/assumptions/14.md). READ_TABLE answers DONE with the INVALID mark, the number of entries and the entries that fit one answer; BAD_ARGUMENT for a table or entries that do not exist (R195). READ_ALARMS answers DONE with the passage values and the entries asked for that fit one answer; a first index above 127 is BAD_ARGUMENT (R139). A command row is LIF taking the command, after dt µs of loop time (the model's form, notes/assumptions/1.md and 6.md). The arrangement of arguments is the model's (notes/assumptions/12.md). -/
def Obligations.ReadsAnswerTheirContents : Prop :=
  (∀ (s : State) (dt : Nat) (tag : Byte), s.Ready 1 tag [] →
      exec (.readIdentity dt tag []) s = .next ((s.taken dt).ended 1 tag .done
        ([0x4B, 0x50, 0x34, 0x31, 0x38] ++ put4 1 ++ put4 s.lif.station ++ putFlag s.lif.fixed ++ put4 s.controller
          ++ putCode (rateCode s.lif.rate) ++ putFlag s.scu.autoArm ++ putTime (later s.now dt))))
  ∧ (∀ (s : State) (dt : Nat) (tag : Byte), s.Ready 14 tag [] →
      exec (.readSummaries dt tag []) s = .next ((s.taken dt).ended 14 tag .done
        (put4 s.rps.ring.length ++ s.rps.ring.flatMap putSummary)))
  ∧ (∀ (s : State) (dt : Nat) (tag : Byte) (args : List Byte), s.Ready 2 tag args →
      (∀ (g : Nat) (d : List Byte), whole take4 args = some g →
        (g, d) ∈ [(1, (s.taken dt).siteGroup), (2, (s.taken dt).intakeGroup), (3, (s.taken dt).trackingGroup),
          (4, (s.taken dt).outputsGroup), (5, (s.taken dt).reportsGroup), (6, (s.taken dt).loopGroup)] →
        exec (.readStatus dt tag args) s = .next ((s.taken dt).ended 2 tag .done (putTime (later s.now dt) ++ d)))
      ∧ ((∀ g, whole take4 args = some g → g = 0 ∨ 6 < g) →
        exec (.readStatus dt tag args) s = .next ((s.taken dt).ended 2 tag .badArgument [])))
  ∧ (∀ (s : State) (dt : Nat) (tag : Byte) (args : List Byte), s.Ready 5 tag args →
      (∀ (table first count : Nat) (r : EntryRange),
        whole (takePair take4 (takePair take4 take4)) args = some (table, first, count) →
        entryRange table = some r → entriesFit r first count = true →
        exec (.readTable dt tag args) s = .next ((s.taken dt).ended 5 tag .done
          (putFlag (s.invalid.getD (table - 1) false)
            ++ put4 (fitting 4087 (((tableEntries s.tables table).drop (first - r.low)).take count)).length
            ++ (fitting 4087 (((tableEntries s.tables table).drop (first - r.low)).take count)).flatMap id)))
      ∧ ((∀ (table first count : Nat) (r : EntryRange),
          whole (takePair take4 (takePair take4 take4)) args = some (table, first, count) →
          entryRange table = some r → entriesFit r first count = false) →
        exec (.readTable dt tag args) s = .next ((s.taken dt).ended 5 tag .badArgument [])))
  ∧ (∀ (s : State) (dt : Nat) (tag : Byte) (args : List Byte), s.Ready 11 tag args →
      (∀ first count : Nat, whole (takePair take4 take4) args = some (first, count) → first ≤ 127 →
        exec (.readAlarms dt tag args) s = .next ((s.taken dt).ended 11 tag .done
          ((s.taken dt).alarmValues ++ putList id (fitting (4092 - (s.taken dt).alarmValues.length - 2)
            (((s.aou.alarms.entries.map alarmRecord).drop first).take count)))))
      ∧ ((∀ first count : Nat, whole (takePair take4 take4) args = some (first, count) → 127 < first) →
        exec (.readAlarms dt tag args) s = .next ((s.taken dt).ended 11 tag .badArgument [])))

/-- READ_LIVE answers DONE with the live values and their fresh flags, and clears every fresh flag (R197). A command row is LIF taking the command, after dt µs of loop time (the model's form, notes/assumptions/1.md and 6.md). The arrangement of the answer is the model's (notes/assumptions/12.md). -/
def Obligations.ReadLiveClearsFreshFlags : Prop :=
  ∀ (s : State) (dt : Nat) (tag : Byte), s.Ready 3 tag [] →
    exec (.readLive dt tag []) s = .next (({ s.taken dt with
        sin := { (s.taken dt).sin with
          ambientFresh := false, channels := s.sin.channels.map fun c => { c with fresh := false } }
        axt := { s.axt with lastSpeedFresh := false, countsFresh := false }
        scu := { (s.taken dt).scu with siteFresh := false } } : State).ended 3 tag .done
      (putOption put4s s.ambient ++ putFlag s.sin.ambientFresh
        ++ putOption put4 s.axt.lastSpeed ++ putFlag s.axt.lastSpeedFresh
        ++ putTime (later s.now dt) ++ putFlag true
        ++ putCode (siteCode s.scu.site) ++ putFlag s.scu.siteFresh
        ++ (s.taken dt).liveCounts.flatMap put4 ++ putFlag s.axt.countsFresh
        ++ (List.range 31).flatMap s.putBaseline))

/-! ### Commands refused, and commands that wait -/

/-- A command that its rule does not accept in the site state is answered REFUSED_STATE, whatever its arguments, and changes nothing; a station made fixed answers REFUSED_FIXED (R147, R170, R176, R181, R190). A command that carries no arguments answers BAD_ARGUMENT to any, and changes nothing (R192). A command that LIF cannot take, because one is in progress or another stands at the head of the queue, waits: only loop time passes (R192; that the row waits so is the model's choice, notes/assumptions/6.md). A command row is LIF taking the command, after dt µs of loop time (the model's form, notes/assumptions/1.md and 6.md). -/
def Obligations.CommandsRefusedOrWaiting : Prop :=
  (∀ (s : State) (dt : Nat) (tag : Byte) (args : List Byte),
      (s.Ready 6 tag args → s.scu.site ≠ .offline →
        exec (.start dt tag args) s = .next ((s.taken dt).ended 6 tag .refusedState []))
      ∧ (s.Ready 9 tag args → (s.scu.site ≠ .armed ∨ s.pins.approach = true) →
        exec (.runCheck dt tag args) s = .next ((s.taken dt).ended 9 tag .refusedState []))
      ∧ (s.Ready 10 tag args → s.scu.site ≠ .passage →
        exec (.forceClose dt tag args) s = .next ((s.taken dt).ended 10 tag .refusedState []))
      ∧ (s.Ready 18 tag args → s.scu.site ≠ .offline →
        exec (.testOutputs dt tag args) s = .next ((s.taken dt).ended 18 tag .refusedState []))
      ∧ (s.Ready 20 tag args → s.scu.site ≠ .offline →
        exec (.setStation dt tag args) s = .next ((s.taken dt).ended 20 tag .refusedState []))
      ∧ (s.Ready 20 tag args → s.scu.site = .offline → s.lif.fixed = true →
        exec (.setStation dt tag args) s = .next ((s.taken dt).ended 20 tag .refusedFixed [])))
  ∧ (∀ (s : State) (dt : Nat) (tag : Byte) (args : List Byte), args ≠ [] →
      (s.Ready 1 tag args → exec (.readIdentity dt tag args) s = .next ((s.taken dt).ended 1 tag .badArgument []))
      ∧ (s.Ready 3 tag args → exec (.readLive dt tag args) s = .next ((s.taken dt).ended 3 tag .badArgument []))
      ∧ (s.Ready 6 tag args → s.scu.site = .offline →
          exec (.start dt tag args) s = .next ((s.taken dt).ended 6 tag .badArgument []))
      ∧ (s.Ready 7 tag args → exec (.stop dt tag args) s = .next ((s.taken dt).ended 7 tag .badArgument []))
      ∧ (s.Ready 8 tag args → exec (.restart dt tag args) s = .next ((s.taken dt).ended 8 tag .badArgument []))
      ∧ (s.Ready 9 tag args → s.scu.site = .armed → s.pins.approach = false →
          exec (.runCheck dt tag args) s = .next ((s.taken dt).ended 9 tag .badArgument []))
      ∧ (s.Ready 10 tag args → s.scu.site = .passage →
          exec (.forceClose dt tag args) s = .next ((s.taken dt).ended 10 tag .badArgument []))
      ∧ (s.Ready 14 tag args → exec (.readSummaries dt tag args) s = .next ((s.taken dt).ended 14 tag .badArgument []))
      ∧ (s.Ready 17 tag args → exec (.clearOutputs dt tag args) s = .next ((s.taken dt).ended 17 tag .badArgument [])))
  ∧ (∀ (s : State) (dt code : Nat) (tag : Byte) (args : List Byte) (f : State → State), s.powered = true →
      (s.lif.free = false ∨ ∃ c rest, s.lif.queue = c :: rest ∧ c ≠ ⟨code, tag, args, false⟩) →
      timed dt (command code tag args f) s = .next (s.elapse dt))

/-! ### Tables -/

/-- WRITE_TABLE in a state that allows it, with entries that exist and fit, writes the entries, clears the table's INVALID mark and answers DONE or DONE_CLAMPED (R172, R193). A command row is LIF taking the command, after dt µs of loop time (the model's form, notes/assumptions/1.md and 6.md). The arrangement of arguments is the model's (notes/assumptions/12.md). -/
def Obligations.WriteTableWritesEntries : Prop :=
  ∀ (s : State) (dt : Nat) (tag : Byte) (args rest bytes : List Byte) (table first count : Nat) (r : EntryRange)
    (w : Written Tables),
    s.Ready 4 tag args → take4 args = some (table, rest) → entryRange table = some r →
    writable table s.scu.site = true → takePair take4 take4 rest = some ((first, count), bytes) →
    entriesFit r first count = true → writeEntries s.tables table first count bytes = some w →
    ∃ v : State, exec (.writeTable dt tag args) s
        = .next (v.ended 4 tag (if w.clamped then .doneClamped else .done) [])
      ∧ v.tables = w.value ∧ v.invalid = s.invalid.set (table - 1) false
      ∧ v.lif = (s.taken dt).lif ∧ v.scu = (s.taken dt).scu ∧ v.passage = (s.taken dt).passage
      ∧ v.brg = (s.taken dt).brg ∧ v.axt = s.axt ∧ v.commit = s.commit ∧ v.store = s.store
      ∧ v.aou.alarms = s.aou.alarms ∧ v.rps.slots = s.rps.slots ∧ v.rps.ring = s.rps.ring
      ∧ (table ≠ 3 → table ≠ 4 → v.sin = (s.taken dt).sin)
      ∧ (table = 4 → ∀ c, first ≤ c → c < first + count → c < s.sin.channels.length →
          v.channel c = ChannelState.reset (initialHealth (channelEntry w.value c)))

/-- WRITE_TABLE is refused, in this order, for an unknown table, a state that does not allow it, entry numbers outside the table and entries that do not fit, and then changes nothing (R193). A site parameter or threshold as written lies in its range, and is marked clamped exactly when it differs from what was sent (R133, R193, R194). A command row is LIF taking the command, after dt µs of loop time (the model's form, notes/assumptions/1.md and 6.md). The arrangement of arguments is the model's (notes/assumptions/12.md). -/
def Obligations.WriteTableRefusals : Prop :=
  (∀ (s : State) (dt : Nat) (tag : Byte) (args : List Byte), s.Ready 4 tag args →
      (take4 args = none →
        exec (.writeTable dt tag args) s = .next ((s.taken dt).ended 4 tag .badArgument []))
      ∧ (∀ table rest, take4 args = some (table, rest) →
        (table = 0 ∨ 14 < table →
          exec (.writeTable dt tag args) s = .next ((s.taken dt).ended 4 tag .badArgument []))
        ∧ (1 ≤ table → table ≤ 14 → s.scu.site ≠ .offline → ¬ (s.scu.site = .armed ∧ (table = 13 ∨ table = 14)) →
          exec (.writeTable dt tag args) s = .next ((s.taken dt).ended 4 tag .refusedState []))
        ∧ (∀ r, entryRange table = some r → writable table s.scu.site = true →
          (takePair take4 take4 rest = none →
            exec (.writeTable dt tag args) s = .next ((s.taken dt).ended 4 tag .badArgument []))
          ∧ (∀ first count bytes, takePair take4 take4 rest = some ((first, count), bytes) →
            (entriesFit r first count = false ∨ writeEntries s.tables table first count bytes = none) →
            exec (.writeTable dt tag args) s = .next ((s.taken dt).ended 4 tag .badArgument [])))))
  ∧ ((∀ n v, 1 ≤ n → n ≤ 20 →
      (Config.siteLimits.getD (n - 1) ⟨0, 0, 0⟩).low ≤ (writtenSite n v).value
      ∧ (writtenSite n v).value ≤ (Config.siteLimits.getD (n - 1) ⟨0, 0, 0⟩).high
      ∧ ((writtenSite n v).clamped = true ↔ (writtenSite n v).value ≠ v))
    ∧ (∀ n v, 1 ≤ n → n ≤ 15 →
      (Config.thresholdLimits.getD (n - 1) ⟨0, 0, 0⟩).low ≤ (writtenThreshold n v).value
      ∧ (writtenThreshold n v).value ≤ (Config.thresholdLimits.getD (n - 1) ⟨0, 0, 0⟩).high
      ∧ ((writtenThreshold n v).clamped = true ↔ (writtenThreshold n v).value ≠ v)))

/-- A frame the part forms passes the check of R188 and reads back with its stations, kind and padded payload. A numeric field of four octets, a signed one and a loop time read back as they were written (R200). That octets behind a complete frame are ignored is the model's choice (notes/assumptions/16.md). -/
def Obligations.FramesAndFieldsReadBack : Prop :=
  (∀ (dest source : Nat) (kind : FrameKind) (payload rest : List Byte), dest < 256 → source < 256 → payload.length ≤ 4096 →
      checkFrame (frameOctets dest source kind payload ++ rest)
        = some ⟨dest, source, frameCode kind, pad payload, frameOctets dest source kind payload⟩)
  ∧ ((∀ (v : Nat) (rest : List Byte), v < 2 ^ 32 → take4 (put4 v ++ rest) = some (v, rest))
    ∧ (∀ (v : Int) (rest : List Byte), -2147483648 ≤ v → v ≤ 2147483647 → take4s (put4s v ++ rest) = some (v, rest))
    ∧ (∀ (t : LoopTime) (rest : List Byte), timeAt (putTime t ++ rest) 0 = t))

/-! ### Site Control -/

/-- START in OFFLINE with valid tables commits them and enters CHECKING with a settle wait of 5 s, with every used node PRESENT on a fresh timer of 1 s and an empty order record, and the supervision timer at its committed limit where supervision is enabled (R6, R11, R24, R170, R178, R198). START in OFFLINE with a table that fails answers TABLE_INVALID with the four items of the failure, records it, and commits nothing (R170, R171). A command row is LIF taking the command, after dt µs of loop time (the model's form, notes/assumptions/1.md and 6.md). -/
def Obligations.StartCommitsAndChecks : Prop :=
  (∀ (s : State) (dt : Nat) (tag : Byte), s.Ready 6 tag [] → s.scu.site = .offline → s.validation = none →
      ∃ v : State, exec (.start dt tag []) s = .next (v.ended 6 tag .done [])
        ∧ Checks v 5000000 ∧ v.scu.validation = .passed
        ∧ v.commit.site = some s.tables.site ∧ v.commit.loaded = s.commit.loaded
        ∧ v.commit.tdp = some (divRoundNat (siteParam s.tables.site 4 * 1000000) (siteParam s.tables.site 5))
        ∧ (∀ n ∈ v.sin.nodes, n.silent = false ∧ n.order = none)
        ∧ (s.sin.nodes.length = 12 → ∀ n, 1 ≤ n → n ≤ 12 →
            (v.node n).timer = (if (nodeEntry s.tables n).isSome then some 1000000 else none))
        ∧ (siteParam s.tables.site 17 ≠ 0 → v.lif.supTimer = some v.supervisionLimit)
        ∧ (siteParam s.tables.site 17 = 0 → v.lif.supTimer = (s.taken dt).lif.supTimer)
        ∧ v.supervisionLimit = 1000 * (siteParam s.tables.site 18 *
            (if siteParam s.tables.site 19 * siteParam s.tables.site 20 = 1 then 2
              else siteParam s.tables.site 19 * siteParam s.tables.site 20))
        ∧ (∀ l, (v.aou.lines.get l).test = false)
        ∧ v.tables = s.tables ∧ v.invalid = s.invalid ∧ v.axt = s.axt ∧ v.passage = (s.taken dt).passage
        ∧ v.aou.alarms = s.aou.alarms ∧ v.rps.slots = s.rps.slots ∧ v.rps.ring = s.rps.ring ∧ v.rps.mask = s.rps.mask
        ∧ v.scu.autoArm = s.scu.autoArm)
  ∧ (∀ (s : State) (dt : Nat) (tag : Byte) (f : Failure), s.Ready 6 tag [] → s.scu.site = .offline →
      s.validation = some f →
      exec (.start dt tag []) s
        = .next (({ s.taken dt with scu := { (s.taken dt).scu with validation := .failed f } } : State).ended 6 tag
            .tableInvalid (put4 f.table ++ putOption put4 f.entry ++ put4 f.check ++ putCode (causeCode f.cause))))

/-- STOP by site state: DONE at once in OFFLINE, the entry into OFFLINE from CHECKING and ARMED, the end of the passage as ABORTED in PASSAGE, and a wait for the end of CLOSING (R174). A command row is LIF taking the command, after dt µs of loop time (the model's form, notes/assumptions/1.md and 6.md). -/
def Obligations.StopBySiteState : Prop :=
  ∀ (s : State) (dt : Nat) (tag : Byte), s.Ready 7 tag [] →
    (s.scu.site = .offline → exec (.stop dt tag []) s = .next ((s.taken dt).ended 7 tag .done []))
    ∧ (s.scu.site = .armed → ∃ v : State, exec (.stop dt tag []) s = .next (v.ended 7 tag .done []) ∧ Rests v
        ∧ v.scu.check = s.scu.check ∧ v.tables = s.tables ∧ v.commit = s.commit
        ∧ v.axt.counters.offline = min 65535 (s.axt.counters.offline + s.axt.queue.length))
    ∧ (s.scu.site = .checking → ∃ v : State, exec (.stop dt tag []) s = .next (v.ended 7 tag .done []) ∧ Rests v
        ∧ v.scu.check = .aborted .stop ∧ v.raised .checkEnded ∧ v.tables = s.tables ∧ v.commit = s.commit)
    ∧ (s.scu.site = .passage → ∃ t, exec (.stop dt tag []) s = .next t ∧ Ends s t .aborted
        ∧ t.lif.inProgress = some ⟨.stop, tag, !s.lif.locked⟩)
    ∧ (s.scu.site = .closing → exec (.stop dt tag []) s
        = .next { s.taken dt with lif := { (s.taken dt).lif with inProgress := some ⟨.stop, tag, !s.lif.locked⟩ } })

/-- RESTART clears passage, queue, list, slots and counters, keeps tables, mask and passage number, enters OFFLINE, and under auto-arm validates and enters CHECKING with 5 s (R175). A command row is LIF taking the command, after dt µs of loop time (the model's form, notes/assumptions/1.md and 6.md). -/
def Obligations.RestartClearsAndRearms : Prop :=
  ∀ (s : State) (dt : Nat) (tag : Byte), s.Ready 8 tag [] →
    ∃ v : State, exec (.restart dt tag []) s = .next (v.ended 8 tag .done [])
      ∧ v.passage = none ∧ v.axt.queue = [] ∧ v.axt.nextPassage = s.axt.nextPassage
      ∧ v.axt.counters = AxtCounters.zero ∧ v.sin.line = [] ∧ v.sin.counters = SinCounters.zero
      ∧ v.sin.history = s.sin.history ∧ v.lif.counters = LifCounters.zero
      ∧ v.aou.alarms = AlarmList.reset ∧ v.rps.slots = List.replicate 4 .free ∧ v.rps.ring = []
      ∧ v.rps.mask = s.rps.mask ∧ v.raised .stateChanged ∧ v.tables = s.tables ∧ v.invalid = s.invalid
      ∧ (s.scu.autoArm = false → Rests v ∧ v.scu.check = .idle ∧ v.commit = s.commit
          ∧ v.scu.validation = s.scu.validation)
      ∧ (∀ f, s.scu.autoArm = true → s.validation = some f →
          Rests v ∧ v.scu.validation = .failed f ∧ v.commit = s.commit)
      ∧ (s.scu.autoArm = true → s.validation = none → Checks v 5000000 ∧ v.scu.validation = .passed
          ∧ v.commit.site = some s.tables.site)

/-- RUN_CHECK, a due check that may start, and an interval timer that expires where a check may start all begin a check with no settle wait (R178, R181). An interval timer that expires where no check may start leaves the check due (R181). A command row is LIF taking the command, after dt µs of loop time (the model's form, notes/assumptions/1.md and 6.md). -/
def Obligations.ChecksBeginInArmed : Prop :=
  (∀ (s : State) (dt : Nat), s.scu.site = .armed → s.pins.approach = false →
      (∀ tag, s.Ready 9 tag [] → ∃ v : State, exec (.runCheck dt tag []) s = .next (v.ended 9 tag .done []) ∧ Checks v 0
          ∧ v.tables = s.tables ∧ v.commit = s.commit ∧ v.axt = s.axt)
      ∧ (s.powered = true → s.scu.due = true → ∃ t, exec (.dueCheckStart dt) s = .next t ∧ Checks t 0
          ∧ t.tables = s.tables ∧ t.commit = s.commit ∧ t.axt = s.axt)
      ∧ (∀ n, s.powered = true → s.scu.interval = some n → n ≤ dt →
          ∃ t, exec (.intervalTimerExpiry dt) s = .next t ∧ Checks t 0 ∧ t.scu.interval = none))
  ∧ (∀ (s : State) (dt n : Nat), s.powered = true → s.scu.interval = some n → n ≤ dt →
      (s.scu.site ≠ .armed ∨ s.pins.approach = true) →
      exec (.intervalTimerExpiry dt) s
        = .next { s.elapse dt with scu := { (s.elapse dt).scu with interval := none, due := true } })

/-- FORCE_CLOSE ends the passage as FORCED, 10 s without the loop as ABORTED, and the clear hold by its counts (R44, R176). A command row is LIF taking the command, after dt µs of loop time (the model's form, notes/assumptions/1.md and 6.md). -/
def Obligations.PassageEndsByItsCause : Prop :=
  ∀ (s : State) (dt : Nat), s.scu.site = .passage →
    (∀ tag, s.Ready 10 tag [] → ∃ v : State, exec (.forceClose dt tag []) s = .next (v.ended 10 tag .done []) ∧ Ends s v .forced)
    ∧ (∀ n, s.powered = true → s.scu.loss = some n → n ≤ dt →
        ∃ t, exec (.lossTimerExpiry dt) s = .next t ∧ Ends s t .aborted)
    ∧ (∀ p n, s.powered = true → s.passage = some p → p.clear = some n → n ≤ dt →
        ∃ t, exec (.clearHoldExpiry dt) s = .next t
          ∧ Ends s t (if p.counts.c4 = p.total then .complete else if p.counts.c4 = 0 then .withdrawn else .split))

/-- CLOSING ends into ARMED with no passage, or, with a STOP in progress, into OFFLINE, where that STOP is answered DONE (R174, R177). On the way the passage is sealed: its summary joins the ring, its report with the next seal order stands in its slot, and PASSAGE_CLOSED is raised (R155, R163, R177). The report carries the axles, vehicles and alarms that the outlier check of LEFT and then RIGHT, the tail segmentation, the finalising and the closing evaluation leave (R89, R96, R129, R177). The row acts after dt µs of loop time (the model's form, notes/assumptions/1.md). -/
def Obligations.ClosingEndsInArmedOrOffline : Prop :=
  ∀ (s : State) (dt : Nat), s.Within → s.powered = true → s.scu.site = .closing →
    (∃ t, exec (.closingSteps dt) s = .next t ∧ t.passage = none
      ∧ ((s.lif.inProgress.any fun p => p.job == .stop) = false → t.scu.site = .armed ∧ t.raised .stateChanged)
      ∧ ((s.lif.inProgress.any fun p => p.job == .stop) = true → t.scu.site = .offline ∧ t.lif.inProgress = none)
      ∧ (∀ p d e, s.passage = some p → p.disposition = some d → p.endTime = some e →
        t.raised .passageClosed ∧ t.rps.lastPassage = p.number
        ∧ t.rps.ring = (s.rps.ring ++ [(Summary.mk p.number p.startTime e d p.dir p.total t.aou.alarms.highest
            (match p.slot with
              | some n => .inSlot n
              | none => .detailLost))]).drop (s.rps.ring.length + 1 - 16)
        ∧ (p.slot = none → t.rps.slots = s.rps.slots)
        ∧ (∀ n, p.slot = some n → 1 ≤ n → n ≤ 4 → s.rps.sealCount < 4294967295 →
            (∃ r, t.rps.slot n = .sealed r ∧ r.sealOrder = s.rps.sealCount + 1
              ∧ r.header.number = p.number ∧ r.header.disposition = d ∧ r.header.total = p.total
              ∧ r.axles.map (fun a => (a.number, a.finalSegment)) = p.axles.map (fun a => (a.number, a.finalSegment))
              ∧ r.alarms = t.aou.alarms.entries ∧ r.header.highest = t.aou.alarms.highest ∧ r.readComplete = false
              ∧ ∃ (w : State) (q : Passage),
                  w = ((((s.elapse dt).outlierSide .left).outlierSide .right).segmentAttempt true).finalise.closingEvaluation
                  ∧ w.passage = some q ∧ r.axles = q.axles ∧ r.vehicles = q.vehicles ∧ r.alarms = w.aou.alarms.entries)
            ∧ (∀ k, k ≠ n → t.rps.slot k = s.rps.slot k))))
    ∧ ((s.lif.inProgress.any fun p => p.job == .stop) = true →
      ∃ v : State, exec (.closingSteps dt) s = .next (v.answerProgress 7 .done []).drain
        ∧ Rests v ∧ v.passage = none ∧ v.lif.inProgress = s.lif.inProgress)

/-- The power settle ends after 60 s with its mark set (R178). The settle wait ends, once the power settle has ended too, in phase CAPTURE with its times, or in an abort on an asserted approach or a lost loop (R178 to R180). CAPTURE gives way to REFERENCE after its 2 s, and the check ends in ARMED with every channel's pending capture and gathering judged and discarded, and the interval timer started (R179, R181). A crib channel with a capture gets the captured baseline and its verdict, a scanner channel with a gathering its reference verdict; an ABSENT channel and one without samples stand (R14, R131). A verdict acts on recorded health and failure run (R9). A command row is LIF taking the command, after dt µs of loop time (the model's form, notes/assumptions/1.md and 6.md). -/
def Obligations.CheckPhasesFollow : Prop :=
  (∀ (s : State) (dt n : Nat), s.powered = true → s.scu.powerTimer = some n → n ≤ dt →
      exec (.powerSettleEnd dt) s
        = .next { s.elapse dt with scu := { (s.elapse dt).scu with powerTimer := none, powerMark := true } })
  ∧ (∀ (s : State) (dt n : Nat), s.powered = true → s.scu.check = .run .settle → s.scu.settle = some n → n ≤ dt →
      s.scu.powerMark = true →
      (s.pins.approach = false → s.lif.locked = true →
        exec (.settleWaitEnd dt) s = .next { s.elapse dt with scu := { (s.elapse dt).scu with
          check := .run .capture, settle := none, sampleStart := later s.now dt, phaseTimer := some 2000000
          endTimer := some (3000000 + s.holdDelay + 8000) } })
      ∧ (s.pins.approach = true ∨ s.lif.locked = false → ∃ t, exec (.settleWaitEnd dt) s = .next t
          ∧ t.scu.site = .armed ∧ t.scu.check = .aborted (if s.pins.approach then .approach else .loop)
          ∧ t.raised .checkEnded ∧ t.raised .stateChanged
          ∧ t.scu.interval = (if s.checkInterval = 0 then none else some s.checkInterval)))
  ∧ (∀ (s : State) (dt n : Nat), s.powered = true → n ≤ dt →
      (s.scu.check = .run .capture → s.scu.phaseTimer = some n →
        exec (.checkReferencePhase dt) s
          = .next { s.elapse dt with scu := { (s.elapse dt).scu with check := .run .reference, phaseTimer := none } })
      ∧ (s.scu.check = .run .reference → s.scu.endTimer = some n →
        ∃ t, exec (.checkEnd dt) s = .next t ∧ t.scu.site = .armed ∧ t.scu.check = .ended
          ∧ t.scu.checkTime = some (later s.now dt) ∧ t.raised .checkEnded ∧ t.raised .stateChanged
          ∧ t.scu.interval = (if s.checkInterval = 0 then none else some s.checkInterval)
          ∧ t.sin.channels = (s.sin.channels.zipIdx.map fun x =>
              { (s.elapse dt).endChannel x.2 x.1 with capture := none, gather := none })
          ∧ t.tables = s.tables ∧ t.commit = s.commit))
  ∧ (∀ x : ChannelState,
      ((applyVerdict .pass x).health = .ok ∧ (applyVerdict .pass x).run = 0)
      ∧ ((x.health = .ok ∨ x.health = .notReady) →
          (applyVerdict .fail x).health = .suspect ∧ (applyVerdict .fail x).run = 1
          ∧ (applyVerdict .undecided x).health = .suspect)
      ∧ ((x.health = .suspect ∨ x.health = .faulty) →
          (applyVerdict .fail x).health = .faulty ∧ (applyVerdict .fail x).run = 2)
      ∧ (x.health = .suspect → (applyVerdict .undecided x).health = .suspect)
      ∧ (x.health = .faulty → applyVerdict .undecided x = x)
      ∧ (applyVerdict .undecided x).run = x.run
      ∧ (∀ v, (applyVerdict v x).baseline = x.baseline ∧ (applyVerdict v x).fresh = x.fresh))
  ∧ (∀ (s : State) (c : Nat) (x : ChannelState),
      (channelEntry s.tables c = none ∨ s.effHealth c = some .absent → s.endChannel c x = x)
      ∧ (∀ e, channelEntry s.tables c = some e → s.effHealth c ≠ some .absent →
        (e.kind = .ambient → s.endChannel c x = x)
        ∧ (e.kind = .crib →
          (x.capture = none → s.endChannel c x = x)
          ∧ (∀ p, x.capture = some p → s.endChannel c x
              = applyVerdict (if (divRound (p.sum * 256) p.count).natAbs ≤ siteParam s.tables.site 2 * 256
                    ∧ p.high - p.low ≤ siteParam s.tables.site 3 then .pass else .fail)
                  { x with baseline := some (divRound (p.sum * 256) p.count), fresh := true }))
        ∧ (e.kind = .scanner →
          (x.gather = none → s.endChannel c x = x)
          ∧ (∀ g, x.gather = some g →
            (s.ambient = none → s.endChannel c x = applyVerdict .undecided x)
            ∧ (∀ a, s.ambient = some a →
              (openWithin (s.brg.records.get e.rail) (later s.scu.sampleStart 2000000) 1000000 = true →
                s.endChannel c x = applyVerdict .undecided x)
              ∧ (openWithin (s.brg.records.get e.rail) (later s.scu.sampleStart 2000000) 1000000 = false →
                s.endChannel c x
                  = applyVerdict (if (divRound g.sum g.count - a).natAbs ≤ s.threshold 15 then .pass else .fail) x))))))

/-! ### Reports and events -/

/-- READ_REPORT is judged by its arguments and the slot: BAD_ARGUMENT, NO_SUCH_SLOT of a FREE slot, NOT_SEALED of a FILLING one, and of a SEALED one a read in progress over the records asked for, or DONE at once where there is none (R159 to R161). Taken in SEARCH, a read with records to serve is dropped at once and counts one answer lost (the model's reading of the loss of lock, notes/assumptions/8.md). A command row is LIF taking the command, after dt µs of loop time (the model's form, notes/assumptions/1.md and 6.md). The arrangement of arguments is the model's (notes/assumptions/12.md). -/
def Obligations.ReadReportBySlot : Prop :=
  ∀ (s : State) (dt : Nat) (tag : Byte) (args : List Byte), s.Ready 12 tag args →
    ((whole takeReadArgs args = none ∨ ∃ x, whole takeReadArgs args = some x ∧ readArgsFit x = false) →
      exec (.readReport dt tag args) s = .next ((s.taken dt).ended 12 tag .badArgument []))
    ∧ (∀ x, whole takeReadArgs args = some x → readArgsFit x = true →
      (s.rps.slot x.slot = .free →
        exec (.readReport dt tag args) s = .next ((s.taken dt).ended 12 tag .noSuchSlot []))
      ∧ (∀ n, s.rps.slot x.slot = .filling n →
        exec (.readReport dt tag args) s = .next ((s.taken dt).ended 12 tag .notSealed []))
      ∧ (∀ r, s.rps.slot x.slot = .sealed r → servedCount r x.part x.first x.count ≠ 0 → s.lif.locked = true →
        exec (.readReport dt tag args) s = .next { s.taken dt with
          lif := { (s.taken dt).lif with
            inProgress := some ⟨.read ⟨x.slot, r.header.number, x.part, x.first,
              min x.count ((sectionRecords r x.part).length - x.first), 0, false⟩, tag, false⟩ } })
      ∧ (∀ r, s.rps.slot x.slot = .sealed r → servedCount r x.part x.first x.count ≠ 0 → s.lif.locked = false →
        exec (.readReport dt tag args) s = .next (({ s.taken dt with
          lif := { (s.taken dt).lif with
            counters := { s.lif.counters with answersLost := min 65535 (s.lif.counters.answersLost + 1) } } } : State).drain))
      ∧ (∀ r, s.rps.slot x.slot = .sealed r → servedCount r x.part x.first x.count = 0 →
        ∃ v : State, exec (.readReport dt tag args) s = .next (v.ended 12 tag .done (put4 0))
          ∧ v.lif = (s.taken dt).lif
          ∧ v.rps.slot x.slot = .sealed (noteRead x.part x.first 0 r)
          ∧ (∀ n, n ≠ x.slot → v.rps.slot n = s.rps.slot n) ∧ v.rps.ring = s.rps.ring))

/-- A report read hands over its next RPT frame of up to sixteen records, which begins to be sent where the transmitter is free, and with none left ends DONE with the number of records sent and its read state noted; a read whose slot was taken over ends NO_SUCH_SLOT with the number sent (R160, R161). That the answer is a row of its own, once no RPT frame waits or is being sent, is the model's choice (notes/assumptions/45.md). What a read of a section notes: coverage grows only from its own edge, the section counts as read once, and a report read whole is read-complete (R161). The row acts after dt µs of loop time (the model's form, notes/assumptions/1.md). -/
def Obligations.RptFramesCarryTheRecords : Prop :=
  (∀ (s : State) (dt : Nat) (j : ReadJob) (tag : Byte) (r : Report), s.powered = true →
      s.lif.inProgress = some ⟨.read j, tag, false⟩ → s.lif.rptClear = true → j.cut = false →
      1 ≤ j.slot → j.slot ≤ s.rps.slots.length → s.rps.slot j.slot = .sealed r →
      (j.sent < j.total → s.lif.locked = true → s.lif.sending.isSome = true →
        exec (.rptFrameSend dt) s = .next { s.elapse dt with
          lif := { (s.elapse dt).lif with
            inProgress := some ⟨.read { j with sent := j.sent + min 16 (j.total - j.sent) }, tag, false⟩
            own := s.lif.own ++ [⟨.rpt, s.controller, rptPayload j.slot j.part j.passage (j.first + j.sent)
              (((sectionRecords r j.part).drop (j.first + j.sent)).take (min 16 (j.total - j.sent))), false, none⟩] } })
      ∧ (j.sent < j.total → s.lif.locked = true → s.lif.sending = none → s.lif.timWaiting = false → s.lif.own = [] →
        exec (.rptFrameSend dt) s = .next { s.elapse dt with
          lif := { (s.elapse dt).lif with
            inProgress := some ⟨.read { j with sent := j.sent + min 16 (j.total - j.sent) }, tag, false⟩
            sending := some ⟨.own .rpt, frameOctets s.controller s.lif.station .rpt
              (rptPayload j.slot j.part j.passage (j.first + j.sent)
                (((sectionRecords r j.part).drop (j.first + j.sent)).take (min 16 (j.total - j.sent))))⟩ } })
      ∧ (j.total ≤ j.sent →
        ∃ v : State, exec (.rptFrameSend dt) s = .next (v.ended 12 tag .done (put4 j.sent))
          ∧ v.lif = (s.elapse dt).lif ∧ v.rps.slot j.slot = .sealed (noteRead j.part j.first j.total r)
          ∧ (∀ n, n ≠ j.slot → v.rps.slot n = s.rps.slot n)))
  ∧ (∀ (s : State) (dt : Nat) (j : ReadJob) (tag : Byte), s.powered = true →
      s.lif.inProgress = some ⟨.read j, tag, false⟩ → s.lif.rptClear = true → j.cut = true →
      exec (.rptFrameSend dt) s = .next ((s.elapse dt).ended 12 tag .noSuchSlot (put4 j.sent)))
  ∧ (∀ (part : Section) (first n : Nat) (r : Report),
      ((noteRead part first n r).reads.get part).once = true
      ∧ ((r.reads.get part).coverage < first →
          ((noteRead part first n r).reads.get part).coverage = (r.reads.get part).coverage)
      ∧ (first ≤ (r.reads.get part).coverage →
          ((noteRead part first n r).reads.get part).coverage = max (r.reads.get part).coverage (first + n))
      ∧ (∀ other, other ≠ part → (noteRead part first n r).reads.get other = r.reads.get other)
      ∧ ((noteRead part first n r).readComplete = true ↔
          r.readComplete = true ∨ ∀ q, sectionRead (noteRead part first n r) q = true))

/-- RELEASE_REPORT answers by its arguments and the slot, and frees a SEALED slot that holds the named passage, whose summary becomes RELEASED (R162). A command row is LIF taking the command, after dt µs of loop time (the model's form, notes/assumptions/1.md and 6.md). The arrangement of arguments is the model's (notes/assumptions/12.md). -/
def Obligations.ReleaseReportFreesTheSlot : Prop :=
  ∀ (s : State) (dt : Nat) (tag : Byte) (args : List Byte), s.Ready 13 tag args →
    (whole (takePair take4 take4) args = none →
      exec (.releaseReport dt tag args) s = .next ((s.taken dt).ended 13 tag .badArgument []))
    ∧ (∀ slot passage, whole (takePair take4 take4) args = some (slot, passage) →
      (slot = 0 ∨ 4 < slot ∨ passage = 0 →
        exec (.releaseReport dt tag args) s = .next ((s.taken dt).ended 13 tag .badArgument []))
      ∧ (1 ≤ slot → slot ≤ 4 → 1 ≤ passage →
        (s.rps.slot slot = .free →
          exec (.releaseReport dt tag args) s = .next ((s.taken dt).ended 13 tag .noSuchSlot []))
        ∧ (∀ n, s.rps.slot slot = .filling n → n ≠ passage →
          exec (.releaseReport dt tag args) s = .next ((s.taken dt).ended 13 tag .noSuchSlot []))
        ∧ (s.rps.slot slot = .filling passage →
          exec (.releaseReport dt tag args) s = .next ((s.taken dt).ended 13 tag .notSealed []))
        ∧ (∀ r, s.rps.slot slot = .sealed r → r.header.number ≠ passage →
          exec (.releaseReport dt tag args) s = .next ((s.taken dt).ended 13 tag .noSuchSlot []))
        ∧ (∀ r, s.rps.slot slot = .sealed r → r.header.number = passage →
          exec (.releaseReport dt tag args) s = .next (({ s.taken dt with
            rps := { (s.taken dt).rps with
              slots := s.rps.slots.set (slot - 1) .free
              ring := s.rps.ring.map fun x =>
                if x.detail = .inSlot slot then { x with detail := .released } else x } } : State).ended 13 tag .done []))))

/-- A passage start is given the lowest-numbered FREE slot, failing that the clean SEALED slot sealed first, failing that none (R151). CROSSING_TAKE of a crossing that starts a passage makes the slot given FILLING under the passage number and notes it in the passage; a takeover marks the summary of the passage taken over TAKEN_OVER, cuts a read of that slot and raises SLOT_TAKEN_OVER; without a slot DETAIL_LOST is raised (R151 to R153). The sealing, which CLOSING_STEPS runs as the step before its end, puts the report into the passage's slot with the next seal order while that is below its limit, adds the summary to the ring, and raises PASSAGE_CLOSED (R155, R163). The row acts after dt µs of loop time (the model's form, notes/assumptions/1.md). -/
def Obligations.SlotsAreChosenAndSealed : Prop :=
  (∀ r : Rps, r.slots.length = 4 →
      (∀ n, 1 ≤ n → n ≤ 4 → r.slot n = .free → (∀ k, 1 ≤ k → k < n → r.slot k ≠ .free) → r.choose = .fresh n)
      ∧ ((∀ k, 1 ≤ k → k ≤ 4 → r.slot k ≠ .free) →
        (∀ n x, 1 ≤ n → n ≤ 4 → r.slot n = .sealed x → protectedReport x = false →
          (∀ k y, 1 ≤ k → k ≤ 4 → k ≠ n → r.slot k = .sealed y → protectedReport y = false → x.sealOrder < y.sealOrder) →
          r.choose = .takeover n)
        ∧ ((∀ k y, 1 ≤ k → k ≤ 4 → r.slot k = .sealed y → protectedReport y = true) → r.choose = .noSlot)))
  ∧ (∀ (s : State) (dt : Nat) (x : Crossing) (rest : List Crossing), s.powered = true → s.axt.queue = x :: rest →
      (s.scu.site = .armed ∨ s.scu.site = .checking) → (x.wt = .wt1 ∧ x.dir = .up) ∨ (x.wt = .wt4 ∧ x.dir = .down) →
      ∃ t p, exec (.crossingTake dt) s = .next t ∧ t.passage = some p ∧ t.raised .passageStarted
        ∧ t.rps.sealCount = s.rps.sealCount
        ∧ (∀ n, s.rps.choose = .fresh n → p.slot = some n
            ∧ t.rps.slots = s.rps.slots.set (n - 1) (.filling s.axt.nextPassage) ∧ t.rps.ring = s.rps.ring
            ∧ t.lif = (s.elapse dt).lif)
        ∧ (∀ n, s.rps.choose = .takeover n → p.slot = some n ∧ t.raised .slotTakenOver
            ∧ t.rps.slots = s.rps.slots.set (n - 1) (.filling s.axt.nextPassage)
            ∧ t.rps.ring = s.rps.ring.map (fun y => if y.detail = .inSlot n then { y with detail := .takenOver } else y)
            ∧ (∀ j, s.lif.inProgress = some j → t.lif.inProgress = some
                (match j.job with
                  | .read r => if r.slot = n then { j with job := .read { r with cut := true } } else j
                  | .stop | .store => j)))
        ∧ (s.rps.choose = .noSlot → p.slot = none ∧ t.raised .detailLost
            ∧ t.rps.slots = s.rps.slots ∧ t.rps.ring = s.rps.ring ∧ t.lif = (s.elapse dt).lif))
  ∧ (∀ (s : State) (p : Passage) (d : Disposition) (t : LoopTime), s.passage = some p → p.disposition = some d → p.endTime = some t →
      s.sealPassage.raised .passageClosed
      ∧ s.sealPassage.rps.ring = (s.rps.ring ++ [(Summary.mk p.number p.startTime t d p.dir p.total s.aou.alarms.highest
          (match p.slot with
            | some n => .inSlot n
            | none => .detailLost))]).drop (s.rps.ring.length + 1 - 16)
      ∧ (p.slot = none → s.sealPassage.rps.slots = s.rps.slots)
      ∧ (∀ n, p.slot = some n → 1 ≤ n → n ≤ s.rps.slots.length → s.rps.sealCount < 4294967295 →
          ∃ r, s.sealPassage.rps.slot n = .sealed r
            ∧ r.sealOrder = s.rps.sealCount + 1 ∧ s.sealPassage.rps.sealCount = s.rps.sealCount + 1
            ∧ r.header.number = p.number ∧ r.header.disposition = d ∧ r.header.total = p.total
            ∧ r.header.records = p.axles.length ∧ r.header.flags = p.flags ∧ r.header.counters = p.counters
            ∧ r.header.highest = s.aou.alarms.highest ∧ r.axles = p.axles ∧ r.vehicles = p.vehicles
            ∧ r.alarms = s.aou.alarms.entries ∧ r.readComplete = false
            ∧ (∀ k, k ≠ n → s.sealPassage.rps.slot k = s.rps.slot k)))

/-- ACK_EVENTS removes each listed kind that is pending with its mark clear, leaves every other kind, and answers DONE with the pending set (R166). SET_EVENT_MASK replaces the mask as a whole, and a kind unmasked while pending sets send-due (R167). A raise makes its kind pending with its mark set, sets send-due if the kind is not masked, and touches no other kind (R164, R165). That a list with a number outside 1 to 13 is BAD_ARGUMENT, and that bits 13 to 31 of the written mask are dropped, are the model's choices (notes/assumptions/43.md and 44.md). A command row is LIF taking the command, after dt µs of loop time (the model's form, notes/assumptions/1.md and 6.md). The arrangement of arguments is the model's (notes/assumptions/12.md). -/
def Obligations.EventsAreKeptUntilTold : Prop :=
  (∀ (s : State) (dt : Nat) (tag : Byte) (args : List Byte), s.Ready 15 tag args →
      (whole (takeList takeKind) args = none →
        exec (.ackEvents dt tag args) s = .next ((s.taken dt).ended 15 tag .badArgument []))
      ∧ (∀ kinds, whole (takeList takeKind) args = some kinds →
        ∃ pending : BitVec 13,
          exec (.ackEvents dt tag args) s = .next (({ s.taken dt with
              rps := { (s.taken dt).rps with pending := pending } } : State).ended 15 tag .done (put4 pending.toNat))
          ∧ ∀ i, i < 13 → (pending.getLsbD i = true ↔
              s.rps.pending.getLsbD i = true ∧ ¬ ((∃ k ∈ kinds, k.getLsbD i = true) ∧ s.rps.marks.getLsbD i = false))))
  ∧ (∀ (s : State) (dt : Nat) (tag : Byte) (args : List Byte), s.Ready 16 tag args →
      (whole takeSet args = none →
        exec (.setEventMask dt tag args) s = .next ((s.taken dt).ended 16 tag .badArgument []))
      ∧ (∀ m, whole takeSet args = some m →
        ∃ due : Bool,
          exec (.setEventMask dt tag args) s = .next (({ s.taken dt with
              rps := { (s.taken dt).rps with mask := BitVec.ofNat 13 m, sendDue := due } } : State).ended 16 tag .done [])
          ∧ (due = true ↔ s.rps.sendDue = true ∨ ∃ i, i < 13 ∧ s.rps.pending.getLsbD i = true
              ∧ s.rps.mask.getLsbD i = true ∧ m.testBit i = false)))
  ∧ (∀ (s : State) (k : EventKind),
      (s.raise k).raised k
      ∧ (s.rps.mask.getLsbD (eventNumber k - 1) = false → (s.raise k).rps.sendDue = true)
      ∧ (s.rps.mask.getLsbD (eventNumber k - 1) = true → (s.raise k).rps.sendDue = s.rps.sendDue)
      ∧ (∀ i, i ≠ eventNumber k - 1 → (s.raise k).rps.pending.getLsbD i = s.rps.pending.getLsbD i
          ∧ (s.raise k).rps.marks.getLsbD i = s.rps.marks.getLsbD i))

/-- An EVT frame is formed when send-due is set, no hold-off runs, the loop is LOCKED and no EVT frame waits: it lists the pending kinds not masked, clears their marks and send-due, and its sending starts the hold-off; with no kind to list send-due is cleared alone (R165). The hold-off ends at its expiry, and nothing else changes (R165). The row acts after dt µs of loop time (the model's form, notes/assumptions/1.md). -/
def Obligations.EvtFramesListPendingKinds : Prop :=
  (∀ (s : State) (dt : Nat), s.powered = true → s.rps.sendDue = true → (s.elapse dt).rps.holdOff = none →
      s.lif.locked = true → (∀ f ∈ s.lif.own, f.kind ≠ .evt) →
      (s.rps.pending &&& ~~~s.rps.mask = 0 →
        exec (.evtFrameSend dt) s = .next { s.elapse dt with rps := { (s.elapse dt).rps with sendDue := false } })
      ∧ (s.rps.pending &&& ~~~s.rps.mask ≠ 0 →
        (s.lif.sending.isSome = true → exec (.evtFrameSend dt) s = .next { s.elapse dt with
          rps := { (s.elapse dt).rps with
            marks := s.rps.marks &&& ~~~(s.rps.pending &&& ~~~s.rps.mask), sendDue := false, lastEvt := some (later s.now dt) }
          lif := { (s.elapse dt).lif with
            own := s.lif.own ++ [⟨.evt, s.controller,
              evtPayload (s.rps.pending &&& ~~~s.rps.mask) s.scu.site (s.elapse dt).evtPassage, false, none⟩] } })
        ∧ (s.lif.sending = none → s.lif.timWaiting = false → s.lif.own = [] →
          ∃ t, exec (.evtFrameSend dt) s = .next t
            ∧ t.lif.sending = some ⟨.own .evt, frameOctets s.controller s.lif.station .evt
                (evtPayload (s.rps.pending &&& ~~~s.rps.mask) s.scu.site (s.elapse dt).evtPassage)⟩
            ∧ t.rps.holdOff = some s.eventHoldOff ∧ t.rps.sendDue = false
            ∧ t.rps.pending = s.rps.pending
            ∧ t.rps.marks = s.rps.marks &&& ~~~(s.rps.pending &&& ~~~s.rps.mask))))
  ∧ (∀ (s : State) (dt n : Nat), s.powered = true → s.rps.holdOff = some n → n ≤ dt →
      exec (.holdOffExpiry dt) s = .next { s.elapse dt with rps := { (s.elapse dt).rps with holdOff := none } })

/-! ### The site loop -/

/-- A frame in LOCKED that fails its check, or comes at another rate, is counted and changes nothing else; in SEARCH it changes nothing (R187, R188; that it is not counted in SEARCH is the model's reading, notes/assumptions/17.md). In LOCKED a frame that passes its check restarts the quiet timer; a frame from the part's station or the kept previous one is stripped, the first frame sent under the new address ending the kept one (known by its octets, the model's reading, notes/assumptions/50.md), a foreign one for another station waits to go on, and one of a kind the part does not consume is counted (R187 to R190). The row acts after dt µs of loop time (the model's form, notes/assumptions/1.md). -/
def Obligations.LockedFramesByAddress : Prop :=
  (∀ (s : State) (dt : Nat) (rate : Rate) (bytes : List Byte), s.powered = true →
      (rate ≠ s.lif.rate ∨ checkFrame bytes = none) →
      (s.lif.locked = true → exec (.frameReceived dt rate bytes) s = .next { s.elapse dt with
        lif := { (s.elapse dt).lif with
          counters := { s.lif.counters with badFrames := min 65535 (s.lif.counters.badFrames + 1) } } })
      ∧ (s.lif.locked = false → exec (.frameReceived dt rate bytes) s = .next (s.elapse dt)))
  ∧ (∀ (s : State) (dt : Nat) (bytes : List Byte) (f : Frame), s.powered = true → s.lif.locked = true →
      checkFrame bytes = some f →
      (ownSource s.lif f.source = true →
        ((∀ p, s.lif.strip = some p → f.octets ≠ p.first) → exec (.frameReceived dt s.lif.rate bytes) s = .next { s.elapse dt with
          lif := { (s.elapse dt).lif with quiet := some s.quietLimit } })
        ∧ (∀ p, s.lif.strip = some p → f.octets = p.first → exec (.frameReceived dt s.lif.rate bytes) s = .next { s.elapse dt with
          lif := { (s.elapse dt).lif with quiet := some s.quietLimit, strip := none } }))
      ∧ (∀ n, ownSource s.lif n = true ↔ n = s.lif.station ∨ ∃ p, s.lif.strip = some p ∧ n = p.station)
      ∧ (ownSource s.lif f.source = false → f.dest ≠ s.lif.station → f.dest ≠ 255 → s.lif.sending.isSome = true →
        s.lif.forward.length < 16 → exec (.frameReceived dt s.lif.rate bytes) s = .next { s.elapse dt with
          lif := { (s.elapse dt).lif with quiet := some s.quietLimit, forward := s.lif.forward ++ [f.octets] } })
      ∧ (ownSource s.lif f.source = false → f.dest ≠ s.lif.station → f.dest ≠ 255 → 16 ≤ s.lif.forward.length →
        exec (.frameReceived dt s.lif.rate bytes) s = .next { s.elapse dt with
          lif := { (s.elapse dt).lif with
            quiet := some s.quietLimit
            counters := { s.lif.counters with forwardOverflows := min 65535 (s.lif.counters.forwardOverflows + 1) } } })
      ∧ (ownSource s.lif f.source = false → f.dest = s.lif.station → (f.kind = 0 ∨ f.kind = 4 ∨ 6 ≤ f.kind) →
        exec (.frameReceived dt s.lif.rate bytes) s = .next { s.elapse dt with
          lif := { (s.elapse dt).lif with
            quiet := some s.quietLimit
            counters := { s.lif.counters with unexpected := min 65535 (s.lif.counters.unexpected + 1) } } }))

/-- A CMD frame from another station is counted foreign; one from the controller waits in the command queue, or at a full queue is counted refused busy (R191; the waiting command is then a row of its own). The row acts after dt µs of loop time (the model's form, notes/assumptions/1.md). -/
def Obligations.CommandFramesReachTheQueue : Prop :=
  ∀ (s : State) (dt : Nat) (bytes : List Byte) (f : Frame), s.powered = true → s.lif.locked = true →
    checkFrame bytes = some f → ownSource s.lif f.source = false → f.dest = s.lif.station → f.kind = 5 →
    (f.source ≠ s.controller → exec (.frameReceived dt s.lif.rate bytes) s = .next { s.elapse dt with
      lif := { (s.elapse dt).lif with
        quiet := some s.quietLimit
        counters := { s.lif.counters with foreign := min 65535 (s.lif.counters.foreign + 1) } } })
    ∧ (f.source = s.controller → s.lif.linkLost = false → s.lif.free = false → 4 ≤ f.payload.length →
        s.lif.queue.length < 4 → ∃ t, exec (.frameReceived dt s.lif.rate bytes) s = .next t
          ∧ t.lif.queue = s.lif.queue ++ [cmdOf f.payload]
          ∧ (s.lif.supTimer.isSome = true → t.lif.supTimer = some s.supervisionLimit)
          ∧ SameBlocks (s.elapse dt) t ∧ t.rps = (s.elapse dt).rps)
    ∧ (f.source = s.controller → 4 ≤ f.payload.length → s.lif.queue.length = 4 →
        ∃ t, exec (.frameReceived dt s.lif.rate bytes) s = .next t ∧ t.lif.queue = s.lif.queue
          ∧ t.lif.counters.refusedBusy = min 65535 (s.lif.counters.refusedBusy + 1))

/-- The first frame that passes its check at the rate listened to, from whatever station, brings lock: the quiet timer runs at its limit, the first TIM frame begins, after a loss LOOP_RELOCKED is raised, and the frame is then handled as a frame in LOCKED is (R176, R187, R189); the part's own frame is stripped and changes nothing more. In SEARCH the rate listened to moves on every 100 ms: 16, 8, 4, 2 and again 16 Mbit/s (R187). The row acts after dt µs of loop time (the model's form, notes/assumptions/1.md). -/
def Obligations.SearchFindsTheLoop : Prop :=
  (∀ (s : State) (dt : Nat) (bytes : List Byte) (f : Frame), s.powered = true → s.lif.locked = false →
      s.lif.sending = none → checkFrame bytes = some f →
      ∃ v : State, exec (.frameReceived dt s.lif.rate bytes) s = .next (v.handleFrame f)
        ∧ v.lif.locked = true ∧ v.lif.rate = s.lif.rate ∧ v.lif.dwell = none ∧ v.lif.quiet = some s.quietLimit
        ∧ v.lif.timTimer = some 10000 ∧ v.lif.loopLost = false ∧ v.scu.loss = none ∧ v.lif.station = s.lif.station
        ∧ v.lif.sending = some ⟨.tim, frameOctets 255 s.lif.station .tim (putTime (later s.now dt))⟩
        ∧ (s.lif.loopLost = true → v.raised .loopRelocked ∧ v.raised .equipmentChanged)
        ∧ (s.lif.loopLost = false → v.rps = (s.elapse dt).rps)
        ∧ v.sin = (s.elapse dt).sin ∧ v.axt = s.axt ∧ v.passage = (s.elapse dt).passage ∧ v.tables = s.tables)
  ∧ (∀ (s : State) (dt : Nat) (bytes : List Byte) (f : Frame), s.powered = true → s.lif.locked = true →
      checkFrame bytes = some f → exec (.frameReceived dt s.lif.rate bytes) s
        = .next (State.handleFrame f { s.elapse dt with lif := { (s.elapse dt).lif with quiet := some s.quietLimit } }))
  ∧ (∀ (s : State) (dt : Nat) (bytes : List Byte) (f : Frame), s.powered = true → s.lif.locked = false →
      s.lif.sending = none → checkFrame bytes = some f → f.source = s.lif.station →
      ∃ t, exec (.frameReceived dt s.lif.rate bytes) s = .next t
        ∧ t.lif.locked = true ∧ t.lif.rate = s.lif.rate ∧ t.lif.dwell = none ∧ t.lif.quiet = some s.quietLimit
        ∧ t.lif.timTimer = some 10000 ∧ t.lif.loopLost = false ∧ t.scu.loss = none
        ∧ t.lif.sending = some ⟨.tim, frameOctets 255 s.lif.station .tim (putTime (later s.now dt))⟩
        ∧ (s.lif.loopLost = true → t.raised .loopRelocked ∧ t.raised .equipmentChanged)
        ∧ (s.lif.loopLost = false → t.rps = (s.elapse dt).rps))
  ∧ (∀ (s : State) (dt n : Nat), s.powered = true → s.lif.locked = false → s.lif.dwell = some n → n ≤ dt →
      exec (.searchDwellExpiry dt) s = .next { s.elapse dt with
        lif := { (s.elapse dt).lif with
          dwell := some 100000
          rate := match s.lif.rate with
            | .mbit16 => .mbit8
            | .mbit8 => .mbit4
            | .mbit4 => .mbit2
            | .mbit2 => .mbit16 } })

/-- The quiet timer's expiry in LOCKED loses the loop: SEARCH at 16 Mbit/s, LOOP_LOST in the fault set, the loss timer in PASSAGE (R176, R187). Waiting commands, waiting answers and a report read in progress are lost, each counted as an answer lost, and a formed EVT frame stays (R192; what is counted and what stays is the model's reading, notes/assumptions/8.md). The row acts after dt µs of loop time (the model's form, notes/assumptions/1.md). -/
def Obligations.QuietTimeLosesTheLoop : Prop :=
  ∀ (s : State) (dt n : Nat), s.powered = true → s.lif.locked = true → s.lif.quiet = some n → n ≤ dt →
    ∃ t, exec (.quietTimerExpiry dt) s = .next t
      ∧ t.lif.locked = false ∧ t.lif.rate = .mbit16 ∧ t.lif.dwell = some 100000 ∧ t.lif.quiet = none
      ∧ t.lif.loopLost = true ∧ t.lif.queue = [] ∧ t.lif.sending = none ∧ t.lif.forward = []
      ∧ t.lif.own = s.lif.own.filter (fun f => f.kind == .evt)
      ∧ t.lif.counters.answersLost = min 65535 (s.lif.counters.answersLost + s.lif.queue.length
          + (s.lif.own.filter fun f => f.kind == .ans).length
          + (match s.lif.inProgress with
              | some ⟨.read _, _, _⟩ => 1
              | _ => 0))
      ∧ (∀ r tag b, s.lif.inProgress = some ⟨.read r, tag, b⟩ → t.lif.inProgress = none)
      ∧ (∀ tag b, s.lif.inProgress = some ⟨.stop, tag, b⟩ → t.lif.inProgress = some ⟨.stop, tag, true⟩)
      ∧ (∀ tag b, s.lif.inProgress = some ⟨.store, tag, b⟩ → t.lif.inProgress = some ⟨.store, tag, true⟩)
      ∧ t.lif.counters.loopLosses = min 65535 (s.lif.counters.loopLosses + 1)
      ∧ t.raised .equipmentChanged
      ∧ (s.scu.site = .passage → s.scu.check ≠ .run .capture → s.scu.check ≠ .run .reference →
          t.scu.loss = some 10000000 ∧ t.scu.site = .passage)
      ∧ (s.scu.check = .run .capture ∨ s.scu.check = .run .reference →
          t.scu.site = .armed ∧ t.scu.check = .aborted .loop ∧ t.raised .checkEnded)

/-- When a frame has been sent, the transmitter takes a due TIM frame first, then the own frame handed over first, then the first frame to forward; with nothing waiting it rests (R189). Every 10 ms of LOCKED a TIM frame falls due; it goes out at once when the transmitter is free (R189). The row acts after dt µs of loop time (the model's form, notes/assumptions/1.md). -/
def Obligations.TransmitterTakesTheNextFrame : Prop :=
  (∀ (s : State) (dt : Nat) (x : Sending), s.powered = true → s.lif.locked = true → s.lif.sending = some x →
      s.lif.queue = [] →
      (s.lif.timWaiting = true → exec (.frameSendComplete dt) s = .next { s.elapse dt with
        lif := { (s.elapse dt).lif with
          timWaiting := false
          sending := some ⟨.tim, frameOctets 255 s.lif.station .tim (putTime (later s.now dt))⟩ } })
      ∧ (∀ f rest, s.lif.timWaiting = false → s.lif.own = f :: rest → f.newStation = none →
        ∃ t, exec (.frameSendComplete dt) s = .next t ∧ t.lif.own = rest
          ∧ t.lif.sending = some ⟨.own f.kind, frameOctets f.dest s.lif.station (ownFrameKind f.kind) f.payload⟩
          ∧ (f.kind = .evt → t.rps.holdOff = some s.eventHoldOff)
          ∧ (f.kind ≠ .evt → t.rps = (s.elapse dt).rps))
      ∧ (∀ g more, s.lif.timWaiting = false → s.lif.own = [] → s.lif.forward = g :: more →
        exec (.frameSendComplete dt) s = .next { s.elapse dt with
          lif := { (s.elapse dt).lif with forward := more, sending := some ⟨.forwarded, g⟩ } })
      ∧ (s.lif.timWaiting = false → s.lif.own = [] → s.lif.forward = [] →
        exec (.frameSendComplete dt) s = .next { s.elapse dt with lif := { (s.elapse dt).lif with sending := none } }))
  ∧ (∀ (s : State) (dt n : Nat), s.powered = true → s.lif.locked = true → s.lif.timTimer = some n → n ≤ dt →
      (s.lif.sending = none → exec (.timFrameDue dt) s = .next { s.elapse dt with
        lif := { (s.elapse dt).lif with
          timTimer := some 10000, timWaiting := false
          sending := some ⟨.tim, frameOctets 255 s.lif.station .tim (putTime (later s.now dt))⟩ } })
      ∧ (s.lif.sending.isSome = true → exec (.timFrameDue dt) s = .next { s.elapse dt with
        lif := { (s.elapse dt).lif with timTimer := some 10000, timWaiting := true } }))

/-- SET_STATION in OFFLINE with the station not fixed refuses a station outside 1..126 or the controller's; otherwise the new address takes effect, with the old one kept for 100 ms, as its answer DONE begins to be sent (R190). That the octets of this answer are kept beside the old address, to know it by when it comes round, is the model's reading (notes/assumptions/50.md). The kept previous address goes after 100 ms (R190). A command row is LIF taking the command, after dt µs of loop time (the model's form, notes/assumptions/1.md and 6.md). The arrangement of arguments is the model's (notes/assumptions/12.md). -/
def Obligations.SetStationChangesTheAddress : Prop :=
  (∀ (s : State) (dt : Nat) (tag : Byte) (args : List Byte), s.Ready 20 tag args → s.scu.site = .offline →
      s.lif.fixed = false →
      (whole (takePair take4 (takeCode stationSettings)) args = none →
        exec (.setStation dt tag args) s = .next ((s.taken dt).ended 20 tag .badArgument []))
      ∧ (∀ n fix, whole (takePair take4 (takeCode stationSettings)) args = some (n, fix) →
        (n = 0 ∨ 126 < n ∨ n = s.controller →
          exec (.setStation dt tag args) s = .next ((s.taken dt).ended 20 tag .badArgument []))
        ∧ (1 ≤ n → n ≤ 126 → n ≠ s.controller → s.lif.locked = true → s.lif.sending = none →
            s.lif.timWaiting = false → s.lif.own = [] →
          ∃ t, exec (.setStation dt tag args) s = .next t ∧ t.lif.station = n ∧ t.lif.fixed = fix
            ∧ t.lif.strip = some ⟨s.lif.station, some 100000, frameOctets s.controller n .ans (ansPayload 20 tag .done [])⟩
            ∧ t.lif.sending = some ⟨.own .ans, frameOctets s.controller n .ans (ansPayload 20 tag .done [])⟩)
        ∧ (1 ≤ n → n ≤ 126 → n ≠ s.controller → s.lif.locked = true → s.lif.sending.isSome = true →
          exec (.setStation dt tag args) s = .next { s.taken dt with
            lif := { (s.taken dt).lif with
              fixed := fix
              own := s.lif.own ++ [⟨.ans, s.controller, ansPayload 20 tag .done [], false, some n⟩] } })))
  ∧ (∀ (s : State) (dt n station : Nat) (first : List Byte), s.powered = true →
      s.lif.strip = some ⟨station, some n, first⟩ → n ≤ dt →
      exec (.stripAddressTimeout dt) s = .next { s.elapse dt with lif := { (s.elapse dt).lif with strip := none } })

/-- The supervision timer's expiry makes the controller LOST, and the lines follow (R198). FRAME_RECEIVED of a CMD frame from the controller, well formed or too short, makes it PRESENT again: the timer restarts at its limit, CONTROLLER_RESUMED is raised and the lines follow (R191, R198). The row acts after dt µs of loop time (the model's form, notes/assumptions/1.md). -/
def Obligations.SupervisionLosesTheController : Prop :=
  ∀ (s : State) (dt n : Nat),
    (s.powered = true → s.lif.supTimer = some n → n ≤ dt →
      ∃ t, exec (.supervisionTimerExpiry dt) s = .next t ∧ t.lif.linkLost = true ∧ t.lif.supTimer = none
        ∧ t.rps = (s.elapse dt).rps ∧ t.scu = (s.elapse dt).scu
        ∧ (∀ l, (t.aou.lines.get l).asserted = t.lineAsserted l))
    ∧ (s.lif.linkLost = true → s.hearController.lif.linkLost = false
        ∧ s.hearController.lif.supTimer = some s.supervisionLimit ∧ s.hearController.raised .controllerResumed)
    ∧ (∀ (bytes : List Byte) (f : Frame), s.Hears bytes f → f.dest = s.lif.station → f.kind = 5 →
        f.source = s.controller → s.lif.linkLost = true →
        ∃ t, exec (.frameReceived dt s.lif.rate bytes) s = .next t ∧ t.lif.linkLost = false
          ∧ t.lif.supTimer = some s.supervisionLimit ∧ t.raised .controllerResumed
          ∧ (∀ l, (t.aou.lines.get l).asserted = t.lineAsserted l)
          ∧ (f.payload.length < 4 →
              t.lif.counters.malformed = min 65535 (s.lif.counters.malformed + 1) ∧ t.lif.queue = s.lif.queue))

/-! ### Sample Intake -/

/-- A node silent for 1 s becomes SILENT: NODE_SILENT stands in the fault set and EQUIPMENT_CHANGED is raised (R6, R140). Outside OFFLINE an NST frame from a node's station starts its timer of 1 s anew and brings a SILENT node back to PRESENT, out of the fault set, with EQUIPMENT_CHANGED; in OFFLINE and from any other station it changes nothing (R6). An SMP frame in OFFLINE is discarded uncounted; outside OFFLINE it counts unknown-node where its station is no digitizer's, malformed where its form is not its node's, and a sample order fault where its time is not later than its node's order record, and changes nothing else (R10, R11, R22). The row acts after dt µs of loop time (the model's form, notes/assumptions/1.md). -/
def Obligations.SilentNodesAreFaults : Prop :=
  (∀ (s : State) (dt n node : Nat), s.powered = true → 1 ≤ node → node ≤ 12 → s.sin.nodes.length = 12 →
    (s.node node).timer = some n → n ≤ dt →
    ∃ t, exec (.nodeSilenceExpiry dt node) s = .next t
      ∧ (t.node node).silent = true ∧ (t.node node).timer = none ∧ (t.node node).order = (s.node node).order
      ∧ t.raised .equipmentChanged
      ∧ ((nodeEntry s.tables node).isSome = true → .nodeSilent node ∈ t.faultSet)
      ∧ (∀ k, k ≠ node → 1 ≤ k → t.node k = (s.elapse dt).node k)
      ∧ t.lif = (s.elapse dt).lif ∧ t.scu = (s.elapse dt).scu ∧ t.passage = (s.elapse dt).passage
      ∧ t.axt = s.axt ∧ t.brg = (s.elapse dt).brg)
  ∧ (∀ (s : State) (dt : Nat) (bytes : List Byte) (f : Frame), s.Hears bytes f → f.kind = 3 →
      (s.scu.site = .offline ∨ nodeAt s.tables f.source = none →
        exec (.frameReceived dt s.lif.rate bytes) s = .next (s.heard dt f))
      ∧ (∀ node, s.scu.site ≠ .offline → nodeAt s.tables f.source = some node →
        ((s.node node).silent = false → exec (.frameReceived dt s.lif.rate bytes) s = .next { s.heard dt f with
          sin := { (s.heard dt f).sin with nodes := (s.heard dt f).sin.nodes.modify (node - 1) fun n =>
            { n with silent := false, timer := some 1000000 } } })
        ∧ ((s.node node).silent = true → ∃ t, exec (.frameReceived dt s.lif.rate bytes) s = .next t
          ∧ (t.node node).silent = false ∧ (t.node node).timer = some 1000000 ∧ (t.node node).order = (s.node node).order
          ∧ .nodeSilent node ∉ t.faultSet ∧ t.raised .equipmentChanged
          ∧ (∀ k, k ≠ node → 1 ≤ k → t.node k = (s.elapse dt).node k)
          ∧ t.lif = (s.heard dt f).lif ∧ t.scu = (s.elapse dt).scu ∧ t.passage = (s.elapse dt).passage)))
  ∧ (∀ (s : State) (dt : Nat) (bytes : List Byte) (f : Frame), s.Hears bytes f → f.kind = 1 →
      (s.scu.site = .offline → exec (.frameReceived dt s.lif.rate bytes) s = .next (s.heard dt f))
      ∧ (s.scu.site ≠ .offline →
        (nodeAt s.tables f.source = none
            ∨ (∃ node e, nodeAt s.tables f.source = some node ∧ nodeEntry s.tables node = some e ∧ e.kind = .transducer) →
          exec (.frameReceived dt s.lif.rate bytes) s = .next { s.heard dt f with sin := { (s.heard dt f).sin with
            counters := { s.sin.counters with unknownNode := min 65535 (s.sin.counters.unknownNode + 1) } } })
        ∧ (∀ node e, nodeAt s.tables f.source = some node → nodeEntry s.tables node = some e → e.kind ≠ .transducer →
          (¬ s.Samples f node e →
            exec (.frameReceived dt s.lif.rate bytes) s = .next { s.heard dt f with sin := { (s.heard dt f).sin with
              counters := { s.sin.counters with malformed := min 65535 (s.sin.counters.malformed + 1) } } })
          ∧ (∀ r, s.Samples f node e → (s.node node).order = some r → timeDiff (timeAt f.payload 4) r.first ≤ 0 →
            exec (.frameReceived dt s.lif.rate bytes) s = .next { s.heard dt f with sin := { (s.heard dt f).sin with
              counters := { s.sin.counters with order := min 65535 (s.sin.counters.order + 1) } } }))))

/-- Each cycle of the ambient oscillator counts one in the gate, up to 65,535 (R16). A gate ends after 250 ms: a count that converts to −50.0..+70.0 °C unclamped joins the history and clears the fault, another sets the fault, and the next gate starts at 0 (R16, R17). The ambient value is UNKNOWN with an empty history, and else the rounded mean of the conversions held (R17). The row acts after dt µs of loop time (the model's form, notes/assumptions/1.md). -/
def Obligations.AmbientIsMeasuredByGates : Prop :=
  (∀ (s : State) (dt : Nat), s.powered = true → s.sin.gateCount ≤ 65535 →
      exec (.ambientOscillatorCycle dt) s = .next { s.elapse dt with
        sin := { (s.elapse dt).sin with gateCount := min 65535 (s.sin.gateCount + 1) } })
  ∧ (∀ (s : State) (dt : Nat), s.powered = true → s.sin.gateLeft ≤ dt →
      ∃ t, exec (.ambientGateEnd dt) s = .next t ∧ t.sin.gateLeft = 250000 ∧ t.sin.gateCount = 0
        ∧ (s.gateConversion = none → t = { s.elapse dt with sin := { (s.elapse dt).sin with gateLeft := 250000, gateCount := 0 } })
        ∧ (∀ c, s.gateConversion = some c → c.clamped = false ∧ -500 ≤ c.value ∧ c.value ≤ 700 →
            t.sin.ambientFault = false ∧ t.sin.ambientFresh = true
            ∧ t.sin.history = (s.sin.history ++ [c.value]).drop (s.sin.history.length + 1 - 4)
            ∧ (s.sin.ambientFault = true → t.raised .equipmentChanged))
        ∧ (∀ c, s.gateConversion = some c → ¬ (c.clamped = false ∧ -500 ≤ c.value ∧ c.value ≤ 700) →
            t.sin.ambientFault = true ∧ t.sin.history = s.sin.history ∧ t.sin.ambientFresh = s.sin.ambientFresh
            ∧ (s.sin.ambientFault = false → t.raised .equipmentChanged)))
  ∧ (∀ s : State, (s.sin.history = [] → s.ambient = none)
      ∧ (s.sin.history ≠ [] → s.ambient = some (divRound (sumInt s.sin.history) s.sin.history.length)))

/-- A calibrated force is the rounded quotient of R12, below −32,768 taken as −32,768 and above 32,767 as 32,767, with an overrange mark exactly then; without a baseline there is none. Division rounds to the nearest integer, ties away from zero (R3). A conversion table answers its first output below its first input and its last above its last, with the clamp mark, and between two points the interpolated output; an INVALID one answers nothing (R15). An SMP frame's samples are those of the channels that name its node and an index it holds, each at its own time, calibrated or converted by kind (R10, R12, R15). Samples that DELAY_LINE_RELEASE releases step a crib channel's baseline in ARMED, are captured in the capture period of a check and step it in CHECKING outside that period, and leave it in PASSAGE and CLOSING; scanner samples of the reference period are gathered (R13, R14, R131). The row acts after dt µs of loop time, and a timer waits at 0 until its row is taken (the model's form, notes/assumptions/1.md); that nothing is gathered at the very moment gathering ends is the model's choice (notes/assumptions/49.md). -/
def Obligations.CalibrationHoldsTheForce : Prop :=
  (∀ (s : State) (c : Nat) (e : ChannelEntry) (t : LoopTime) (r : Int), e.kind = .crib →
      ((s.channel c).baseline = none → s.calibrated c e t r = ⟨c, t, r, none, none, false⟩)
      ∧ (∀ z, (s.channel c).baseline = some z → ∃ f : Int,
          s.calibrated c e t r = ⟨c, t, r, some f, none, decide (f ≠ divRound ((r * 256 - z) * e.gain) 16777216)⟩
          ∧ -32768 ≤ f ∧ f ≤ 32767
          ∧ (-32768 ≤ divRound ((r * 256 - z) * e.gain) 16777216 → divRound ((r * 256 - z) * e.gain) 16777216 ≤ 32767 →
              f = divRound ((r * 256 - z) * e.gain) 16777216)
          ∧ (divRound ((r * 256 - z) * e.gain) 16777216 < -32768 → f = -32768)
          ∧ (32767 < divRound ((r * 256 - z) * e.gain) 16777216 → f = 32767)))
  ∧ (∀ (a : Int) (b : Nat), 0 < b →
      (0 ≤ a → 2 * divRound a b * b ≤ 2 * a + b ∧ 2 * a + b < 2 * (divRound a b + 1) * b)
      ∧ divRound (-a) b = -divRound a b)
  ∧ (∀ (l : List ConvPoint) (x : Int), (∀ i a b, l[i]? = some a → l[i + 1]? = some b → a.input < b.input) →
      (∀ a, l[0]? = some a → x < a.input → convert (l.map some) x = some ⟨a.output, true⟩)
      ∧ (∀ a, l.getLast? = some a → a.input < x → convert (l.map some) x = some ⟨a.output, true⟩)
      ∧ (∀ a ∈ l, x = a.input → convert (l.map some) x = some ⟨a.output, false⟩)
      ∧ (∀ i a b, l[i]? = some a → l[i + 1]? = some b → a.input < x → x < b.input → convert (l.map some) x
          = some ⟨a.output + divRound ((b.output - a.output) * (x - a.input)) (b.input - a.input).toNat, false⟩))
  ∧ (∀ (s : State) (k : Nat) (x : Int),
      (s.invalid.getD (4 + k) false = true → s.convertBy k x = none)
      ∧ (s.invalid.getD (4 + k) false = false → s.convertBy k x = convert (s.tables.conv.getD k []) x))
  ∧ (∀ (s : State) (c : Nat) (e : ChannelEntry) (t : LoopTime) (r : Int), e.kind = .scanner →
      (s.convertBy e.conv r = none → s.calibrated c e t r = ⟨c, t, r, none, none, false⟩)
      ∧ (∀ v, s.convertBy e.conv r = some v → s.calibrated c e t r = ⟨c, t, r, none, some v.value, v.clamped⟩))
  ∧ (∀ (s : State) (node channels samples period : Nat) (payload : List Byte) (y : LineSample),
      y ∈ s.frameSamples node channels samples period payload ↔
        ∃ j c e, j < samples ∧ c < 32 ∧ channelEntry s.tables c = some e ∧ e.node = some node ∧ e.index < channels
          ∧ y = s.calibrated c e (later (timeAt payload 4) (j * period)) (rawSample payload channels e.index j))
  ∧ (∀ (s : State) (dt c : Nat) (e : ChannelEntry) (l : List LineSample), s.powered = true →
      channelEntry s.tables c = some e → c < s.sin.channels.length →
      l = ((s.sin.line.takeWhile fun f => reached (later s.now dt) (later f.last s.holdDelay)).flatMap
        LineFrame.samples).filter (fun y => y.channel == c) →
      ∃ t, exec (.delayLineRelease dt) s = .next t
        ∧ (e.kind = .crib →
          (s.scu.site = .armed → t.channel c = l.foldl (fun x y => trackChannel e.shift y.raw x) (s.channel c))
          ∧ (s.scu.site = .checking → t.channel c = l.foldl (fun x y =>
              if (s.elapse dt).inCapture y.time then if (s.elapse dt).gathering then captureRaw y.raw x else x
              else trackChannel e.shift y.raw x) (s.channel c))
          ∧ (s.scu.site ≠ .armed → s.scu.site ≠ .checking → t.channel c = s.channel c))
        ∧ (e.kind = .scanner → t.channel c = l.foldl (fun x y =>
            match y.temp with
            | some v => if (s.elapse dt).gathering ∧ (s.elapse dt).inReference y.time then gatherTemp v x else x
            | none => x) (s.channel c))
        ∧ (e.kind = .ambient → t.channel c = s.channel c))
  ∧ (∀ (x : ChannelState) (k : Nat) (r v : Int),
      (x.baseline = none → trackChannel k r x = x)
      ∧ (∀ z, x.baseline = some z →
        trackChannel k r x = { x with baseline := some (z + divRound (r * 256 - z) (2 ^ k)), fresh := true })
      ∧ (x.capture = none → captureRaw r x = { x with capture := some ⟨1, r, r, r⟩ })
      ∧ (∀ p, x.capture = some p →
        captureRaw r x = { x with capture := some ⟨p.count + 1, p.sum + r, min p.low r, max p.high r⟩ })
      ∧ (x.gather = none → gatherTemp v x = { x with gather := some ⟨1, v⟩ })
      ∧ (∀ g, x.gather = some g → gatherTemp v x = { x with gather := some ⟨g.count + 1, g.sum + v⟩ }))
  ∧ (∀ (s : State) (t : LoopTime),
      (s.inCapture t = true ↔ (s.scu.check = .run .capture ∨ s.scu.check = .run .reference)
        ∧ 0 ≤ timeDiff t s.scu.sampleStart ∧ timeDiff t s.scu.sampleStart < 2000000)
      ∧ (s.inReference t = true ↔
        2000000 ≤ timeDiff t s.scu.sampleStart ∧ timeDiff t s.scu.sampleStart < 3000000)
      ∧ (s.gathering = true ↔ (s.scu.check = .run .capture ∨ s.scu.check = .run .reference) ∧ s.scu.endTimer ≠ some 0))

/-- Each record kept for later comparison is emptied once loop time has run 2³⁰ µs past its time, and stands before (R1, R11, R18, R30, R31, R121). The row acts after dt µs of loop time (the model's form, notes/assumptions/1.md). -/
def Obligations.RecordsAge : Prop :=
  ∀ (s : State) (dt : Nat), s.powered = true →
    (∀ r, s.sin.released = some r → exec (.releaseRecordAged dt) s = .next { s.elapse dt with
      sin := { (s.elapse dt).sin with
        released := if agedAt (later s.now dt) r then none else some r } })
    ∧ (∀ node r, 1 ≤ node → node ≤ 12 → s.sin.nodes.length = 12 → (s.node node).order = some r →
      ∃ t, exec (.orderRecordAged dt node) s = .next t
        ∧ (t.node node).order = (if agedAt (later s.now dt) r.first then none else some r)
        ∧ (∀ k, k ≠ node → 1 ≤ k → t.node k = (s.elapse dt).node k) ∧ t = { s.elapse dt with sin := t.sin })
    ∧ (∀ p r, s.passage = some p → p.timeOrder = some r → exec (.timeOrderRecordAged dt) s = .next { s.elapse dt with
      passage := some { tickPassage s.now dt p with
        timeOrder := if agedAt (later s.now dt) r then none else some r } })
    ∧ (∀ p r wt dir, s.passage = some p → pulseRecord p wt dir = some r → ∃ q,
      exec (.doublePulseRecordAged dt wt dir) s = .next { s.elapse dt with passage := some q }
        ∧ pulseRecord q wt dir = (if agedAt (later s.now dt) r then none else some r)
        ∧ (∀ w d, ¬ (w = wt ∧ d = dir) → pulseRecord q w d = pulseRecord p w d))
    ∧ (∀ rail x rest, ((s.elapse dt).brg.records.get rail).changes = x :: rest → ∃ t,
      exec (.feedbackRecordAged dt rail) s = .next t
        ∧ t.brg.records.get rail = (if agedAt (later s.now dt) x.time then (⟨x.isOpen, x.time, rest⟩ : FeedbackRecord)
            else (s.elapse dt).brg.records.get rail)
        ∧ (∀ k, k ≠ rail → t.brg.records.get k = (s.elapse dt).brg.records.get k) ∧ t = { s.elapse dt with brg := t.brg })

/-- Every frame at the head of the delay line whose last-sample time lies D_hold back leaves the line in order, and the last of them is the frame most recently released (R18, R19). Each is handed on whole: its gap mark first, then its samples in order, in PASSAGE with the pacing instants of a sample before its attribution (R11, R19, R55). FRAME_RECEIVED of an accepted SMP frame notes its node's order record, marks a gap where its time is more than 1.5 frame lengths past the record's, and offers it to the line (R10, R11): a frame earlier than the one most recently released is late, dropped and counted; one due on arrival leaves at its place with all that are due; to a full line the head is released early and counted, in a passage there too, and the frame is then judged late against that head, dropped and counted, or placed; else it is placed by last-sample time, behind those of equal time (R18, R20). The judging against the head just released and the order of a frame due on arrival are the model's reading (notes/assumptions/26.md). The row acts after dt µs of loop time (the model's form, notes/assumptions/1.md). -/
def Obligations.DueFramesAreReleased : Prop :=
  (∀ (s : State) (dt : Nat), s.powered = true →
    ∃ t, exec (.delayLineRelease dt) s = .next t
      ∧ t = (s.elapse dt).releaseHeads
          (s.sin.line.takeWhile fun f => reached (later s.now dt) (later f.last s.holdDelay)).length
      ∧ t.sin.line = s.sin.line.dropWhile (fun f => reached (later s.now dt) (later f.last s.holdDelay))
      ∧ t.sin.released = ((s.sin.line.takeWhile (fun f => reached (later s.now dt) (later f.last s.holdDelay))).getLast?.map
          LineFrame.last).or s.sin.released
      ∧ t.tables = s.tables ∧ t.axt = s.axt ∧ t.lif = (s.elapse dt).lif)
  ∧ (∀ (s : State) (n : Nat) (f : LineFrame) (rest : List LineFrame), s.sin.line = f :: rest →
      s.releaseHeads (n + 1)
        = State.releaseHeads n (State.deliver f { s with sin := { s.sin with line := rest, released := some f.last } }))
  ∧ (∀ (s : State) (f : LineFrame) (y : LineSample),
      s.deliver f = f.samples.foldl (fun t x => t.releaseSample f.samples x) (if f.gap then s.gapFlag f.node else s)
      ∧ (s.scu.site = .passage → s.winSample f.samples y
          = (s.pace (channelsAt f.samples y.time) y.channel y.time).attributeSample y)
      ∧ (s.scu.site ≠ .passage → s.winSample f.samples y = s))
  ∧ (∀ (s : State) (dt node : Nat) (bytes : List Byte) (f : Frame) (e : NodeEntry), s.Hears bytes f → s.Samples f node e →
      (∀ r, (s.node node).order = some r → 0 < timeDiff (timeAt f.payload 4) r.first) →
      ∃ (g : LineFrame) (v : State),
        g.node = node ∧ g.last = later (timeAt f.payload 4) ((byteAt f.payload 1 - 1) * samplePeriod e.kind)
        ∧ (g.gap = true ↔ ∃ r, (s.node node).order = some r
            ∧ (divRoundNat (3 * r.length) 2 : Int) < timeDiff (timeAt f.payload 4) r.first)
        ∧ g.samples = (s.heard dt f).frameSamples node e.channelCount (byteAt f.payload 1) (samplePeriod e.kind) f.payload
        ∧ v = { s.heard dt f with sin := { (s.heard dt f).sin with nodes := (s.heard dt f).sin.nodes.modify (node - 1) fun n =>
            { n with order := some ⟨timeAt f.payload 4, byteAt f.payload 1 * samplePeriod e.kind⟩ } } }
        ∧ (∀ r, s.sin.released = some r → earlier g.last r = true →
          exec (.frameReceived dt s.lif.rate bytes) s = .next { v with sin := { v.sin with
            counters := { s.sin.counters with late := min 65535 (s.sin.counters.late + 1) } } })
        ∧ ((∀ r, s.sin.released = some r → earlier g.last r = false) →
          (reached (later s.now dt) (later g.last s.holdDelay) = true →
            ∃ t, exec (.frameReceived dt s.lif.rate bytes) s = .next t ∧ t.sin.released.isSome = true
              ∧ t.sin.line = (s.sin.line.drop (placeOf g s.sin.line)).dropWhile
                  (fun x => reached (later s.now dt) (later x.last s.holdDelay))
              ∧ ∃ u : State, t = u.releaseDue ∧ u = State.deliver g { v.releaseHeads (placeOf g s.sin.line) with
                  sin := { (v.releaseHeads (placeOf g s.sin.line)).sin with released := some g.last } })
          ∧ (reached (later s.now dt) (later g.last s.holdDelay) = false →
            (s.sin.line.length < 256 → exec (.frameReceived dt s.lif.rate bytes) s
              = .next { v with sin := { v.sin with line := placeFrame g s.sin.line } })
            ∧ (∀ x rest, s.sin.line = x :: rest → 256 ≤ s.sin.line.length →
              ∃ u : State, u = State.deliver x { v with
                  sin := { v.sin with
                    line := rest, released := some x.last
                    counters := { s.sin.counters with early := min 65535 (s.sin.counters.early + 1) } }
                  passage := if s.scu.site = .passage ∨ s.scu.site = .closing then v.passage.map fun p =>
                      { p with counters := { p.counters with early := min 65535 (p.counters.early + 1) } }
                    else v.passage }
                ∧ (earlier g.last x.last = false → exec (.frameReceived dt s.lif.rate bytes) s
                    = .next { u with sin := { u.sin with line := placeFrame g rest } })
                ∧ (earlier g.last x.last = true → exec (.frameReceived dt s.lif.rate bytes) s
                    = .next { u with sin := { u.sin with
                        counters := { u.sin.counters with late := min 65535 (s.sin.counters.late + 1) } } })))))
  ∧ (∀ (g : LineFrame) (l : List LineFrame),
      placeFrame g l = l.take (placeOf g l) ++ g :: l.drop (placeOf g l)
      ∧ (∀ x ∈ l.take (placeOf g l), earlier g.last x.last = false)
      ∧ (∀ x, l[placeOf g l]? = some x → earlier g.last x.last = true))

/-! ### The Axle Tracker -/

/-- A forward crossing at place k that is not refused adds one to c_k; a new axle at the entry adds one to N (R33). -/
def Obligations.ForwardCrossingsCount : Prop :=
  ∀ (p : Passage) (k : Nat), 1 ≤ k → k ≤ 4 →
    (k = 1 → p.counts.c1 = p.total → p.total < 65535 →
      forwardRule p.counts p.total k = .entered (p.total + 1)
      ∧ (countCrossing (.entered (p.total + 1)) k p).total = p.total + 1
      ∧ (countCrossing (.entered (p.total + 1)) k p).counts.c1 = p.counts.c1 + 1)
    ∧ (k = 1 → p.counts.c1 = p.total → p.total = 65535 → forwardRule p.counts p.total k = .refused)
    ∧ (k = 1 → p.counts.c1 < p.total → forwardRule p.counts p.total k = .forward (p.counts.c1 + 1))
    ∧ (k ≠ 1 → p.counts.at (k - 1) < p.counts.at k + 1 → forwardRule p.counts p.total k = .refused)
    ∧ (k ≠ 1 → p.counts.at k + 1 ≤ p.counts.at (k - 1) →
        forwardRule p.counts p.total k = .forward (p.counts.at k + 1))
    ∧ (∀ i, (countCrossing (.forward i) k p).total = p.total
        ∧ (countCrossing (.forward i) k p).counts.at k = p.counts.at k + 1
        ∧ (∀ j, j ≠ k → (countCrossing (.forward i) k p).counts.at j = p.counts.at j))

/-- R34: a backward crossing at place k belongs to axle c_k, is refused where it would break the order of the counts, and otherwise takes one from c_k and leaves N; an axle backed out over the entry is the one a later forward crossing there finds. -/
def Obligations.BackwardCrossingsCount : Prop :=
  ∀ (p : Passage) (x : Crossing), x.dir ≠ p.dir →
    (p.counts.at (entryPlace p.dir x.wt) = 0 → crossingRule p x = .refused)
    ∧ (entryPlace p.dir x.wt ≠ 4 → p.counts.at (entryPlace p.dir x.wt) - 1 < p.counts.at (entryPlace p.dir x.wt + 1) →
        crossingRule p x = .refused)
    ∧ (p.counts.at (entryPlace p.dir x.wt) ≠ 0 →
        (entryPlace p.dir x.wt = 4
          ∨ p.counts.at (entryPlace p.dir x.wt + 1) ≤ p.counts.at (entryPlace p.dir x.wt) - 1) →
        crossingRule p x = .backward (p.counts.at (entryPlace p.dir x.wt))
        ∧ (∀ i, (countCrossing (.backward i) (entryPlace p.dir x.wt) p).counts.at (entryPlace p.dir x.wt)
            = p.counts.at (entryPlace p.dir x.wt) - 1)
        ∧ (∀ i j, j ≠ entryPlace p.dir x.wt →
            (countCrossing (.backward i) (entryPlace p.dir x.wt) p).counts.at j = p.counts.at j)
        ∧ (∀ i, (countCrossing (.backward i) (entryPlace p.dir x.wt) p).total = p.total)
        ∧ (entryPlace p.dir x.wt = 1 → p.counts.c1 ≤ p.total →
            ∀ (i : Nat) (y : Crossing), y.dir = p.dir → entryPlace p.dir y.wt = 1 →
              crossingRule (countCrossing (.backward i) 1 p) y = .forward p.counts.c1))

/-- A crossing taken in ARMED or CHECKING that does not meet the start condition is stray: it is counted and discarded (R26, R27). In CLOSING the crossings stay in the queue (R26). FRAME_RECEIVED of a CRS frame from a station that is not the TRANSDUCER entry's (which entry of two is the model's choice, notes/assumptions/39.md) is discarded whole and counted. Of its records (that those beyond the payload are none is the model's reading, notes/assumptions/9.md) the bad ones, of a transducer outside 1..4 or a direction outside the two, are counted; in OFFLINE each good one is counted offline; else the good ones join the queue in order up to its 64, and each past that counts an overflow, which makes the passage TRACKING_SUSPECT in PASSAGE and sets the carried mark in CLOSING (R25, R26, R35). The row acts after dt µs of loop time (the model's form, notes/assumptions/1.md). -/
def Obligations.CrossingsOutsidePassages : Prop :=
  (∀ (s : State) (dt : Nat) (x : Crossing) (rest : List Crossing), s.powered = true → s.axt.queue = x :: rest →
      ¬ (x.wt = .wt1 ∧ x.dir = .up) → ¬ (x.wt = .wt4 ∧ x.dir = .down) →
      (s.scu.site = .checking ∨ (s.scu.site = .armed ∧ rest ≠ []) → exec (.crossingTake dt) s = .next { s.elapse dt with
        axt := { s.axt with
          queue := rest, counters := { s.axt.counters with stray := min 65535 (s.axt.counters.stray + 1) } } })
      ∧ (s.scu.site = .armed → rest = [] → exec (.crossingTake dt) s = .next { s.elapse dt with
        axt := { s.axt with
          queue := [], carried := false
          counters := { s.axt.counters with stray := min 65535 (s.axt.counters.stray + 1) } } }))
  ∧ (∀ (s : State) (dt : Nat), s.powered = true → s.scu.site = .closing → exec (.crossingTake dt) s = .next (s.elapse dt))
  ∧ (∀ (s : State) (dt : Nat) (bytes : List Byte) (f : Frame), s.Hears bytes f → f.kind = 2 →
      (transducerStation s.tables ≠ some f.source →
        exec (.frameReceived dt s.lif.rate bytes) s = .next { s.heard dt f with axt := { s.axt with
          counters := { s.axt.counters with source := min 65535 (s.axt.counters.source + 1) } } })
      ∧ (∀ (good : List Crossing) (bad : Nat), transducerStation s.tables = some f.source →
        good = (List.range (recordCount f.payload)).filterMap (crossingAt f.payload (later s.now dt)) →
        bad = recordCount f.payload - good.length →
        (s.scu.site = .offline → exec (.frameReceived dt s.lif.rate bytes) s = .next { s.heard dt f with axt := { s.axt with
          counters := { s.axt.counters with
            malformed := if bad = 0 then s.axt.counters.malformed else min 65535 (s.axt.counters.malformed + bad)
            offline := if good = [] then s.axt.counters.offline
              else min 65535 (s.axt.counters.offline + good.length) } } })
        ∧ (s.scu.site ≠ .offline → s.axt.queue.length ≤ 64 → ∃ t, exec (.frameReceived dt s.lif.rate bytes) s = .next t
          ∧ t.axt.queue = (s.axt.queue ++ good).take 64
          ∧ t.axt.counters.malformed
              = (if bad = 0 then s.axt.counters.malformed else min 65535 (s.axt.counters.malformed + bad))
          ∧ t.axt.counters.overflow = (if s.axt.queue.length + good.length ≤ 64 then s.axt.counters.overflow
              else min 65535 (s.axt.counters.overflow + (s.axt.queue.length + good.length - 64)))
          ∧ (s.axt.queue.length + good.length ≤ 64 → t = { s.heard dt f with axt := t.axt } ∧ t.axt.carried = s.axt.carried)
          ∧ (64 < s.axt.queue.length + good.length →
              (s.scu.site = .closing → t.axt.carried = true)
              ∧ (s.scu.site ≠ .closing → t.axt.carried = s.axt.carried)
              ∧ (s.scu.site = .passage → ∀ p, t.passage = some p → p.flags.suspect = true)))))
  ∧ (∀ (payload : List Byte) (now : LoopTime) (i : Nat) (x : Crossing),
      recordCount payload = min (byteAt payload 0) ((payload.length - 4) / 8)
      ∧ (crossingAt payload now i = some x ↔
        byteAt payload (4 + 8 * i) = wtIndex x.wt + 1
        ∧ byteAt payload (4 + 8 * i + 1) = (match x.dir with
            | .up => 1
            | .down => 2)
        ∧ x.time = timeAt payload (4 + 8 * i + 4) ∧ x.arrival = now))

/-- A crossing that meets the start condition starts a passage: its number, direction, first axle, alarm list, frozen ambient, shutters and events, with a running check aborted by TRAIN (R27, R28, R117, R122, R135, R151, R180). The row acts after dt µs of loop time (the model's form, notes/assumptions/1.md). -/
def Obligations.StartCrossingsStartPassages : Prop :=
  ∀ (s : State) (dt : Nat) (x : Crossing) (rest : List Crossing), s.powered = true → s.axt.queue = x :: rest →
    (s.scu.site = .armed ∨ s.scu.site = .checking) → (x.wt = .wt1 ∧ x.dir = .up) ∨ (x.wt = .wt4 ∧ x.dir = .down) →
    ∃ t p, exec (.crossingTake dt) s = .next t ∧ t.passage = some p
      ∧ t.scu.site = .passage ∧ t.raised .stateChanged ∧ t.raised .passageStarted
      ∧ t.axt.queue = rest ∧ t.axt.carried = false
      ∧ t.axt.nextPassage = (if s.axt.nextPassage < 4294967295 then s.axt.nextPassage + 1 else 1)
      ∧ p.number = s.axt.nextPassage ∧ p.startTime = x.time ∧ p.dir = x.dir
      ∧ p.counts = ⟨1, 0, 0, 0⟩ ∧ p.total = 1 ∧ p.axles.length = 1
      ∧ p.timeOrder = some x.time ∧ pulseRecord p x.wt x.dir = some x.time
      ∧ p.standing = some s.standingTime ∧ p.clear = none
      ∧ p.ambient = s.ambient ∧ p.flags.suspect = s.axt.carried
      ∧ t.aou.alarms = ⟨some s.axt.nextPassage, [], ⟨0, 0, 0⟩, 0⟩
      ∧ t.brg.shutter = .opened
      ∧ (s.scu.site = .checking → t.scu.check = .aborted .train ∧ t.raised .checkEnded)
      ∧ (s.lif.locked = false → t.scu.loss = some 10000000)
      ∧ t.tables = s.tables ∧ t.commit = s.commit

/-- A crossing taken in PASSAGE earlier than the time-order record is discarded: no count moves, the sequence faults count one, and the passage is TRACKING_SUSPECT (R30, R43, R44). A crossing taken in PASSAGE within t_dp of the record of its transducer and direction is a double pulse: it is counted, and moves no count (R31). A crossing that passes both filters and the crossing rule joins its axle's history with its speed, is handed to WIN, and schedules marks (R32 to R39, R45). An axle speed that is set, present or absent, becomes the live last axle speed with its flag set (R39). One that enters a new axle adds one to the counts and the total and makes its record with nothing measured, or sets TRUNCATED past 1,024, with no history step of another axle (R33, R36, R37); one of an axle without a record moves the counts alone (R37). A crossing the rule refuses moves no count, counts one sequence fault more and sets TRACKING_SUSPECT, and the timers start anew or stop after each of them (R35, R43, R44). WIN closes the axle's contexts on a backward crossing (REVERSED_IN_WINDOW) and on a forward one without speed, else keeps the crossing in each that has none, settles the axle's PROVISIONAL parts and removes its lost-context marks (R54, R60). A part is settled by the test of R62: UNSTEADY on a wrong crossing, else by its position error against the tolerance; a part that is not PROVISIONAL stands. The row acts after dt µs of loop time (the model's form, notes/assumptions/1.md). -/
def Obligations.FiltersDiscardCrossings : Prop :=
  (∀ (s : State) (dt : Nat) (x : Crossing) (rest : List Crossing) (p : Passage) (r : LoopTime),
      s.powered = true → s.axt.queue = x :: rest → s.scu.site = .passage → s.passage = some p →
      p.timeOrder = some r → earlier x.time r = true →
      ∃ t q, exec (.crossingTake dt) s = .next t ∧ t.passage = some q ∧ t.axt.queue = rest
        ∧ q.counts = p.counts ∧ q.total = p.total ∧ q.timeOrder = some r ∧ q.axles.length = p.axles.length
        ∧ q.counters.sequence = min 65535 (p.counters.sequence + 1) ∧ q.flags.suspect = true
        ∧ q.standing = (if p.counts.c4 < p.counts.c1 then some s.standingTime else none)
        ∧ q.clear = (if p.counts.c1 = p.counts.c4 then some s.clearHold else none)
        ∧ t.scu.site = .passage)
  ∧ (∀ (s : State) (dt tdp : Nat) (x : Crossing) (rest : List Crossing) (p : Passage) (r : LoopTime),
      s.powered = true → s.axt.queue = x :: rest → s.scu.site = .passage → s.passage = some p → s.commit.tdp = some tdp →
      (∀ o, p.timeOrder = some o → earlier x.time o = false) → pulseRecord p x.wt x.dir = some r →
      timeDiff x.time r < tdp →
      ∃ t q, exec (.crossingTake dt) s = .next t ∧ t.passage = some q ∧ t.axt.queue = rest
        ∧ q.counts = p.counts ∧ q.total = p.total ∧ q.timeOrder = some x.time
        ∧ pulseRecord q x.wt x.dir = some r ∧ q.flags = p.flags
        ∧ q.counters.doublePulses = min 65535 (p.counters.doublePulses + 1) ∧ q.counters.sequence = p.counters.sequence)
  ∧ (∀ (s : State) (dt i : Nat) (back : Bool) (x : Crossing) (rest : List Crossing) (p : Passage) (a : AxleRecord) (e : HistEntry),
      s.powered = true → s.axt.queue = x :: rest → s.scu.site = .passage → s.passage = some p →
      (∀ o, p.timeOrder = some o → earlier x.time o = false) →
      (∀ r, pulseRecord p x.wt x.dir = some r → ((s.commit.tdp.getD 0 : Nat) : Int) ≤ timeDiff x.time r) →
      crossingRule p x = (if back then .backward i else .forward i) → (tickPassage s.now dt p).axle i = some a →
      e = ⟨x.wt, x.dir, x.time, crossingSpeed s.tables a.history.getLast? x, false⟩ →
      ∃ (u v : State) (q : Passage), u.passage = some q ∧ q.contexts = p.contexts ∧ q.dir = p.dir
        ∧ q.counts = (countCrossing (crossingRule p x) (entryPlace p.dir x.wt) p).counts ∧ q.total = p.total
        ∧ (∃ b, q.axle i = some b ∧ b.history = (a.history ++ [e]).drop (a.history.length - 1)
            ∧ b.reversed = (a.reversed || back))
        ∧ u.tables = s.tables ∧ u.commit = s.commit
        ∧ v = (u.winCrossing i e).scheduleMarks i e
        ∧ exec (.crossingTake dt) s = .next (v.onPassage (endTimers s.standingTime s.clearHold)))
  ∧ (∀ (s : State) (dt : Nat) (x : Crossing) (rest : List Crossing) (p : Passage),
      s.powered = true → s.axt.queue = x :: rest → s.scu.site = .passage → s.passage = some p →
      (∀ o, p.timeOrder = some o → earlier x.time o = false) →
      (∀ r, pulseRecord p x.wt x.dir = some r → ((s.commit.tdp.getD 0 : Nat) : Int) ≤ timeDiff x.time r) →
      (∀ i, crossingRule p x = .forward i ∨ crossingRule p x = .backward i → (tickPassage s.now dt p).axle i = none) →
      ∃ t q, exec (.crossingTake dt) s = .next t ∧ t.passage = some q ∧ t.axt.queue = rest ∧ t.scu.site = .passage
        ∧ q.timeOrder = some x.time ∧ pulseRecord q x.wt x.dir = some x.time
        ∧ q.counts = (countCrossing (crossingRule p x) (entryPlace p.dir x.wt) p).counts
        ∧ q.total = (countCrossing (crossingRule p x) (entryPlace p.dir x.wt) p).total
        ∧ q.contexts = p.contexts ∧ q.marks = p.marks
        ∧ q.standing = (if q.counts.c4 < q.counts.c1 then some s.standingTime else none)
        ∧ q.clear = (if q.counts.c1 = q.counts.c4 then some s.clearHold else none)
        ∧ (∀ n, crossingRule p x = .entered n → entryPlace p.dir x.wt = 1 ∧ n = p.total + 1 ∧ q.total = n
            ∧ q.counts = { p.counts with c1 := p.counts.c1 + 1 } ∧ q.counters.sequence = p.counters.sequence
            ∧ (n ≤ 1024 → q.flags = p.flags ∧ ∃ b, q.axles = (tickPassage s.now dt p).axles ++ [b] ∧ b.number = n
                ∧ b.history = [⟨x.wt, x.dir, x.time, none, false⟩] ∧ b.spacing = (if n = 1 then .absent else .pending)
                ∧ b.speed = none ∧ b.reversed = false ∧ b.marks = [] ∧ (∀ k r, commonOf b k r = none) ∧ b.vehicle = none)
            ∧ (1024 < n → q.axles = (tickPassage s.now dt p).axles ∧ q.flags = { p.flags with truncated := true }))
        ∧ (crossingRule p x = .refused → q.counts = p.counts ∧ q.total = p.total ∧ q.axles = (tickPassage s.now dt p).axles
            ∧ q.counters.sequence = min 65535 (p.counters.sequence + 1) ∧ q.flags = { p.flags with suspect := true }
            ∧ FaultMember.trackingSuspect ∈ t.faultSet ∧ (p.flags.suspect = false → t.raised .equipmentChanged))
        ∧ (∀ i, crossingRule p x = .forward i ∨ crossingRule p x = .backward i →
            q.axles = (tickPassage s.now dt p).axles ∧ q.flags = p.flags ∧ q.counters.sequence = p.counters.sequence))
  ∧ (∀ (s : State) (i : Nat) (t : LoopTime) (v : Option Nat),
      (s.setAxleSpeed i t v).axt = { s.axt with lastSpeed := v, lastSpeedFresh := true }
      ∧ ∀ a, s.axle i = some a → ∃ b, (s.setAxleSpeed i t v).axle i = some b ∧ b.speed = v ∧ b.history = a.history)
  ∧ (∀ (s : State) (i : Nat) (e : HistEntry) (p : Passage), s.passage = some p →
      ∃ q, (s.winCrossing i e).passage = some q
        ∧ (e.dir = p.dir ∧ e.speed.isSome = true → q.contexts = p.contexts.map fun c =>
            if c.axle = i ∧ c.settling = none then { c with settling := some ⟨e.wt, e.dir, e.time, e.speed⟩ } else c)
        ∧ (e.dir ≠ p.dir ∨ e.speed = none → q.contexts = p.contexts.filter fun c => c.axle ≠ i)
        ∧ (∀ a, p.axle i = some a → ∃ b, q.axle i = some b ∧ b.lostWindows = []
            ∧ (b.reversedInWindow = true ↔ a.reversedInWindow = true ∨ (e.dir ≠ p.dir ∧ ∃ c ∈ p.contexts, c.axle = i))
            ∧ (∀ k r c, commonOf b k r = some c → c.settlement ≠ .provisional)))
  ∧ (∀ (s : State) (i : Nat) (x : Settling) (k : PartKind) (r : Rail) (p : Passage) (a : AxleRecord) (c : PartCommon),
      s.passage = some p → p.axle i = some a → commonOf a k r = some c →
      (c.settlement ≠ .provisional → s.settlePart i x (k, r) = s)
      ∧ (c.settlement = .provisional → ∃ b, (s.settlePart i x (k, r)).axle i = some b
          ∧ commonOf b k r = some { c with
              settlement := (settleVerdict s.tables s.positionTolerance p.dir c.basis x).1
              posError := (settleVerdict s.tables s.positionTolerance p.dir c.basis x).2 }))
  ∧ (∀ (g : Tables) (tol err : Nat) (entry : Direction) (b : Basis) (x : Settling),
      (x.dir ≠ entry ∨ wtNext b.wt entry ≠ some x.wt → settleVerdict g tol entry b x = (.unsteady, none))
      ∧ (x.dir = entry → wtNext b.wt entry = some x.wt →
        err = divRoundNat ((timeDiff x.time (later b.time (divRoundNat
          ((wtPosition g x.wt - wtPosition g b.wt).natAbs * 1000000) b.speed))).natAbs * b.speed) 1000000 →
        (err ≤ tol → settleVerdict g tol entry b x = (.confirmed, some err))
        ∧ (tol < err → settleVerdict g tol entry b x = (.unsteady, some err))))

/-- The standing timer's expiry marks the train as standing: STOOD, one more episode, and the timer stopped (R43). A mark whose time has come leaves the schedule, and its time joins its axle's mark list (R47). The row acts after dt µs of loop time (the model's form, notes/assumptions/1.md). -/
def Obligations.StandingTrainsAndMarks : Prop :=
  (∀ (s : State) (dt n : Nat) (p : Passage), s.powered = true → s.passage = some p → p.standing = some n → n ≤ dt →
      exec (.standingTimerExpiry dt) s = .next { s.elapse dt with
        passage := some { tickPassage s.now dt p with
          standing := none
          flags := { p.flags with stood := true }
          counters := { p.counters with standing := min 65535 (p.counters.standing + 1) } } })
  ∧ (∀ (s : State) (dt : Nat) (p : Passage) (m : MarkEntry) (rest : List MarkEntry), s.powered = true →
      s.passage = some p → p.marks = m :: rest → reached (later s.now dt) m.time = true →
      ∃ t q, exec (.markTaken dt) s = .next t ∧ t.passage = some q ∧ q.marks = rest
        ∧ q.counts = p.counts ∧ q.total = p.total
        ∧ (∀ a, (tickPassage s.now dt p).axle m.axle = some a → ∃ b, q.axle m.axle = some b
            ∧ (∃ e ∈ b.marks, e.window = m.window ∧ e.bound = m.bound ∧ e.time = m.time))
        ∧ (∀ l, (s.outputEntry l).mode = .pulse → (s.outputEntry l).pulseWindow = some m.window →
            (t.aou.lines.get l).pulse = some (1000 * (s.outputEntry l).pulseLength))
        ∧ t.rps = (s.elapse dt).rps ∧ t.axt = s.axt)

/-- R41: the segment of an axle is the number of places whose count has reached it, in 0..4; for ordered counts it is the highest place the axle has crossed, or 0; a record's final segment is written from the counts as the passage enters CLOSING, and the report's record carries it. -/
def Obligations.SegmentsCountThePlaces : Prop :=
  (∀ (c : Counts) (i : Nat), segmentOf c i = ([1, 2, 3, 4].filter fun k => i ≤ c.at k).length ∧ segmentOf c i ≤ 4)
  ∧ (∀ (c : Counts) (total i : Nat), c.Ordered total →
    (segmentOf c i = 4 ↔ i ≤ c.c4) ∧ (segmentOf c i = 0 ↔ c.c1 < i)
    ∧ (∀ k, 1 ≤ k → k ≤ 4 → (k ≤ segmentOf c i ↔ i ≤ c.at k)))
  ∧ (∀ (s : State) (d : Disposition) (p : Passage), s.passage = some p → ∃ q, (s.endPassage d).passage = some q
    ∧ q.axles = p.axles.map fun a => { a with finalSegment := segmentOf p.counts a.number })
  ∧ (∀ a : AxleRecord, (axleRecord a)[7]? = some (BitVec.ofNat 8 a.finalSegment))

/-! ### Computed values -/

/-- R69: the speed correction factor by the nine points of a committed table, held beyond both ends. -/
def Obligations.SpeedFactorInterpolates : Prop :=
  ∀ (points : List SpeedPoint) (v : Nat), points.length = 9 →
    (∀ i, i + 1 < 9 → ∀ a b, points[i]? = some a → points[i + 1]? = some b → a.speed < b.speed) →
    (∀ p ∈ points, 16384 ≤ p.factor ∧ p.factor ≤ 49152) →
    (∀ a, points[0]? = some a → v ≤ a.speed → speedFactor (points.map some) v = a.factor)
    ∧ (∀ a, points[8]? = some a → a.speed ≤ v → speedFactor (points.map some) v = a.factor)
    ∧ (∀ i a b, points[i]? = some a → points[i + 1]? = some b → a.speed ≤ v → v < b.speed →
        speedFactor (points.map some) v
          = a.factor + divRound (((b.factor : Int) - a.factor) * ((v : Int) - a.speed)) (b.speed - a.speed))
    ∧ (∀ a ∈ points, v = a.speed → speedFactor (points.map some) v = a.factor)
    ∧ 16384 ≤ speedFactor (points.map some) v ∧ speedFactor (points.map some) v ≤ 49152

/-- R75: a wheel load is the raw load corrected for the context's open speed, rounded and held to −32,768..32,767 with LOAD_CLAMPED. -/
def Obligations.LoadPartsCorrectForSpeed : Prop :=
  ∀ (site : List Nat) (speed : List (Option SpeedPoint)) (c : Context) (t : LoopTime) (w : Int),
    (loadPart site speed c t).raw = some w → 0 ≤ speedFactor speed c.basis.speed →
    ∃ f : Int, (loadPart site speed c t).load = some f
      ∧ (loadPart site speed c t).factor = some (speedFactor speed c.basis.speed).toNat
      ∧ -32768 ≤ f ∧ f ≤ 32767
      ∧ (-32768 ≤ divRound (w * speedFactor speed c.basis.speed) 32768 →
          divRound (w * speedFactor speed c.basis.speed) 32768 ≤ 32767 →
          f = divRound (w * speedFactor speed c.basis.speed) 32768 ∧ (loadPart site speed c t).clamped = false)
      ∧ (divRound (w * speedFactor speed c.basis.speed) 32768 < -32768 → f = -32768 ∧ (loadPart site speed c t).clamped = true)
      ∧ (32767 < divRound (w * speedFactor speed c.basis.speed) 32768 → f = 32767 ∧ (loadPart site speed c t).clamped = true)

/-- R79: the axle load is the sum of the two wheel loads, 0 with NEGATIVE_LOAD where the sum is below 0, and absent without both. -/
def Obligations.AxleLoadsAddTheWheels : Prop :=
  ∀ a : AxleRecord,
    (∀ p q l r, a.load.left = some p → a.load.right = some q → p.load = some l → q.load = some r →
      (l + r < 0 → (weighAxle a).axleLoad = some 0 ∧ (weighAxle a).negative = true)
      ∧ (0 ≤ l + r → (weighAxle a).axleLoad = some (l + r).toNat ∧ (weighAxle a).negative = false)
      ∧ (-32768 ≤ l → l ≤ 32767 → -32768 ≤ r → r ≤ 32767 → ∀ w, (weighAxle a).axleLoad = some w → w ≤ 65534))
    ∧ (a.load.left = none ∨ a.load.right = none
        ∨ (∃ p, a.load.left = some p ∧ p.load = none) ∨ (∃ p, a.load.right = some p ∧ p.load = none) →
      (weighAxle a).axleLoad = none ∧ (weighAxle a).negative = false)

/-- The level of an impact part is the first row of R105 whose condition holds, the first row alone for a LOW_SPEED part. A recomputed impact part rises with its level and never falls: a higher computed level becomes the level, a lower one sets LEVEL_HELD, and the peak, dose and settlement stand (R105, R108). A bearing part takes the greatest peak of its contributing channels, the first in list order; its rise is that less the ambient, it is hot by rise or temperature, and with no reading its reason is EXCLUDED, NOT_SETTLED or THIN (R123 to R125); so it is stored. A vehicle type is judged by its inner spacings and its gap, the first outcome deciding, at closing with the train's end as coupling (R88, R90, R92); the first type that does not fail makes the vehicle or waits, and else the axle is unclassified (R89, R91). A vehicle takes the next number and marks its axles, or sets VEHICLES_TRUNCATED at 512 (R93); its gross load and end imbalance follow R94. A vehicle's evaluation takes UNSTEADY, else UNCONFIRMED where a part is so or none is present, else CONFIRMED, and UNSTEADY_SOURCE with it (R95). The settled judgment: with no change in the record a sample is settled when the base shows open and lies 100 ms back or more (R121). At a pacing instant the contexts of axles beyond the window close first, then axles that meet R53 open one, or take a lost-context mark at a full table of 48 (R52 to R54). A context that closes leaves the table; its part is stored PROVISIONAL on its basis unless the stored one is CONFIRMED, and settled at once if a settling crossing is kept (R59, R63). A sample goes to the one axle found on its plateau or in its window; with two or more it counts a conflict (R56, R58). How it fares at a channel entry follows R57. -/
def Obligations.LevelsAndEvaluations : Prop :=
  (∀ (m : ImpactLimits) (low : Bool) (peak : Option Int) (dose : Option Nat) (ratio : Option Ratio),
      (computedLevel m low peak dose ratio = .critical ↔ ∃ p, peak = some p ∧ (m.crit : Int) ≤ p)
      ∧ (computedLevel m low peak dose ratio = .alarm ↔
          (∀ p, peak = some p → p < (m.crit : Int)) ∧ low = false
          ∧ ((∃ d, dose = some d ∧ m.dose ≤ d) ∨ (∃ r, ratio = some r ∧ m.ratio ≤ r.value)))
      ∧ (computedLevel m low peak dose ratio = .watch ↔
          (∃ p, peak = some p ∧ p < (m.crit : Int) ∧ (m.warn : Int) ≤ p) ∧ low = false
          ∧ (∀ d, dose = some d → d < m.dose) ∧ (∀ r, ratio = some r → r.value < m.ratio)))
  ∧ (∀ (m : ImpactLimits) (load : Option Int) (p : ImpactPart),
      levelRank p.level ≤ levelRank (recomputeImpact m load p).level
      ∧ (levelRank p.level
            < levelRank (computedLevel m p.lowSpeed (p.peak.map Peak.value) p.dose (recomputeImpact m load p).ratio) →
          (recomputeImpact m load p).level
            = computedLevel m p.lowSpeed (p.peak.map Peak.value) p.dose (recomputeImpact m load p).ratio)
      ∧ (levelRank (computedLevel m p.lowSpeed (p.peak.map Peak.value) p.dose (recomputeImpact m load p).ratio)
            ≤ levelRank p.level → (recomputeImpact m load p).level = p.level)
      ∧ ((recomputeImpact m load p).levelHeld = true ↔
          levelRank (computedLevel m p.lowSpeed (p.peak.map Peak.value) p.dose (recomputeImpact m load p).ratio)
            < levelRank p.level)
      ∧ (recomputeImpact m load p).peak = p.peak ∧ (recomputeImpact m load p).dose = p.dose
      ∧ (recomputeImpact m load p).common = p.common ∧ (recomputeImpact m load p).lowSpeed = p.lowSpeed)
  ∧ (∀ (nMin rHot tAbs : Nat) (ambient : Option Int) (notOpen : Bool) (c : Context) (t : LoopTime) (l : List ContextEntry)
      (b : BearingPart), b = bearingPart nMin rHot tAbs ambient notOpen c t →
      l = (c.entries.filter fun e => nMin ≤ e.count && e.peak.isSome && e.peakTime.isSome) →
      b.common = ⟨.provisional, t, c.basis.speed, c.flags, none, c.basis⟩ ∧ b.contributing = l.length ∧ b.notOpen = notOpen
      ∧ (l = [] → b.peak = none ∧ b.noReading = some (if ∃ e ∈ c.entries, e.exclusion = some .excluded then .excluded
          else if c.flags.unsettled = true then .notSettled else .thin))
      ∧ (l ≠ [] → b.noReading = none ∧ ∃ pre e post v u, l = pre ++ e :: post ∧ e.peak = some v ∧ e.peakTime = some u
          ∧ b.peak = some ⟨v, e.channel, u⟩ ∧ (∀ x ∈ pre, ∀ w, x.peak = some w → w < v)
          ∧ (∀ x ∈ post, ∀ w, x.peak = some w → w ≤ v))
      ∧ (∀ a x, ambient = some a → b.peak = some x → b.rise = some (x.value - a))
      ∧ (ambient = none ∨ b.peak = none → b.rise = none)
      ∧ (b.hot = true ↔ (∃ r, b.rise = some r ∧ (rHot : Int) ≤ r) ∨ (∃ x, b.peak = some x ∧ (tAbs : Int) ≤ x.value)))
  ∧ (∀ (s : State) (c : Context) (t : LoopTime) (p : Passage) (a : AxleRecord), s.passage = some p → p.axle c.axle = some a →
      ∃ b, (s.storePart c t .bearing).axle c.axle = some b
        ∧ b.bearing = a.bearing.set c.rail (some (bearingPart (siteParam s.inUse 12) (s.threshold 10) (s.threshold 11) p.ambient
            (p.notOpen.get c.rail) c t)))
  ∧ (∀ (closing : Bool) (p : Passage) (j : Nat),
      (∀ a v, p.axle (j + 1) = some a → a.spacing = .value v → readSpacing closing p j = .value v)
      ∧ (∀ a, p.axle (j + 1) = some a → a.spacing = .absent → readSpacing closing p j = .absent)
      ∧ ((∀ a, p.axle (j + 1) = some a → a.spacing = .pending) →
          readSpacing closing p j = (if closing = true then .absent else .unknown)))
  ∧ (∀ (closing : Bool) (p : Passage) (i : Nat) (t : VehicleType),
      (∀ k n, k + 1 < t.axles → t.spacings[k]? = some n →
        (∀ j m, j < k → t.spacings[j]? = some m → ∃ v, readSpacing closing p (i + j) = .value v ∧ ((v : Int) - m).natAbs ≤ t.tolerance) →
        (readSpacing closing p (i + k) = .absent → judgeType closing p i t = .fail)
        ∧ (readSpacing closing p (i + k) = .unknown → judgeType closing p i t = .wait)
        ∧ (∀ v, readSpacing closing p (i + k) = .value v → t.tolerance < ((v : Int) - n).natAbs → judgeType closing p i t = .fail))
      ∧ ((∀ j m, j + 1 < t.axles → t.spacings[j]? = some m →
            ∃ v, readSpacing closing p (i + j) = .value v ∧ ((v : Int) - m).natAbs ≤ t.tolerance) →
        (closing = true → i + t.axles - 1 = p.axles.length → judgeType closing p i t = .fit true)
        ∧ (closing = false ∨ i + t.axles - 1 ≠ p.axles.length →
          (readSpacing closing p (i + t.axles - 1) = .absent → judgeType closing p i t = .fail)
          ∧ (readSpacing closing p (i + t.axles - 1) = .unknown → judgeType closing p i t = .wait)
          ∧ (∀ v, readSpacing closing p (i + t.axles - 1) = .value v →
              (v < t.gap → judgeType closing p i t = .fail) ∧ (t.gap ≤ v → judgeType closing p i t = .fit false)))))
  ∧ (∀ (closing : Bool) (p : Passage) (i : Nat) (types : List VehicleType),
      ((∀ t ∈ types, judgeType closing p i t = .fail) → segmentStep closing p i types = .make 0 1 false)
      ∧ (∀ pre t post, types = pre ++ t :: post → (∀ x ∈ pre, judgeType closing p i x = .fail) →
          (judgeType closing p i t = .wait → segmentStep closing p i types = .wait)
          ∧ (∀ e, judgeType closing p i t = .fit e → segmentStep closing p i types = .make t.code t.axles e)))
  ∧ (∀ (s : State) (closing : Bool) (p : Passage) (types : List VehicleType), s.passage = some p →
      types = s.tables.vehicle.filterMap id → (∀ t ∈ types, 1 ≤ t.axles) →
      (p.axles.length < p.segmentStart → s.segmentAttempt closing = s)
      ∧ (p.segmentStart ≤ p.axles.length →
        (segmentStep closing p p.segmentStart types = .wait → s.segmentAttempt closing = s)
        ∧ (∀ code n e, segmentStep closing p p.segmentStart types = .make code n e →
            s.segmentAttempt closing = (s.makeVehicle code n e).segmentAttempt closing)))
  ∧ (∀ (s : State) (p : Passage) (code n count : Nat) (e : Bool) (v : Vehicle), s.passage = some p →
      count = min 65535 (p.vehicleCount + 1) → v = ⟨count, code, p.segmentStart, n, none, none, .pending, false, e⟩ →
      (512 ≤ p.vehicles.length → s.makeVehicle code n e = { s with passage := some { p with
          vehicleCount := count, segmentStart := p.segmentStart + n, flags := { p.flags with vehiclesTruncated := true } } })
      ∧ (p.vehicles.length < 512 → ∃ q, (s.makeVehicle code n e).passage = some q ∧ q.vehicleCount = count
          ∧ q.segmentStart = p.segmentStart + n ∧ q.flags = p.flags ∧ q.vehicles.length = p.vehicles.length + 1
          ∧ q.vehicles.getLast?
              = some (if loadComplete p v = true then evaluatedVehicle p (computeVehicle p v) else computeVehicle p v)
          ∧ q.axles = p.axles.map fun a =>
              if p.segmentStart ≤ a.number ∧ a.number < p.segmentStart + n then { a with vehicle := some count } else a))
  ∧ (∀ (p : Passage) (v : Vehicle) (l : List Nat),
      ((List.range' v.first v.axles).map (fun k => (p.axle k).bind (·.axleLoad)) = l.map some →
        (computeVehicle p v).gross = some (sumNat l)
        ∧ (v.axles % 2 = 0 → 0 < sumNat l → (computeVehicle p v).endImbalance = some (divRoundNat
            (1000 * ((sumNat (l.take (v.axles / 2)) : Int) - sumNat (l.drop (v.axles / 2))).natAbs) (sumNat l)))
        ∧ (v.axles % 2 = 1 ∨ sumNat l = 0 → (computeVehicle p v).endImbalance = none))
      ∧ ((∃ k, v.first ≤ k ∧ k < v.first + v.axles ∧ (p.axle k).bind (·.axleLoad) = none) →
        (computeVehicle p v).gross = none ∧ (computeVehicle p v).endImbalance = none)
      ∧ (computeVehicle p v).number = v.number ∧ (computeVehicle p v).eval = v.eval
      ∧ (loadComplete p v = true ↔ (memberParts p v).length = 2 * v.axles
          ∧ ∀ x ∈ memberParts p v, x.common.settlement ≠ .provisional))
  ∧ (∀ (p : Passage) (v : Vehicle),
      ((∃ x ∈ memberParts p v, x.common.settlement = .unsteady) →
        (evaluatedVehicle p v).eval = .unsteady ∧ (evaluatedVehicle p v).unsteadySource = true)
      ∧ ((∀ x ∈ memberParts p v, x.common.settlement ≠ .unsteady) →
        (evaluatedVehicle p v).unsteadySource = false
        ∧ ((memberParts p v = [] ∨ ∃ x ∈ memberParts p v, x.common.settlement = .unconfirmed) →
            (evaluatedVehicle p v).eval = .unconfirmed)
        ∧ (memberParts p v ≠ [] → (∀ x ∈ memberParts p v, x.common.settlement ≠ .unconfirmed) →
            (evaluatedVehicle p v).eval = .confirmed))
      ∧ (evaluatedVehicle p v).number = v.number ∧ (evaluatedVehicle p v).gross = v.gross)
  ∧ (∀ (r : FeedbackRecord) (t : LoopTime),
      (r.changes = [] → (settledAt r t = true ↔ r.baseOpen = true ∧ 0 ≤ timeDiff (t - 100000#32) r.baseTime))
      ∧ (settledAt r t = true → levelAt r (t - 100000#32) = true))
  ∧ (∀ (s : State) (n : Nat) (w : Window) (t : LoopTime) (i : Nat) (p : Passage), s.passage = some p →
      s.paceWindow t (n, w) = forEach (List.range' 1 p.axles.length) (State.openContext n w t)
          (forEach (List.range' 1 p.axles.length) (State.closeBeyond n w t) s)
      ∧ ((s.axle i).bind (s.newContext p n w t) = none → s.openContext n w t i = s)
      ∧ (∀ c, (s.axle i).bind (s.newContext p n w t) = some c →
        (p.contexts.length < 48 →
          s.openContext n w t i = { s with passage := some { p with contexts := p.contexts ++ [c] } })
        ∧ (48 ≤ p.contexts.length → ∃ q, s.openContext n w t i = { s with passage := some q }
          ∧ q.contexts = p.contexts ∧ q.counters.lostContexts = min 65535 (p.counters.lostContexts + 1)
          ∧ (∀ a, p.axle i = some a → ∃ b, q.axle i = some b ∧ b.lostWindows = a.lostWindows ++ [n]
              ∧ (w.kind = .weigh → b.lostWeigh = a.lostWeigh.set w.rail true)
              ∧ (w.kind = .impact → b.lostImpact = a.lostImpact.set w.rail true)
              ∧ (w.kind = .scan → b.lostScan = a.lostScan.set w.rail true))))
      ∧ (∀ a c, s.newContext p n w t a = some c ↔ ∃ g newest v, governing a.history t = some g
          ∧ a.history.getLast? = some newest ∧ g.dir = p.dir ∧ g.speed = some v ∧ newest.dir = p.dir
          ∧ newest.speed.isSome = true ∧ w.lower ≤ positionFrom s.tables g t ∧ positionFrom s.tables g t < w.upper
          ∧ s.contextOf a.number n = none ∧ n ∉ a.lostWindows
          ∧ c = ⟨a.number, n, w.kind, w.rail, ⟨g.wt, g.time, v⟩, w.channels.map s.openEntry, ⟨false, false, false, false⟩,
              if newest = g then none else some ⟨newest.wt, newest.dir, newest.time, newest.speed⟩⟩))
  ∧ (∀ (s : State) (n : Nat) (w : Window) (t : LoopTime) (i : Nat) (p : Passage) (a : AxleRecord) (c : Context),
      s.passage = some p → p.axle i = some a → s.contextOf i n = some c →
      (∀ y, predicted s.tables a t = some y → beyondWindow p.dir w y = true → s.closeBeyond n w t i = s.closeComplete c t)
      ∧ ((∀ y, predicted s.tables a t = some y → beyondWindow p.dir w y = false) → s.closeBeyond n w t i = s))
  ∧ (∀ (s : State) (c : Context) (t : LoopTime) (k : PartKind) (u : State), partKindOf c.kind = some k →
      u = s.onPassage (fun p => { p with contexts := p.contexts.filter fun x => ¬ (x.axle = c.axle ∧ x.window = c.window) }) →
      (u.confirmedPart c.axle k c.rail = true → s.closeComplete c t = u)
      ∧ (u.confirmedPart c.axle k c.rail = false →
        (c.settling = none → s.closeComplete c t = u.storePart c t k)
        ∧ (∀ x, c.settling = some x → s.closeComplete c t = (u.storePart c t k).settlePart c.axle x (k, c.rail))
        ∧ (∀ a, u.axle c.axle = some a → ∃ b, (u.storePart c t k).axle c.axle = some b
            ∧ commonOf b k c.rail = some ⟨.provisional, t, c.basis.speed, c.flags, none, c.basis⟩)))
  ∧ (∀ (s : State) (y : LineSample) (p : Passage) (e : ChannelEntry), s.passage = some p →
      channelEntry s.tables y.channel = some e →
      (e.kind = .crib → s.attributeSample y = s.giveSample e y
        (axlesAt s.tables p y.time fun z => e.platLow ≤ z && z < e.platHigh) fun _ => true)
      ∧ (e.kind = .ambient → s.attributeSample y = s)
      ∧ (e.kind = .scanner → ∀ n w, s.windows.find? (fun x => x.2.kind == .scan && x.2.rail == e.rail) = some (n, w) →
        (y.channel ∈ w.channels → s.attributeSample y = s.giveSample e y
          (axlesAt s.tables p y.time fun z => w.lower ≤ z && z < w.upper) fun c => c.window == n)
        ∧ (y.channel ∉ w.channels → s.attributeSample y = s))
      ∧ (∀ (test : Int → Bool) (j : Nat), j ∈ axlesAt s.tables p y.time test ↔
          ∃ a ∈ p.axles, a.number = j ∧ ∃ z, predicted s.tables a y.time = some z ∧ test z = true)
      ∧ (∀ only, s.giveSample e y [] only = s
        ∧ (∀ j, s.giveSample e y [j] only = { s with passage := some { p with
            contexts := p.contexts.map fun c => if c.axle = j ∧ only c = true then s.offerSample e y c else c } })
        ∧ (∀ j k l, s.giveSample e y (j :: k :: l) only = { s with passage := some { p with
            counters := { p.counters with conflicts := min 65535 (p.counters.conflicts + 1) } } })))
  ∧ (∀ (s : State) (e : ChannelEntry) (y : LineSample) (x : ContextEntry),
      (x.fixed = true → s.sampleFate e y x = .fixed)
      ∧ (x.fixed = false → admitted (s.effHealth y.channel) = false →
          s.sampleFate e y x = .excluded (exclusionOf (s.effHealth y.channel)))
      ∧ (x.fixed = false → admitted (s.effHealth y.channel) = true →
        (e.kind = .crib → (∀ v, y.force = some v → s.sampleFate e y x = .taken v)
          ∧ (y.force = none → s.sampleFate e y x = .excluded .notReady))
        ∧ (e.kind = .scanner →
          (settledAt (s.brg.records.get e.rail) y.time = false → s.sampleFate e y x = .unsettled)
          ∧ (settledAt (s.brg.records.get e.rail) y.time = true →
            (∀ v, y.temp = some v → s.sampleFate e y x = .taken v) ∧ (y.temp = none → s.sampleFate e y x = .refused))))
      ∧ (∀ (v : Int) (t : LoopTime), (applyFate (.taken v) t x).sum = x.sum + v
          ∧ (applyFate (.taken v) t x).count = min 4294967295 (x.count + 1)
          ∧ ((∀ z, x.peak = some z → z < v) → (applyFate (.taken v) t x).peak = some v
              ∧ (applyFate (.taken v) t x).peakTime = some t)
          ∧ (∀ z, x.peak = some z → v ≤ z → (applyFate (.taken v) t x).peak = some z
              ∧ (applyFate (.taken v) t x).peakTime = x.peakTime)))

/-! ### Alarms and output lines -/

/-- A raise of a new key makes an entry, a greater value changes the entry of its key, a lower or equal one leaves it, and a full list loses it; the highest severity of the class is lifted in every case (R136, R137). The bearing checks raise: HOT at the store of a hot part with the hot index as value (R126); WARM at the settlement of a part that is not hot with its rise at R_warm or more (R127); DIFF where both parts of the axle are settled and their rises differ by D_axle or more, with the joint source state (R128); and OUTLIER of a side for each part that is not hot with its rise at the train mean + Δ_train or more, unless the reference set holds fewer than 8, which sets OUTLIER_SKIPPED (R129, R130; a side without a SCAN window is such a side, the model's reading, notes/assumptions/37.md). -/
def Obligations.RaisesEnterTheList : Prop :=
  (∀ (a : AlarmList) (r : Raise) (t : LoopTime),
      (a.entries.find? (sameKey r) = none → a.entries.length < 128 →
        (a.raise r t).entries = a.entries ++ [entryOf r t] ∧ (a.raise r t).lost = a.lost)
      ∧ (a.entries.find? (sameKey r) = none → 128 ≤ a.entries.length →
        (a.raise r t).entries = a.entries ∧ (a.raise r t).lost = min 65535 (a.lost + 1))
      ∧ (∀ e, a.entries.find? (sameKey r) = some e → r.value ≤ e.value →
        (a.raise r t).entries = a.entries ∧ (a.raise r t).lost = a.lost)
      ∧ (∀ e, a.entries.find? (sameKey r) = some e → e.value < r.value →
        (a.raise r t).lost = a.lost ∧ (a.raise r t).entries.length = a.entries.length
        ∧ (∃ x ∈ (a.raise r t).entries, sameKey r x = true ∧ x.value = r.value ∧ x.source = r.source
            ∧ x.raiseTime = e.raiseTime))
      ∧ (a.raise r t).highest = liftSeverity (alarmClass r.kind) (severity r.value r.threshold) a.highest
      ∧ (a.raise r t).passage = a.passage)
  ∧ (∀ (rHot tAbs : Nat) (tb r : Int),
      hotIndex rHot tAbs tb none = min 65535 (divRoundNat (1000 * (max tb 0).toNat) tAbs)
      ∧ hotIndex rHot tAbs tb (some r)
          = min 65535 (max (divRoundNat (1000 * (max r 0).toNat) rHot) (divRoundNat (1000 * (max tb 0).toNat) tAbs)))
  ∧ (∀ (s : State) (i : Nat) (r : Rail) (p : BearingPart),
      (∀ x, p.hot = true → p.peak = some x → s.evaluateHot i r p = s.alarm ⟨.hot, i, some r,
          hotIndex (s.threshold 10) (s.threshold 11) x.value p.rise, 1000, .provisional, some ⟨i, .bearing, r⟩⟩)
      ∧ (p.hot = false ∨ p.peak = none → s.evaluateHot i r p = s)
      ∧ (∀ z, p.rise = some z → p.hot = false → (s.threshold 12 : Int) ≤ z → s.evaluateWarm i r p
          = s.alarm ⟨.warm, i, some r, z, s.threshold 12, p.common.settlement, some ⟨i, .bearing, r⟩⟩)
      ∧ (p.hot = true ∨ p.rise = none ∨ (∃ z, p.rise = some z ∧ z < (s.threshold 12 : Int)) → s.evaluateWarm i r p = s))
  ∧ (∀ (s : State) (i : Nat) (a : AxleRecord), s.axle i = some a →
      (∀ l r x y, a.bearing.left = some l → a.bearing.right = some r → l.rise = some x → r.rise = some y →
        (l.common.settlement ≠ .provisional → r.common.settlement ≠ .provisional →
          (s.threshold 13 ≤ (x - y).natAbs → s.evaluateDiff i = s.alarm ⟨.diff, i, none, (x - y).natAbs, s.threshold 13,
            (if l.common.settlement = .unsteady ∨ r.common.settlement = .unsteady then .unsteady
              else if l.common.settlement = .unconfirmed ∨ r.common.settlement = .unconfirmed then .unconfirmed
              else .confirmed), none⟩)
          ∧ ((x - y).natAbs < s.threshold 13 → s.evaluateDiff i = s))
        ∧ (l.common.settlement = .provisional ∨ r.common.settlement = .provisional → s.evaluateDiff i = s))
      ∧ (a.bearing.left.bind (·.rise) = none ∨ a.bearing.right.bind (·.rise) = none → s.evaluateDiff i = s)
      ∧ (∀ (r : Rail) (st : Settlement) (err : Option Nat) (p : BearingPart), a.bearing.get r = some p →
          ∃ u : State, u.axle i = some { a with
              bearing := a.bearing.set r (some { p with common := { p.common with settlement := st, posError := err } }) }
            ∧ u.tables = s.tables
            ∧ s.settleAs i .bearing r st err
              = (u.evaluateWarm i r { p with common := { p.common with settlement := st, posError := err } }).evaluateDiff i))
  ∧ (∀ (s : State) (rail : Rail) (p : Passage) (parts : List (Nat × BearingPart)) (rises : List Int), s.passage = some p →
      parts = (p.axles.filterMap fun a => (a.bearing.get rail).map fun b => (a.number, b)) →
      rises = ((parts.filter fun x => decide (x.2.common.settlement = .confirmed ∧ x.2.hot = false
          ∧ x.2.common.flags.suspect = false ∧ x.2.notOpen = false)).filterMap fun x => x.2.rise) →
      (rises.length < 8 →
        s.outlierSide rail = { s with passage := some { p with flags := { p.flags with outlierSkipped := true } } })
      ∧ (8 ≤ rises.length → s.outlierSide rail
          = forEach parts (State.evaluateOutlier rail (divRound (sumInt rises) rises.length + s.threshold 14)) s))
  ∧ (∀ (s : State) (rail : Rail) (limit : Int) (i : Nat) (p : BearingPart),
      (∀ z, p.rise = some z → p.hot = false → limit ≤ z → s.evaluateOutlier rail limit (i, p)
          = s.alarm ⟨.outlier, i, some rail, z, limit, p.common.settlement, some ⟨i, .bearing, rail⟩⟩)
      ∧ (p.hot = true ∨ p.rise = none ∨ (∃ z, p.rise = some z ∧ z < limit) → s.evaluateOutlier rail limit (i, p) = s))

/-- Judging the lines gives each its assertion by its sources, and drives it low when deasserted, high when asserted unless its envelope is low (R142, R145, R147). Outside OFFLINE a PULSE line is asserted while its pulse runs or it is latched; a STEADY or ENVELOPE line while it is latched, its hold timer runs, an alarm class it follows has been raised in the current passage and its entry is not latched, the fault set is not empty and it follows EQUIPMENT, a passage is current and it follows PRESENCE, or the controller is LOST and it follows LINK (R142, R143, R144, R146). A raise latches every STEADY or ENVELOPE line whose entry is latched and follows its class, enters the list, and raises its class's event unless it left its entry unchanged (R137, R144). In OFFLINE a line is asserted while its test level is ON or it is latched, whatever else stands (R147). -/
def Obligations.LinesFollowTheirSources : Prop :=
  (∀ (s : State) (l : Line),
      (s.judgeLines.aou.lines.get l).asserted = s.lineAsserted l
      ∧ ((s.judgeLines.aou.lines.get l).asserted = false → (s.judgeLines.aou.lines.get l).driven = false)
      ∧ ((s.judgeLines.aou.lines.get l).asserted = true → (s.outputEntry l).mode ≠ .envelope →
          (s.judgeLines.aou.lines.get l).driven = true)
      ∧ ((s.judgeLines.aou.lines.get l).asserted = true → (s.outputEntry l).mode = .envelope →
          (s.judgeLines.aou.lines.get l).driven = envelopeHigh (s.outputEntry l).envelope (s.aou.lines.get l).phase)
      ∧ (s.judgeLines.aou.lines.get l).latched = (s.aou.lines.get l).latched
      ∧ (s.judgeLines.aou.lines.get l).hold = (s.aou.lines.get l).hold
      ∧ s.judgeLines = { s with aou := { s.aou with lines := s.judgeLines.aou.lines } })
  ∧ (∀ (s : State) (l : Line), s.scu.site = .offline →
      s.lineAsserted l = ((s.aou.lines.get l).test || (s.aou.lines.get l).latched))
  ∧ (∀ (s : State) (l : Line), s.scu.site ≠ .offline →
      ((s.outputEntry l).mode = .pulse →
        (s.lineAsserted l = true ↔ (s.aou.lines.get l).pulse ≠ none ∨ (s.aou.lines.get l).latched = true))
      ∧ ((s.outputEntry l).mode ≠ .pulse →
        (s.lineAsserted l = true ↔ (s.aou.lines.get l).latched = true ∨ (s.aou.lines.get l).hold ≠ none
          ∨ ((s.outputEntry l).latched = false ∧ (s.scu.site = .passage ∨ s.scu.site = .closing)
              ∧ (((s.outputEntry l).classes.critical = true ∧ 0 < s.aou.alarms.highest.critical)
                ∨ ((s.outputEntry l).classes.alarm = true ∧ 0 < s.aou.alarms.highest.alarm)
                ∨ ((s.outputEntry l).classes.watch = true ∧ 0 < s.aou.alarms.highest.watch)))
          ∨ ((s.outputEntry l).classes.equipment = true ∧ s.faultSet ≠ [])
          ∨ ((s.outputEntry l).classes.presence = true ∧ (s.scu.site = .passage ∨ s.scu.site = .closing))
          ∨ ((s.outputEntry l).classes.link = true ∧ s.lif.linkLost = true))))
  ∧ (∀ (s : State) (r : Raise),
      (s.alarm r).aou.alarms = s.aou.alarms.raise r s.now
      ∧ (∀ l, (((s.alarm r).aou.lines.get l).latched = true ↔ (s.aou.lines.get l).latched = true
            ∨ ((s.outputEntry l).mode ≠ .pulse ∧ (s.outputEntry l).latched = true
              ∧ (s.outputEntry l).classes.has (alarmClass r.kind) = true))
          ∧ ((s.alarm r).aou.lines.get l).asserted = (s.alarm r).lineAsserted l)
      ∧ ((∀ e, s.aou.alarms.entries.find? (sameKey r) = some e → e.value < r.value) →
          (s.alarm r).raised (match alarmClass r.kind with
            | .critical => .criticalRaised
            | .alarm => .alarmRaised
            | .watch => .watchRaised))
      ∧ ((∃ e, s.aou.alarms.entries.find? (sameKey r) = some e ∧ r.value ≤ e.value) → (s.alarm r).rps = s.rps)
      ∧ (s.alarm r).passage = s.passage)

/-- CLEAR_OUTPUTS takes every latch and hold timer, judges the lines anew and answers DONE (R144). TEST_OUTPUTS in OFFLINE gives each line its setting, ON, OFF or as it was, and a line not latched is asserted as its test level says (R147). A command row is LIF taking the command, after dt µs of loop time (the model's form, notes/assumptions/1.md and 6.md). The arrangement of arguments is the model's (notes/assumptions/12.md). -/
def Obligations.OutputCommands : Prop :=
  (∀ (s : State) (dt : Nat) (tag : Byte), s.Ready 17 tag [] →
      ∃ v : State, exec (.clearOutputs dt tag []) s = .next (v.ended 17 tag .done [])
        ∧ v = { s.taken dt with aou := v.aou } ∧ v.aou.alarms = s.aou.alarms
        ∧ (∀ l, (v.aou.lines.get l).latched = false ∧ (v.aou.lines.get l).hold = none
            ∧ (v.aou.lines.get l).pulse = ((s.taken dt).aou.lines.get l).pulse
            ∧ (v.aou.lines.get l).test = (s.aou.lines.get l).test
            ∧ (v.aou.lines.get l).asserted = v.lineAsserted l))
  ∧ (∀ (s : State) (dt : Nat) (tag : Byte) (args : List Byte), s.Ready 18 tag args → s.scu.site = .offline →
      (whole (takeMany (takeCode testSettings) 4) args = none →
        exec (.testOutputs dt tag args) s = .next ((s.taken dt).ended 18 tag .badArgument []))
      ∧ (∀ a b c d, whole (takeMany (takeCode testSettings) 4) args = some [a, b, c, d] →
        ∃ v : State, exec (.testOutputs dt tag args) s = .next (v.ended 18 tag .done [])
          ∧ v = { s.taken dt with aou := v.aou } ∧ v.aou.alarms = s.aou.alarms
          ∧ v.aou.lines.o1.test = a.getD s.aou.lines.o1.test ∧ v.aou.lines.o2.test = b.getD s.aou.lines.o2.test
          ∧ v.aou.lines.o3.test = c.getD s.aou.lines.o3.test ∧ v.aou.lines.o4.test = d.getD s.aou.lines.o4.test
          ∧ (∀ l, (v.aou.lines.get l).asserted = ((v.aou.lines.get l).test || (s.aou.lines.get l).latched))))

/-- A pulse and a hold end at their expiry and an envelope moves at its edges: the line is judged, and no other line changes (R143, R145, R146). A readback input that changes restarts the 40 ms comparison of its line, and shows its level at once (R148). The readback timer's expiry turns an OK line FAULTY, with OUTPUT_FAULT in the fault set, and a FAULTY one OK; EQUIPMENT_CHANGED is raised (R140, R148). The row acts after dt µs of loop time (the model's form, notes/assumptions/1.md). -/
def Obligations.LineTimersAndReadbacks : Prop :=
  (∀ (s : State) (dt : Nat) (l : Line), s.powered = true →
      (∀ n, (s.aou.lines.get l).pulse = some n → n ≤ dt → ∃ t, exec (.pulseEnd dt l) s = .next t
        ∧ t = { s.elapse dt with aou := t.aou } ∧ (t.aou.lines.get l).pulse = none
        ∧ (t.aou.lines.get l).asserted = t.lineAsserted l
        ∧ ((s.outputEntry l).mode = .pulse → (t.aou.lines.get l).asserted
            = ((s.aou.lines.get l).latched || (s.scu.site == .offline && (s.aou.lines.get l).test)))
        ∧ t.aou.alarms = s.aou.alarms ∧ ∀ k, k ≠ l → t.aou.lines.get k = (s.elapse dt).aou.lines.get k)
      ∧ (∀ n, (s.aou.lines.get l).hold = some n → n ≤ dt → ∃ t, exec (.holdTimerExpiry dt l) s = .next t
        ∧ t = { s.elapse dt with aou := t.aou } ∧ (t.aou.lines.get l).hold = none
        ∧ (t.aou.lines.get l).asserted = t.lineAsserted l
        ∧ t.aou.alarms = s.aou.alarms ∧ ∀ k, k ≠ l → t.aou.lines.get k = (s.elapse dt).aou.lines.get k)
      ∧ (∃ t, exec (.envelopeEdge dt l) s = .next t
        ∧ t = { s.elapse dt with aou := t.aou } ∧ t.aou.alarms = s.aou.alarms
        ∧ ((s.outputEntry l).mode = .envelope → (t.aou.lines.get l).asserted = true →
            (t.aou.lines.get l).driven
              = envelopeHigh (s.outputEntry l).envelope (((s.aou.lines.get l).phase + dt) % 1000000))
        ∧ ∀ k, k ≠ l → t.aou.lines.get k = (s.elapse dt).aou.lines.get k))
  ∧ (∀ (s : State) (dt : Nat) (l : Line) (high : Bool), s.powered = true →
      (s.pins.readback.get l ≠ high → ∃ t, exec (.readbackInputChange dt l high) s = .next t
        ∧ t = { s.elapse dt with aou := t.aou, pins := { s.pins with readback := s.pins.readback.set l high } }
        ∧ (t.aou.lines.get l).readback
            = (if ((s.aou.lines.get l).driven = high) ↔ (s.aou.lines.get l).faulty = true then some 40000 else none)
        ∧ (t.aou.lines.get l).faulty = (s.aou.lines.get l).faulty
        ∧ ∀ k, k ≠ l → t.aou.lines.get k = (s.elapse dt).aou.lines.get k)
      ∧ (s.pins.readback.get l = high → exec (.readbackInputChange dt l high) s = .next (s.elapse dt)))
  ∧ (∀ (s : State) (dt n : Nat) (l : Line), s.powered = true → (s.aou.lines.get l).readback = some n → n ≤ dt →
      ∃ t, exec (.readbackTimerExpiry dt l) s = .next t
        ∧ (t.aou.lines.get l).faulty = !(s.aou.lines.get l).faulty
        ∧ (FaultMember.outputFault l ∈ t.faultSet ↔ (s.aou.lines.get l).faulty = false)
        ∧ t.raised .equipmentChanged
        ∧ t.lif = (s.elapse dt).lif ∧ t.scu = (s.elapse dt).scu ∧ t.passage = (s.elapse dt).passage
        ∧ t.brg = (s.elapse dt).brg ∧ t.aou.alarms = s.aou.alarms)

/-! ### The Bearing Unit's inputs -/

/-- An assertion of the approach opens the shutters in ARMED and CLOSING, aborts a running check in CHECKING, and does nothing more elsewhere; a second assertion does nothing (R115, R117, R180). A release of the approach in ARMED starts the 60 s of CLOSE_WAIT where the shutters are OPEN, and nothing more elsewhere (R118). The close timer's expiry closes the shutters: close timers of 500 ms run where the feedback shows open, and open timers stop (R116, R118, R119). That a command starts the timer of a scanner only where its feedback disagrees is the model's reading (notes/assumptions/24.md). A feedback timer that expires enters the scanner's SHUTTER_FAULT; from an open timer in PASSAGE every bearing part of the rail is NOT_OPEN (R119, R120). A change of a shutter feedback joins its record, the oldest of eight becoming its base, stops the timer it satisfies, and takes away a fault it now contradicts (R119, R121). The row acts after dt µs of loop time (the model's form, notes/assumptions/1.md). -/
def Obligations.ShuttersFollowApproachAndFeedback : Prop :=
  (∀ (s : State) (dt : Nat), s.powered = true →
      (s.pins.approach = true → exec (.approachAssertion dt) s = .next (s.elapse dt))
      ∧ (s.pins.approach = false →
        ((s.scu.site = .offline ∨ s.scu.site = .passage) →
          exec (.approachAssertion dt) s = .next { s.elapse dt with pins := { s.pins with approach := true } })
        ∧ ((s.scu.site = .armed ∨ s.scu.site = .closing) → ∃ t, exec (.approachAssertion dt) s = .next t
          ∧ t.pins.approach = true ∧ t.brg.shutter = .opened
          ∧ (s.brg.shutter = .opened → t.brg = (s.elapse dt).brg) ∧ (s.brg.shutter ≠ .opened → t.brg.closeTimer = none)
          ∧ (s.brg.shutter = .closed → ∀ r, t.brg.openTimers.get r
              = (if s.pins.feedback.get r = true then none else some 500000) ∧ t.brg.closeTimers.get r = none)
          ∧ t.scu = (s.elapse dt).scu ∧ t.lif = (s.elapse dt).lif)
        ∧ (s.scu.site = .checking → s.checkRunning = true → ∃ t, exec (.approachAssertion dt) s = .next t
          ∧ t.pins.approach = true ∧ t.scu.site = .armed ∧ t.scu.check = .aborted .approach
          ∧ t.raised .checkEnded ∧ t.raised .stateChanged ∧ (s.brg.shutter = .closed → t.brg.shutter = .opened))))
  ∧ (∀ (s : State) (dt : Nat), s.powered = true →
      (s.pins.approach = false → exec (.approachRelease dt) s = .next (s.elapse dt))
      ∧ (s.pins.approach = true → s.scu.site = .armed → s.brg.shutter = .opened →
        exec (.approachRelease dt) s = .next { s.elapse dt with
          pins := { s.pins with approach := false }
          brg := { (s.elapse dt).brg with shutter := .closeWait, closeTimer := some 60000000 } })
      ∧ (s.pins.approach = true → (s.scu.site ≠ .armed ∨ s.brg.shutter ≠ .opened) →
        exec (.approachRelease dt) s = .next { s.elapse dt with pins := { s.pins with approach := false } }))
  ∧ (∀ (s : State) (dt n : Nat), s.powered = true → s.brg.closeTimer = some n → n ≤ dt → s.brg.shutter ≠ .closed →
      ∃ t, exec (.closeTimerExpiry dt) s = .next t
        ∧ t.brg.shutter = .closed ∧ t.brg.closeTimer = none
        ∧ (∀ r, t.brg.closeTimers.get r = (if s.pins.feedback.get r = true then some 500000 else none)
            ∧ t.brg.openTimers.get r = none)
        ∧ t.scu = (s.elapse dt).scu ∧ t.lif = (s.elapse dt).lif ∧ t.passage = (s.elapse dt).passage)
  ∧ (∀ (s : State) (dt n : Nat) (r : Rail), s.powered = true → n ≤ dt →
      (s.brg.openTimers.get r = some n → ∃ t, exec (.feedbackOpenTimerExpiry dt r) s = .next t
        ∧ t.brg.faults.get r = some .fromOpen ∧ t.brg.openTimers.get r = none
        ∧ .shutterFault r ∈ t.faultSet ∧ t.raised .equipmentChanged
        ∧ (s.scu.site = .passage → ∀ p, t.passage = some p → p.notOpen.get r = true
            ∧ ∀ a ∈ p.axles, ∀ b, a.bearing.get r = some b → b.notOpen = true)
        ∧ (s.scu.site ≠ .passage → t.passage = (s.elapse dt).passage))
      ∧ (s.brg.closeTimers.get r = some n → ∃ t, exec (.feedbackCloseTimerExpiry dt r) s = .next t
        ∧ t.brg.faults.get r = some .fromClose ∧ t.brg.closeTimers.get r = none
        ∧ .shutterFault r ∈ t.faultSet ∧ t.raised .equipmentChanged ∧ t.passage = (s.elapse dt).passage))
  ∧ (∀ (s : State) (dt : Nat) (r : Rail) (isOpen : Bool), s.powered = true →
      (s.pins.feedback.get r = isOpen → exec (.shutterFeedbackChange dt r isOpen) s = .next (s.elapse dt))
      ∧ (s.pins.feedback.get r ≠ isOpen → ∃ t, exec (.shutterFeedbackChange dt r isOpen) s = .next t
        ∧ t.pins.feedback.get r = isOpen ∧ t.brg.shutter = s.brg.shutter
        ∧ (isOpen = true → t.brg.openTimers.get r = none)
        ∧ (isOpen = false → t.brg.closeTimers.get r = none)
        ∧ (((s.elapse dt).brg.records.get r).changes.length < 8 →
            (t.brg.records.get r).changes = ((s.elapse dt).brg.records.get r).changes ++ [⟨later s.now dt, isOpen⟩])
        ∧ (∀ o more, ((s.elapse dt).brg.records.get r).changes = o :: more → 7 ≤ more.length →
            t.brg.records.get r = ⟨o.isOpen, o.time, more ++ [⟨later s.now dt, isOpen⟩]⟩)
        ∧ (isOpen = (s.brg.shutter != .closed) → t.brg.faults.get r = none)
        ∧ (isOpen ≠ (s.brg.shutter != .closed) → t.brg.faults.get r = s.brg.faults.get r)
        ∧ t.scu = (s.elapse dt).scu ∧ t.lif = (s.elapse dt).lif))
end

