-- ==== Sys2Proof/Laws/Exec.lean ====
section
/-! SUPPORT. Each row of exec by its meaning: the timed row, command row or input row that it is. -/

namespace Sys2Proof.Machine

set_option Elab.async false

variable (s : State)

theorem exec_powerOn :
    exec (.powerOn) s =
      .next s.powerUp := rfl

theorem exec_readIdentity (dt : Nat) (tag : Byte) (args : List Byte) :
    exec (.readIdentity dt tag args) s =
      timed dt (command 1 tag args (readIdentity tag args)) s := rfl

theorem exec_readStatus (dt : Nat) (tag : Byte) (args : List Byte) :
    exec (.readStatus dt tag args) s =
      timed dt (command 2 tag args (readStatus tag args)) s := rfl

theorem exec_readLive (dt : Nat) (tag : Byte) (args : List Byte) :
    exec (.readLive dt tag args) s =
      timed dt (command 3 tag args (readLive tag args)) s := rfl

theorem exec_writeTable (dt : Nat) (tag : Byte) (args : List Byte) :
    exec (.writeTable dt tag args) s =
      timed dt (command 4 tag args (writeTable tag args)) s := rfl

theorem exec_readTable (dt : Nat) (tag : Byte) (args : List Byte) :
    exec (.readTable dt tag args) s =
      timed dt (command 5 tag args (readTable tag args)) s := rfl

theorem exec_start (dt : Nat) (tag : Byte) (args : List Byte) :
    exec (.start dt tag args) s =
      timed dt (command 6 tag args (start tag args)) s := rfl

theorem exec_stop (dt : Nat) (tag : Byte) (args : List Byte) :
    exec (.stop dt tag args) s =
      timed dt (command stopCode tag args (stop tag args)) s := rfl

theorem exec_restart (dt : Nat) (tag : Byte) (args : List Byte) :
    exec (.restart dt tag args) s =
      timed dt (command 8 tag args (restart tag args)) s := rfl

theorem exec_runCheck (dt : Nat) (tag : Byte) (args : List Byte) :
    exec (.runCheck dt tag args) s =
      timed dt (command 9 tag args (runCheck tag args)) s := rfl

theorem exec_forceClose (dt : Nat) (tag : Byte) (args : List Byte) :
    exec (.forceClose dt tag args) s =
      timed dt (command 10 tag args (forceClose tag args)) s := rfl

theorem exec_readAlarms (dt : Nat) (tag : Byte) (args : List Byte) :
    exec (.readAlarms dt tag args) s =
      timed dt (command 11 tag args (readAlarms tag args)) s := rfl

theorem exec_readReport (dt : Nat) (tag : Byte) (args : List Byte) :
    exec (.readReport dt tag args) s =
      timed dt (command readReportCode tag args (readReport tag args)) s := rfl

theorem exec_releaseReport (dt : Nat) (tag : Byte) (args : List Byte) :
    exec (.releaseReport dt tag args) s =
      timed dt (command 13 tag args (releaseReport tag args)) s := rfl

theorem exec_readSummaries (dt : Nat) (tag : Byte) (args : List Byte) :
    exec (.readSummaries dt tag args) s =
      timed dt (command 14 tag args (readSummaries tag args)) s := rfl

theorem exec_ackEvents (dt : Nat) (tag : Byte) (args : List Byte) :
    exec (.ackEvents dt tag args) s =
      timed dt (command 15 tag args (ackEvents tag args)) s := rfl

theorem exec_setEventMask (dt : Nat) (tag : Byte) (args : List Byte) :
    exec (.setEventMask dt tag args) s =
      timed dt (command 16 tag args (setEventMask tag args)) s := rfl

theorem exec_clearOutputs (dt : Nat) (tag : Byte) (args : List Byte) :
    exec (.clearOutputs dt tag args) s =
      timed dt (command 17 tag args (clearOutputs tag args)) s := rfl

theorem exec_testOutputs (dt : Nat) (tag : Byte) (args : List Byte) :
    exec (.testOutputs dt tag args) s =
      timed dt (command 18 tag args (testOutputs tag args)) s := rfl

theorem exec_storeTables (dt : Nat) (tag : Byte) (args : List Byte) :
    exec (.storeTables dt tag args) s =
      timed dt (command storeCode tag args (storeTables tag args)) s := rfl

theorem exec_setStation (dt : Nat) (tag : Byte) (args : List Byte) :
    exec (.setStation dt tag args) s =
      timed dt (command 20 tag args (setStation tag args)) s := rfl

theorem exec_storeComplete (dt : Nat) (failed : Option Nat) :
    exec (.storeComplete dt failed) s =
      timed dt (fun t => (t.completeStore failed).drain) s := rfl

theorem exec_frameReceived (dt : Nat) (rate : Rate) (bytes : List Byte) :
    exec (.frameReceived dt rate bytes) s =
      timed dt (State.receive rate bytes) s := rfl

theorem exec_frameSendComplete (dt : Nat) :
    exec (.frameSendComplete dt) s =
      timed dt State.endSending s := rfl

theorem exec_timFrameDue (dt : Nat) :
    exec (.timFrameDue dt) s =
      timed dt State.timDue s := rfl

theorem exec_rptFrameSend (dt : Nat) :
    exec (.rptFrameSend dt) s =
      timed dt State.nextRpt s := rfl

theorem exec_evtFrameSend (dt : Nat) :
    exec (.evtFrameSend dt) s =
      timed dt State.nextEvt s := rfl

theorem exec_holdOffExpiry (dt : Nat) :
    exec (.holdOffExpiry dt) s =
      timed dt (fun t => whenever (expired t.rps.holdOff) (State.onRps fun r => { r with holdOff := none }) t) s := rfl

theorem exec_quietTimerExpiry (dt : Nat) :
    exec (.quietTimerExpiry dt) s =
      timed dt (fun t => whenever (t.lif.locked && expired t.lif.quiet) State.loseLoop t) s := rfl

theorem exec_searchDwellExpiry (dt : Nat) :
    exec (.searchDwellExpiry dt) s =
      timed dt (fun t => whenever (!t.lif.locked && expired t.lif.dwell)
      (State.onLif fun l => { l with rate := nextRate l.rate, dwell := some Config.searchDwell }) t) s := rfl

theorem exec_stripAddressTimeout (dt : Nat) :
    exec (.stripAddressTimeout dt) s =
      timed dt (fun t => whenever (t.lif.strip.any fun p => expired p.timer) (State.onLif fun l => { l with strip := none }) t) s := rfl

theorem exec_supervisionTimerExpiry (dt : Nat) :
    exec (.supervisionTimerExpiry dt) s =
      timed dt (fun t => whenever (expired t.lif.supTimer) State.loseController t) s := rfl

theorem exec_nodeSilenceExpiry (dt : Nat) (node : Nat) :
    exec (.nodeSilenceExpiry dt node) s =
      timed dt (fun t => whenever (expired (t.node node).timer)
      (fun u => (u.onNode node fun n => { n with silent := true, timer := none }).equipmentChanged) t) s := rfl

theorem exec_ambientGateEnd (dt : Nat) :
    exec (.ambientGateEnd dt) s =
      timed dt (fun t => whenever (t.sin.gateLeft == 0) State.endGate t) s := rfl

theorem exec_orderRecordAged (dt : Nat) (node : Nat) :
    exec (.orderRecordAged dt node) s =
      timed dt (fun t => t.onNode node (ageOrder t.now)) s := rfl

theorem exec_releaseRecordAged (dt : Nat) :
    exec (.releaseRecordAged dt) s =
      timed dt (fun t => t.onSin fun x => { x with released := ageOut t.now x.released }) s := rfl

theorem exec_timeOrderRecordAged (dt : Nat) :
    exec (.timeOrderRecordAged dt) s =
      timed dt (fun t => t.onPassage fun p => { p with timeOrder := ageOut t.now p.timeOrder }) s := rfl

theorem exec_doublePulseRecordAged (dt : Nat) (wt : Transducer) (dir : Direction) :
    exec (.doublePulseRecordAged dt wt dir) s =
      timed dt (fun t => t.onPassage fun p => setPulseRecord wt dir (ageOut t.now (pulseRecord p wt dir)) p) s := rfl

theorem exec_feedbackRecordAged (dt : Nat) (rail : Rail) :
    exec (.feedbackRecordAged dt rail) s =
      timed dt (fun t => t.onBrg fun b => { b with records := b.records.set rail (ageFeedbackChange t.now (b.records.get rail)) }) s := rfl

theorem exec_delayLineRelease (dt : Nat) :
    exec (.delayLineRelease dt) s =
      timed dt State.releaseDue s := rfl

theorem exec_crossingTake (dt : Nat) :
    exec (.crossingTake dt) s =
      timed dt State.takeHeadCrossing s := rfl

theorem exec_standingTimerExpiry (dt : Nat) :
    exec (.standingTimerExpiry dt) s =
      timed dt (fun t => whenever (t.passage.any fun p => expired p.standing) (State.onPassage standEpisode) t) s := rfl

theorem exec_clearHoldExpiry (dt : Nat) :
    exec (.clearHoldExpiry dt) s =
      timed dt State.clearHoldEnd s := rfl

theorem exec_lossTimerExpiry (dt : Nat) :
    exec (.lossTimerExpiry dt) s =
      timed dt (fun t => whenever (t.scu.site == .passage && expired t.scu.loss) (State.endPassage .aborted) t) s := rfl

theorem exec_closingSteps (dt : Nat) :
    exec (.closingSteps dt) s =
      timed dt (fun t => whenever (t.scu.site == .closing) (fun u => u.runClosing.drain) t) s := rfl

theorem exec_markTaken (dt : Nat) :
    exec (.markTaken dt) s =
      timed dt (fun t => whenever t.markDue State.takeMark t) s := rfl

theorem exec_pulseEnd (dt : Nat) (line : Line) :
    exec (.pulseEnd dt line) s =
      timed dt (fun t => whenever (expired (t.aou.lines.get line).pulse)
      (fun u => (u.onLine line fun x => { x with pulse := none }).judgeLine line) t) s := rfl

theorem exec_holdTimerExpiry (dt : Nat) (line : Line) :
    exec (.holdTimerExpiry dt line) s =
      timed dt (fun t => whenever (expired (t.aou.lines.get line).hold)
      (fun u => (u.onLine line fun x => { x with hold := none }).judgeLine line) t) s := rfl

theorem exec_envelopeEdge (dt : Nat) (line : Line) :
    exec (.envelopeEdge dt line) s =
      timed dt (State.judgeLine line) s := rfl

theorem exec_readbackInputChange (dt : Nat) (line : Line) (high : Bool) :
    exec (.readbackInputChange dt line high) s =
      pinRow dt (fun t => t.pins.readback.get line != high) (State.readbackChanged line high)
      (fun p => { p with readback := p.readback.set line high }) s := rfl

theorem exec_readbackTimerExpiry (dt : Nat) (line : Line) :
    exec (.readbackTimerExpiry dt line) s =
      timed dt (fun t => whenever (expired (t.aou.lines.get line).readback) (State.readbackExpired line) t) s := rfl

theorem exec_approachAssertion (dt : Nat) :
    exec (.approachAssertion dt) s =
      pinRow dt (fun t => !t.pins.approach) State.approachAsserted (fun p => { p with approach := true }) s := rfl

theorem exec_approachRelease (dt : Nat) :
    exec (.approachRelease dt) s =
      pinRow dt (fun t => t.pins.approach) State.approachReleased (fun p => { p with approach := false }) s := rfl

theorem exec_closeTimerExpiry (dt : Nat) :
    exec (.closeTimerExpiry dt) s =
      timed dt (fun t => whenever (expired t.brg.closeTimer) State.closeShutters t) s := rfl

theorem exec_shutterFeedbackChange (dt : Nat) (rail : Rail) (isOpen : Bool) :
    exec (.shutterFeedbackChange dt rail isOpen) s =
      pinRow dt (fun t => t.pins.feedback.get rail != isOpen)
      (fun t => t.withBrg (changeFeedback t.now rail isOpen))
      (fun p => { p with feedback := p.feedback.set rail isOpen }) s := rfl

theorem exec_feedbackOpenTimerExpiry (dt : Nat) (rail : Rail) :
    exec (.feedbackOpenTimerExpiry dt rail) s =
      timed dt (fun t => whenever (expired (t.brg.openTimers.get rail)) (State.openTimerExpired rail) t) s := rfl

theorem exec_feedbackCloseTimerExpiry (dt : Nat) (rail : Rail) :
    exec (.feedbackCloseTimerExpiry dt rail) s =
      timed dt (fun t => whenever (expired (t.brg.closeTimers.get rail)) (State.closeTimerFault rail) t) s := rfl

theorem exec_powerSettleEnd (dt : Nat) :
    exec (.powerSettleEnd dt) s =
      timed dt (fun t => whenever (expired t.scu.powerTimer)
      (State.onScu fun u => { u with powerTimer := none, powerMark := true }) t) s := rfl

theorem exec_settleWaitEnd (dt : Nat) :
    exec (.settleWaitEnd dt) s =
      timed dt (fun t => whenever (t.scu.check == .run .settle && expired t.scu.settle && t.scu.powerMark) State.endSettle t) s := rfl

theorem exec_checkReferencePhase (dt : Nat) :
    exec (.checkReferencePhase dt) s =
      timed dt (fun t => whenever (t.scu.check == .run .capture && expired t.scu.phaseTimer)
      (State.onScu fun u => { u with check := .run .reference, phaseTimer := none }) t) s := rfl

theorem exec_checkEnd (dt : Nat) :
    exec (.checkEnd dt) s =
      timed dt (fun t => whenever (t.scu.check == .run .reference && expired t.scu.endTimer) State.endCheck t) s := rfl

theorem exec_intervalTimerExpiry (dt : Nat) :
    exec (.intervalTimerExpiry dt) s =
      timed dt (fun t => whenever (expired t.scu.interval) State.intervalEnd t) s := rfl

theorem exec_dueCheckStart (dt : Nat) :
    exec (.dueCheckStart dt) s =
      timed dt (fun t => whenever (t.scu.due && t.mayCheck) (State.enterChecking 0) t) s := rfl

theorem exec_powerLoss (dt : Nat) (writing : Nat) :
    exec (.powerLoss dt writing) s =
      timed dt (State.powerDown writing) s := rfl

theorem exec_ambientOscillatorCycle (dt : Nat) :
    exec (.ambientOscillatorCycle dt) s =
      timed dt (State.onSin fun x => { x with gateCount := satInc Config.gateCountMax x.gateCount }) s := rfl

/-- Every row but POWER_ON is a timed row that leaves the inputs alone, or the row of an input. -/
theorem exec_shape (i : Instr) (hi : i ≠ .powerOn) :
    (∃ dt f, (∀ s, exec i s = timed dt f s) ∧ ∀ q, pinsAfter i q = q)
      ∨ ∃ dt c f p, (∀ s, exec i s = pinRow dt c f p s) ∧ ∀ q, pinsAfter i q = p q := by
  cases i with
  | powerOn => exact absurd rfl hi
  | readIdentity dt tag args => exact .inl ⟨_, _, fun s => exec_readIdentity s dt tag args, fun _ => rfl⟩
  | readStatus dt tag args => exact .inl ⟨_, _, fun s => exec_readStatus s dt tag args, fun _ => rfl⟩
  | readLive dt tag args => exact .inl ⟨_, _, fun s => exec_readLive s dt tag args, fun _ => rfl⟩
  | writeTable dt tag args => exact .inl ⟨_, _, fun s => exec_writeTable s dt tag args, fun _ => rfl⟩
  | readTable dt tag args => exact .inl ⟨_, _, fun s => exec_readTable s dt tag args, fun _ => rfl⟩
  | start dt tag args => exact .inl ⟨_, _, fun s => exec_start s dt tag args, fun _ => rfl⟩
  | stop dt tag args => exact .inl ⟨_, _, fun s => exec_stop s dt tag args, fun _ => rfl⟩
  | restart dt tag args => exact .inl ⟨_, _, fun s => exec_restart s dt tag args, fun _ => rfl⟩
  | runCheck dt tag args => exact .inl ⟨_, _, fun s => exec_runCheck s dt tag args, fun _ => rfl⟩
  | forceClose dt tag args => exact .inl ⟨_, _, fun s => exec_forceClose s dt tag args, fun _ => rfl⟩
  | readAlarms dt tag args => exact .inl ⟨_, _, fun s => exec_readAlarms s dt tag args, fun _ => rfl⟩
  | readReport dt tag args => exact .inl ⟨_, _, fun s => exec_readReport s dt tag args, fun _ => rfl⟩
  | releaseReport dt tag args => exact .inl ⟨_, _, fun s => exec_releaseReport s dt tag args, fun _ => rfl⟩
  | readSummaries dt tag args => exact .inl ⟨_, _, fun s => exec_readSummaries s dt tag args, fun _ => rfl⟩
  | ackEvents dt tag args => exact .inl ⟨_, _, fun s => exec_ackEvents s dt tag args, fun _ => rfl⟩
  | setEventMask dt tag args => exact .inl ⟨_, _, fun s => exec_setEventMask s dt tag args, fun _ => rfl⟩
  | clearOutputs dt tag args => exact .inl ⟨_, _, fun s => exec_clearOutputs s dt tag args, fun _ => rfl⟩
  | testOutputs dt tag args => exact .inl ⟨_, _, fun s => exec_testOutputs s dt tag args, fun _ => rfl⟩
  | storeTables dt tag args => exact .inl ⟨_, _, fun s => exec_storeTables s dt tag args, fun _ => rfl⟩
  | setStation dt tag args => exact .inl ⟨_, _, fun s => exec_setStation s dt tag args, fun _ => rfl⟩
  | storeComplete dt failed => exact .inl ⟨_, _, fun s => exec_storeComplete s dt failed, fun _ => rfl⟩
  | frameReceived dt rate bytes => exact .inl ⟨_, _, fun s => exec_frameReceived s dt rate bytes, fun _ => rfl⟩
  | frameSendComplete dt => exact .inl ⟨_, _, fun s => exec_frameSendComplete s dt, fun _ => rfl⟩
  | timFrameDue dt => exact .inl ⟨_, _, fun s => exec_timFrameDue s dt, fun _ => rfl⟩
  | rptFrameSend dt => exact .inl ⟨_, _, fun s => exec_rptFrameSend s dt, fun _ => rfl⟩
  | evtFrameSend dt => exact .inl ⟨_, _, fun s => exec_evtFrameSend s dt, fun _ => rfl⟩
  | holdOffExpiry dt => exact .inl ⟨_, _, fun s => exec_holdOffExpiry s dt, fun _ => rfl⟩
  | quietTimerExpiry dt => exact .inl ⟨_, _, fun s => exec_quietTimerExpiry s dt, fun _ => rfl⟩
  | searchDwellExpiry dt => exact .inl ⟨_, _, fun s => exec_searchDwellExpiry s dt, fun _ => rfl⟩
  | stripAddressTimeout dt => exact .inl ⟨_, _, fun s => exec_stripAddressTimeout s dt, fun _ => rfl⟩
  | supervisionTimerExpiry dt => exact .inl ⟨_, _, fun s => exec_supervisionTimerExpiry s dt, fun _ => rfl⟩
  | nodeSilenceExpiry dt node => exact .inl ⟨_, _, fun s => exec_nodeSilenceExpiry s dt node, fun _ => rfl⟩
  | ambientGateEnd dt => exact .inl ⟨_, _, fun s => exec_ambientGateEnd s dt, fun _ => rfl⟩
  | orderRecordAged dt node => exact .inl ⟨_, _, fun s => exec_orderRecordAged s dt node, fun _ => rfl⟩
  | releaseRecordAged dt => exact .inl ⟨_, _, fun s => exec_releaseRecordAged s dt, fun _ => rfl⟩
  | timeOrderRecordAged dt => exact .inl ⟨_, _, fun s => exec_timeOrderRecordAged s dt, fun _ => rfl⟩
  | doublePulseRecordAged dt wt dir => exact .inl ⟨_, _, fun s => exec_doublePulseRecordAged s dt wt dir, fun _ => rfl⟩
  | feedbackRecordAged dt rail => exact .inl ⟨_, _, fun s => exec_feedbackRecordAged s dt rail, fun _ => rfl⟩
  | delayLineRelease dt => exact .inl ⟨_, _, fun s => exec_delayLineRelease s dt, fun _ => rfl⟩
  | crossingTake dt => exact .inl ⟨_, _, fun s => exec_crossingTake s dt, fun _ => rfl⟩
  | standingTimerExpiry dt => exact .inl ⟨_, _, fun s => exec_standingTimerExpiry s dt, fun _ => rfl⟩
  | clearHoldExpiry dt => exact .inl ⟨_, _, fun s => exec_clearHoldExpiry s dt, fun _ => rfl⟩
  | lossTimerExpiry dt => exact .inl ⟨_, _, fun s => exec_lossTimerExpiry s dt, fun _ => rfl⟩
  | closingSteps dt => exact .inl ⟨_, _, fun s => exec_closingSteps s dt, fun _ => rfl⟩
  | markTaken dt => exact .inl ⟨_, _, fun s => exec_markTaken s dt, fun _ => rfl⟩
  | pulseEnd dt line => exact .inl ⟨_, _, fun s => exec_pulseEnd s dt line, fun _ => rfl⟩
  | holdTimerExpiry dt line => exact .inl ⟨_, _, fun s => exec_holdTimerExpiry s dt line, fun _ => rfl⟩
  | envelopeEdge dt line => exact .inl ⟨_, _, fun s => exec_envelopeEdge s dt line, fun _ => rfl⟩
  | readbackInputChange dt line high => exact .inr ⟨_, _, _, _, fun s => exec_readbackInputChange s dt line high, fun _ => rfl⟩
  | readbackTimerExpiry dt line => exact .inl ⟨_, _, fun s => exec_readbackTimerExpiry s dt line, fun _ => rfl⟩
  | approachAssertion dt => exact .inr ⟨_, _, _, _, fun s => exec_approachAssertion s dt, fun _ => rfl⟩
  | approachRelease dt => exact .inr ⟨_, _, _, _, fun s => exec_approachRelease s dt, fun _ => rfl⟩
  | closeTimerExpiry dt => exact .inl ⟨_, _, fun s => exec_closeTimerExpiry s dt, fun _ => rfl⟩
  | shutterFeedbackChange dt rail isOpen => exact .inr ⟨_, _, _, _, fun s => exec_shutterFeedbackChange s dt rail isOpen, fun _ => rfl⟩
  | feedbackOpenTimerExpiry dt rail => exact .inl ⟨_, _, fun s => exec_feedbackOpenTimerExpiry s dt rail, fun _ => rfl⟩
  | feedbackCloseTimerExpiry dt rail => exact .inl ⟨_, _, fun s => exec_feedbackCloseTimerExpiry s dt rail, fun _ => rfl⟩
  | powerSettleEnd dt => exact .inl ⟨_, _, fun s => exec_powerSettleEnd s dt, fun _ => rfl⟩
  | settleWaitEnd dt => exact .inl ⟨_, _, fun s => exec_settleWaitEnd s dt, fun _ => rfl⟩
  | checkReferencePhase dt => exact .inl ⟨_, _, fun s => exec_checkReferencePhase s dt, fun _ => rfl⟩
  | checkEnd dt => exact .inl ⟨_, _, fun s => exec_checkEnd s dt, fun _ => rfl⟩
  | intervalTimerExpiry dt => exact .inl ⟨_, _, fun s => exec_intervalTimerExpiry s dt, fun _ => rfl⟩
  | dueCheckStart dt => exact .inl ⟨_, _, fun s => exec_dueCheckStart s dt, fun _ => rfl⟩
  | powerLoss dt writing => exact .inl ⟨_, _, fun s => exec_powerLoss s dt writing, fun _ => rfl⟩
  | ambientOscillatorCycle dt => exact .inl ⟨_, _, fun s => exec_ambientOscillatorCycle s dt, fun _ => rfl⟩

end Sys2Proof.Machine
end

