-- ==== Sys2Proof/Laws/State.lean ====
section
/-! SUPPORT. One lemma for each field after each update of a block, true by rfl. -/

namespace Sys2Proof.Machine

set_option Elab.async false

variable (s : State)

/-! ### onLif -/

@[simp] theorem pending_onLif (f : Lif → Lif) : (s.onLif f).pending = s.pending := rfl
@[simp] theorem powered_onLif (f : Lif → Lif) : (s.onLif f).powered = s.powered := rfl
@[simp] theorem now_onLif (f : Lif → Lif) : (s.onLif f).now = s.now := rfl
@[simp] theorem pins_onLif (f : Lif → Lif) : (s.onLif f).pins = s.pins := rfl
@[simp] theorem store_onLif (f : Lif → Lif) : (s.onLif f).store = s.store := rfl
@[simp] theorem conds_onLif (f : Lif → Lif) : (s.onLif f).conds = s.conds := rfl
@[simp] theorem tables_onLif (f : Lif → Lif) : (s.onLif f).tables = s.tables := rfl
@[simp] theorem invalid_onLif (f : Lif → Lif) : (s.onLif f).invalid = s.invalid := rfl
@[simp] theorem commit_onLif (f : Lif → Lif) : (s.onLif f).commit = s.commit := rfl
@[simp] theorem lif_onLif (f : Lif → Lif) : (s.onLif f).lif = f s.lif := rfl
@[simp] theorem sin_onLif (f : Lif → Lif) : (s.onLif f).sin = s.sin := rfl
@[simp] theorem axt_onLif (f : Lif → Lif) : (s.onLif f).axt = s.axt := rfl
@[simp] theorem passage_onLif (f : Lif → Lif) : (s.onLif f).passage = s.passage := rfl
@[simp] theorem brg_onLif (f : Lif → Lif) : (s.onLif f).brg = s.brg := rfl
@[simp] theorem aou_onLif (f : Lif → Lif) : (s.onLif f).aou = s.aou := rfl
@[simp] theorem rps_onLif (f : Lif → Lif) : (s.onLif f).rps = s.rps := rfl
@[simp] theorem scu_onLif (f : Lif → Lif) : (s.onLif f).scu = s.scu := rfl

/-! ### onSin -/

@[simp] theorem pending_onSin (f : Sin → Sin) : (s.onSin f).pending = s.pending := rfl
@[simp] theorem powered_onSin (f : Sin → Sin) : (s.onSin f).powered = s.powered := rfl
@[simp] theorem now_onSin (f : Sin → Sin) : (s.onSin f).now = s.now := rfl
@[simp] theorem pins_onSin (f : Sin → Sin) : (s.onSin f).pins = s.pins := rfl
@[simp] theorem store_onSin (f : Sin → Sin) : (s.onSin f).store = s.store := rfl
@[simp] theorem conds_onSin (f : Sin → Sin) : (s.onSin f).conds = s.conds := rfl
@[simp] theorem tables_onSin (f : Sin → Sin) : (s.onSin f).tables = s.tables := rfl
@[simp] theorem invalid_onSin (f : Sin → Sin) : (s.onSin f).invalid = s.invalid := rfl
@[simp] theorem commit_onSin (f : Sin → Sin) : (s.onSin f).commit = s.commit := rfl
@[simp] theorem lif_onSin (f : Sin → Sin) : (s.onSin f).lif = s.lif := rfl
@[simp] theorem sin_onSin (f : Sin → Sin) : (s.onSin f).sin = f s.sin := rfl
@[simp] theorem axt_onSin (f : Sin → Sin) : (s.onSin f).axt = s.axt := rfl
@[simp] theorem passage_onSin (f : Sin → Sin) : (s.onSin f).passage = s.passage := rfl
@[simp] theorem brg_onSin (f : Sin → Sin) : (s.onSin f).brg = s.brg := rfl
@[simp] theorem aou_onSin (f : Sin → Sin) : (s.onSin f).aou = s.aou := rfl
@[simp] theorem rps_onSin (f : Sin → Sin) : (s.onSin f).rps = s.rps := rfl
@[simp] theorem scu_onSin (f : Sin → Sin) : (s.onSin f).scu = s.scu := rfl

/-! ### onAxt -/

@[simp] theorem pending_onAxt (f : Axt → Axt) : (s.onAxt f).pending = s.pending := rfl
@[simp] theorem powered_onAxt (f : Axt → Axt) : (s.onAxt f).powered = s.powered := rfl
@[simp] theorem now_onAxt (f : Axt → Axt) : (s.onAxt f).now = s.now := rfl
@[simp] theorem pins_onAxt (f : Axt → Axt) : (s.onAxt f).pins = s.pins := rfl
@[simp] theorem store_onAxt (f : Axt → Axt) : (s.onAxt f).store = s.store := rfl
@[simp] theorem conds_onAxt (f : Axt → Axt) : (s.onAxt f).conds = s.conds := rfl
@[simp] theorem tables_onAxt (f : Axt → Axt) : (s.onAxt f).tables = s.tables := rfl
@[simp] theorem invalid_onAxt (f : Axt → Axt) : (s.onAxt f).invalid = s.invalid := rfl
@[simp] theorem commit_onAxt (f : Axt → Axt) : (s.onAxt f).commit = s.commit := rfl
@[simp] theorem lif_onAxt (f : Axt → Axt) : (s.onAxt f).lif = s.lif := rfl
@[simp] theorem sin_onAxt (f : Axt → Axt) : (s.onAxt f).sin = s.sin := rfl
@[simp] theorem axt_onAxt (f : Axt → Axt) : (s.onAxt f).axt = f s.axt := rfl
@[simp] theorem passage_onAxt (f : Axt → Axt) : (s.onAxt f).passage = s.passage := rfl
@[simp] theorem brg_onAxt (f : Axt → Axt) : (s.onAxt f).brg = s.brg := rfl
@[simp] theorem aou_onAxt (f : Axt → Axt) : (s.onAxt f).aou = s.aou := rfl
@[simp] theorem rps_onAxt (f : Axt → Axt) : (s.onAxt f).rps = s.rps := rfl
@[simp] theorem scu_onAxt (f : Axt → Axt) : (s.onAxt f).scu = s.scu := rfl

/-! ### onPassage -/

@[simp] theorem pending_onPassage (f : Passage → Passage) : (s.onPassage f).pending = s.pending := rfl
@[simp] theorem powered_onPassage (f : Passage → Passage) : (s.onPassage f).powered = s.powered := rfl
@[simp] theorem now_onPassage (f : Passage → Passage) : (s.onPassage f).now = s.now := rfl
@[simp] theorem pins_onPassage (f : Passage → Passage) : (s.onPassage f).pins = s.pins := rfl
@[simp] theorem store_onPassage (f : Passage → Passage) : (s.onPassage f).store = s.store := rfl
@[simp] theorem conds_onPassage (f : Passage → Passage) : (s.onPassage f).conds = s.conds := rfl
@[simp] theorem tables_onPassage (f : Passage → Passage) : (s.onPassage f).tables = s.tables := rfl
@[simp] theorem invalid_onPassage (f : Passage → Passage) : (s.onPassage f).invalid = s.invalid := rfl
@[simp] theorem commit_onPassage (f : Passage → Passage) : (s.onPassage f).commit = s.commit := rfl
@[simp] theorem lif_onPassage (f : Passage → Passage) : (s.onPassage f).lif = s.lif := rfl
@[simp] theorem sin_onPassage (f : Passage → Passage) : (s.onPassage f).sin = s.sin := rfl
@[simp] theorem axt_onPassage (f : Passage → Passage) : (s.onPassage f).axt = s.axt := rfl
@[simp] theorem passage_onPassage (f : Passage → Passage) : (s.onPassage f).passage = s.passage.map f := rfl
@[simp] theorem brg_onPassage (f : Passage → Passage) : (s.onPassage f).brg = s.brg := rfl
@[simp] theorem aou_onPassage (f : Passage → Passage) : (s.onPassage f).aou = s.aou := rfl
@[simp] theorem rps_onPassage (f : Passage → Passage) : (s.onPassage f).rps = s.rps := rfl
@[simp] theorem scu_onPassage (f : Passage → Passage) : (s.onPassage f).scu = s.scu := rfl

/-! ### onBrg -/

@[simp] theorem pending_onBrg (f : Brg → Brg) : (s.onBrg f).pending = s.pending := rfl
@[simp] theorem powered_onBrg (f : Brg → Brg) : (s.onBrg f).powered = s.powered := rfl
@[simp] theorem now_onBrg (f : Brg → Brg) : (s.onBrg f).now = s.now := rfl
@[simp] theorem pins_onBrg (f : Brg → Brg) : (s.onBrg f).pins = s.pins := rfl
@[simp] theorem store_onBrg (f : Brg → Brg) : (s.onBrg f).store = s.store := rfl
@[simp] theorem conds_onBrg (f : Brg → Brg) : (s.onBrg f).conds = s.conds := rfl
@[simp] theorem tables_onBrg (f : Brg → Brg) : (s.onBrg f).tables = s.tables := rfl
@[simp] theorem invalid_onBrg (f : Brg → Brg) : (s.onBrg f).invalid = s.invalid := rfl
@[simp] theorem commit_onBrg (f : Brg → Brg) : (s.onBrg f).commit = s.commit := rfl
@[simp] theorem lif_onBrg (f : Brg → Brg) : (s.onBrg f).lif = s.lif := rfl
@[simp] theorem sin_onBrg (f : Brg → Brg) : (s.onBrg f).sin = s.sin := rfl
@[simp] theorem axt_onBrg (f : Brg → Brg) : (s.onBrg f).axt = s.axt := rfl
@[simp] theorem passage_onBrg (f : Brg → Brg) : (s.onBrg f).passage = s.passage := rfl
@[simp] theorem brg_onBrg (f : Brg → Brg) : (s.onBrg f).brg = f s.brg := rfl
@[simp] theorem aou_onBrg (f : Brg → Brg) : (s.onBrg f).aou = s.aou := rfl
@[simp] theorem rps_onBrg (f : Brg → Brg) : (s.onBrg f).rps = s.rps := rfl
@[simp] theorem scu_onBrg (f : Brg → Brg) : (s.onBrg f).scu = s.scu := rfl

/-! ### onAou -/

@[simp] theorem pending_onAou (f : Aou → Aou) : (s.onAou f).pending = s.pending := rfl
@[simp] theorem powered_onAou (f : Aou → Aou) : (s.onAou f).powered = s.powered := rfl
@[simp] theorem now_onAou (f : Aou → Aou) : (s.onAou f).now = s.now := rfl
@[simp] theorem pins_onAou (f : Aou → Aou) : (s.onAou f).pins = s.pins := rfl
@[simp] theorem store_onAou (f : Aou → Aou) : (s.onAou f).store = s.store := rfl
@[simp] theorem conds_onAou (f : Aou → Aou) : (s.onAou f).conds = s.conds := rfl
@[simp] theorem tables_onAou (f : Aou → Aou) : (s.onAou f).tables = s.tables := rfl
@[simp] theorem invalid_onAou (f : Aou → Aou) : (s.onAou f).invalid = s.invalid := rfl
@[simp] theorem commit_onAou (f : Aou → Aou) : (s.onAou f).commit = s.commit := rfl
@[simp] theorem lif_onAou (f : Aou → Aou) : (s.onAou f).lif = s.lif := rfl
@[simp] theorem sin_onAou (f : Aou → Aou) : (s.onAou f).sin = s.sin := rfl
@[simp] theorem axt_onAou (f : Aou → Aou) : (s.onAou f).axt = s.axt := rfl
@[simp] theorem passage_onAou (f : Aou → Aou) : (s.onAou f).passage = s.passage := rfl
@[simp] theorem brg_onAou (f : Aou → Aou) : (s.onAou f).brg = s.brg := rfl
@[simp] theorem aou_onAou (f : Aou → Aou) : (s.onAou f).aou = f s.aou := rfl
@[simp] theorem rps_onAou (f : Aou → Aou) : (s.onAou f).rps = s.rps := rfl
@[simp] theorem scu_onAou (f : Aou → Aou) : (s.onAou f).scu = s.scu := rfl

/-! ### onRps -/

@[simp] theorem pending_onRps (f : Rps → Rps) : (s.onRps f).pending = s.pending := rfl
@[simp] theorem powered_onRps (f : Rps → Rps) : (s.onRps f).powered = s.powered := rfl
@[simp] theorem now_onRps (f : Rps → Rps) : (s.onRps f).now = s.now := rfl
@[simp] theorem pins_onRps (f : Rps → Rps) : (s.onRps f).pins = s.pins := rfl
@[simp] theorem store_onRps (f : Rps → Rps) : (s.onRps f).store = s.store := rfl
@[simp] theorem conds_onRps (f : Rps → Rps) : (s.onRps f).conds = s.conds := rfl
@[simp] theorem tables_onRps (f : Rps → Rps) : (s.onRps f).tables = s.tables := rfl
@[simp] theorem invalid_onRps (f : Rps → Rps) : (s.onRps f).invalid = s.invalid := rfl
@[simp] theorem commit_onRps (f : Rps → Rps) : (s.onRps f).commit = s.commit := rfl
@[simp] theorem lif_onRps (f : Rps → Rps) : (s.onRps f).lif = s.lif := rfl
@[simp] theorem sin_onRps (f : Rps → Rps) : (s.onRps f).sin = s.sin := rfl
@[simp] theorem axt_onRps (f : Rps → Rps) : (s.onRps f).axt = s.axt := rfl
@[simp] theorem passage_onRps (f : Rps → Rps) : (s.onRps f).passage = s.passage := rfl
@[simp] theorem brg_onRps (f : Rps → Rps) : (s.onRps f).brg = s.brg := rfl
@[simp] theorem aou_onRps (f : Rps → Rps) : (s.onRps f).aou = s.aou := rfl
@[simp] theorem rps_onRps (f : Rps → Rps) : (s.onRps f).rps = f s.rps := rfl
@[simp] theorem scu_onRps (f : Rps → Rps) : (s.onRps f).scu = s.scu := rfl

/-! ### onScu -/

@[simp] theorem pending_onScu (f : Scu → Scu) : (s.onScu f).pending = s.pending := rfl
@[simp] theorem powered_onScu (f : Scu → Scu) : (s.onScu f).powered = s.powered := rfl
@[simp] theorem now_onScu (f : Scu → Scu) : (s.onScu f).now = s.now := rfl
@[simp] theorem pins_onScu (f : Scu → Scu) : (s.onScu f).pins = s.pins := rfl
@[simp] theorem store_onScu (f : Scu → Scu) : (s.onScu f).store = s.store := rfl
@[simp] theorem conds_onScu (f : Scu → Scu) : (s.onScu f).conds = s.conds := rfl
@[simp] theorem tables_onScu (f : Scu → Scu) : (s.onScu f).tables = s.tables := rfl
@[simp] theorem invalid_onScu (f : Scu → Scu) : (s.onScu f).invalid = s.invalid := rfl
@[simp] theorem commit_onScu (f : Scu → Scu) : (s.onScu f).commit = s.commit := rfl
@[simp] theorem lif_onScu (f : Scu → Scu) : (s.onScu f).lif = s.lif := rfl
@[simp] theorem sin_onScu (f : Scu → Scu) : (s.onScu f).sin = s.sin := rfl
@[simp] theorem axt_onScu (f : Scu → Scu) : (s.onScu f).axt = s.axt := rfl
@[simp] theorem passage_onScu (f : Scu → Scu) : (s.onScu f).passage = s.passage := rfl
@[simp] theorem brg_onScu (f : Scu → Scu) : (s.onScu f).brg = s.brg := rfl
@[simp] theorem aou_onScu (f : Scu → Scu) : (s.onScu f).aou = s.aou := rfl
@[simp] theorem rps_onScu (f : Scu → Scu) : (s.onScu f).rps = s.rps := rfl
@[simp] theorem scu_onScu (f : Scu → Scu) : (s.onScu f).scu = f s.scu := rfl

/-! ### raise and elapse -/

@[simp] theorem pending_raise (k : EventKind) : (s.raise k).pending = s.pending := rfl
@[simp] theorem powered_raise (k : EventKind) : (s.raise k).powered = s.powered := rfl
@[simp] theorem now_raise (k : EventKind) : (s.raise k).now = s.now := rfl
@[simp] theorem pins_raise (k : EventKind) : (s.raise k).pins = s.pins := rfl
@[simp] theorem store_raise (k : EventKind) : (s.raise k).store = s.store := rfl
@[simp] theorem conds_raise (k : EventKind) : (s.raise k).conds = s.conds := rfl
@[simp] theorem tables_raise (k : EventKind) : (s.raise k).tables = s.tables := rfl
@[simp] theorem invalid_raise (k : EventKind) : (s.raise k).invalid = s.invalid := rfl
@[simp] theorem commit_raise (k : EventKind) : (s.raise k).commit = s.commit := rfl
@[simp] theorem lif_raise (k : EventKind) : (s.raise k).lif = s.lif := rfl
@[simp] theorem sin_raise (k : EventKind) : (s.raise k).sin = s.sin := rfl
@[simp] theorem axt_raise (k : EventKind) : (s.raise k).axt = s.axt := rfl
@[simp] theorem passage_raise (k : EventKind) : (s.raise k).passage = s.passage := rfl
@[simp] theorem brg_raise (k : EventKind) : (s.raise k).brg = s.brg := rfl
@[simp] theorem aou_raise (k : EventKind) : (s.raise k).aou = s.aou := rfl
@[simp] theorem scu_raise (k : EventKind) : (s.raise k).scu = s.scu := rfl
@[simp] theorem rps_raise (k : EventKind) : (s.raise k).rps = s.rps.raise k := rfl

@[simp] theorem pending_elapse (dt : Nat) : (s.elapse dt).pending = s.pending := rfl
@[simp] theorem powered_elapse (dt : Nat) : (s.elapse dt).powered = s.powered := rfl
@[simp] theorem now_elapse (dt : Nat) : (s.elapse dt).now = later s.now dt := rfl
@[simp] theorem pins_elapse (dt : Nat) : (s.elapse dt).pins = s.pins := rfl
@[simp] theorem store_elapse (dt : Nat) : (s.elapse dt).store = s.store := rfl
@[simp] theorem conds_elapse (dt : Nat) : (s.elapse dt).conds = s.conds := rfl
@[simp] theorem tables_elapse (dt : Nat) : (s.elapse dt).tables = s.tables := rfl
@[simp] theorem invalid_elapse (dt : Nat) : (s.elapse dt).invalid = s.invalid := rfl
@[simp] theorem commit_elapse (dt : Nat) : (s.elapse dt).commit = s.commit := rfl
@[simp] theorem lif_elapse (dt : Nat) : (s.elapse dt).lif = tickLif dt s.lif := rfl
@[simp] theorem sin_elapse (dt : Nat) : (s.elapse dt).sin = tickSin dt s.sin := rfl
@[simp] theorem axt_elapse (dt : Nat) : (s.elapse dt).axt = s.axt := rfl
@[simp] theorem passage_elapse (dt : Nat) : (s.elapse dt).passage = s.passage.map (tickPassage s.now dt) := rfl
@[simp] theorem brg_elapse (dt : Nat) : (s.elapse dt).brg = tickBrg s.now dt s.brg := rfl
@[simp] theorem aou_elapse (dt : Nat) : (s.elapse dt).aou = { s.aou with lines := s.aou.lines.map (tickLine dt) } := rfl
@[simp] theorem rps_elapse (dt : Nat) : (s.elapse dt).rps = { s.rps with holdOff := tick dt s.rps.holdOff } := rfl
@[simp] theorem scu_elapse (dt : Nat) : (s.elapse dt).scu = tickScu dt s.scu := rfl

/-! ### What loop time leaves alone -/

@[simp] theorem locked_tickLif (dt : Nat) (l : Lif) : (tickLif dt l).locked = l.locked := rfl
@[simp] theorem rate_tickLif (dt : Nat) (l : Lif) : (tickLif dt l).rate = l.rate := rfl
@[simp] theorem loopLost_tickLif (dt : Nat) (l : Lif) : (tickLif dt l).loopLost = l.loopLost := rfl
@[simp] theorem station_tickLif (dt : Nat) (l : Lif) : (tickLif dt l).station = l.station := rfl
@[simp] theorem fixed_tickLif (dt : Nat) (l : Lif) : (tickLif dt l).fixed = l.fixed := rfl
@[simp] theorem queue_tickLif (dt : Nat) (l : Lif) : (tickLif dt l).queue = l.queue := rfl
@[simp] theorem inProgress_tickLif (dt : Nat) (l : Lif) : (tickLif dt l).inProgress = l.inProgress := rfl
@[simp] theorem sending_tickLif (dt : Nat) (l : Lif) : (tickLif dt l).sending = l.sending := rfl
@[simp] theorem timWaiting_tickLif (dt : Nat) (l : Lif) : (tickLif dt l).timWaiting = l.timWaiting := rfl
@[simp] theorem own_tickLif (dt : Nat) (l : Lif) : (tickLif dt l).own = l.own := rfl
@[simp] theorem forward_tickLif (dt : Nat) (l : Lif) : (tickLif dt l).forward = l.forward := rfl
@[simp] theorem linkLost_tickLif (dt : Nat) (l : Lif) : (tickLif dt l).linkLost = l.linkLost := rfl
@[simp] theorem counters_tickLif (dt : Nat) (l : Lif) : (tickLif dt l).counters = l.counters := rfl

@[simp] theorem site_tickScu (dt : Nat) (u : Scu) : (tickScu dt u).site = u.site := rfl
@[simp] theorem siteFresh_tickScu (dt : Nat) (u : Scu) : (tickScu dt u).siteFresh = u.siteFresh := rfl
@[simp] theorem check_tickScu (dt : Nat) (u : Scu) : (tickScu dt u).check = u.check := rfl
@[simp] theorem checkTime_tickScu (dt : Nat) (u : Scu) : (tickScu dt u).checkTime = u.checkTime := rfl
@[simp] theorem powerMark_tickScu (dt : Nat) (u : Scu) : (tickScu dt u).powerMark = u.powerMark := rfl
@[simp] theorem sampleStart_tickScu (dt : Nat) (u : Scu) : (tickScu dt u).sampleStart = u.sampleStart := rfl
@[simp] theorem due_tickScu (dt : Nat) (u : Scu) : (tickScu dt u).due = u.due := rfl
@[simp] theorem validation_tickScu (dt : Nat) (u : Scu) : (tickScu dt u).validation = u.validation := rfl
@[simp] theorem autoArm_tickScu (dt : Nat) (u : Scu) : (tickScu dt u).autoArm = u.autoArm := rfl
@[simp] theorem store_tickScu (dt : Nat) (u : Scu) : (tickScu dt u).store = u.store := rfl

@[simp] theorem channels_tickSin (dt : Nat) (n : Sin) : (tickSin dt n).channels = n.channels := rfl
@[simp] theorem gateCount_tickSin (dt : Nat) (n : Sin) : (tickSin dt n).gateCount = n.gateCount := rfl
@[simp] theorem ambientFault_tickSin (dt : Nat) (n : Sin) : (tickSin dt n).ambientFault = n.ambientFault := rfl
@[simp] theorem history_tickSin (dt : Nat) (n : Sin) : (tickSin dt n).history = n.history := rfl
@[simp] theorem ambientFresh_tickSin (dt : Nat) (n : Sin) : (tickSin dt n).ambientFresh = n.ambientFresh := rfl
@[simp] theorem line_tickSin (dt : Nat) (n : Sin) : (tickSin dt n).line = n.line := rfl
@[simp] theorem released_tickSin (dt : Nat) (n : Sin) : (tickSin dt n).released = n.released := rfl
@[simp] theorem counters_tickSin (dt : Nat) (n : Sin) : (tickSin dt n).counters = n.counters := rfl

@[simp] theorem shutter_tickBrg (now : LoopTime) (dt : Nat) (b : Brg) : (tickBrg now dt b).shutter = b.shutter := rfl
@[simp] theorem faults_tickBrg (now : LoopTime) (dt : Nat) (b : Brg) : (tickBrg now dt b).faults = b.faults := rfl

@[simp] theorem number_tickPassage (now : LoopTime) (dt : Nat) (p : Passage) : (tickPassage now dt p).number = p.number := rfl
@[simp] theorem startTime_tickPassage (now : LoopTime) (dt : Nat) (p : Passage) : (tickPassage now dt p).startTime = p.startTime := rfl
@[simp] theorem endTime_tickPassage (now : LoopTime) (dt : Nat) (p : Passage) : (tickPassage now dt p).endTime = p.endTime := rfl
@[simp] theorem disposition_tickPassage (now : LoopTime) (dt : Nat) (p : Passage) : (tickPassage now dt p).disposition = p.disposition := rfl
@[simp] theorem dir_tickPassage (now : LoopTime) (dt : Nat) (p : Passage) : (tickPassage now dt p).dir = p.dir := rfl
@[simp] theorem counts_tickPassage (now : LoopTime) (dt : Nat) (p : Passage) : (tickPassage now dt p).counts = p.counts := rfl
@[simp] theorem total_tickPassage (now : LoopTime) (dt : Nat) (p : Passage) : (tickPassage now dt p).total = p.total := rfl
@[simp] theorem flags_tickPassage (now : LoopTime) (dt : Nat) (p : Passage) : (tickPassage now dt p).flags = p.flags := rfl
@[simp] theorem counters_tickPassage (now : LoopTime) (dt : Nat) (p : Passage) : (tickPassage now dt p).counters = p.counters := rfl
@[simp] theorem timeOrder_tickPassage (now : LoopTime) (dt : Nat) (p : Passage) : (tickPassage now dt p).timeOrder = p.timeOrder := rfl
@[simp] theorem doublePulse_tickPassage (now : LoopTime) (dt : Nat) (p : Passage) : (tickPassage now dt p).doublePulse = p.doublePulse := rfl
@[simp] theorem marks_tickPassage (now : LoopTime) (dt : Nat) (p : Passage) : (tickPassage now dt p).marks = p.marks := rfl
@[simp] theorem contexts_tickPassage (now : LoopTime) (dt : Nat) (p : Passage) : (tickPassage now dt p).contexts = p.contexts := rfl
@[simp] theorem segmentStart_tickPassage (now : LoopTime) (dt : Nat) (p : Passage) : (tickPassage now dt p).segmentStart = p.segmentStart := rfl
@[simp] theorem vehicles_tickPassage (now : LoopTime) (dt : Nat) (p : Passage) : (tickPassage now dt p).vehicles = p.vehicles := rfl
@[simp] theorem vehicleCount_tickPassage (now : LoopTime) (dt : Nat) (p : Passage) : (tickPassage now dt p).vehicleCount = p.vehicleCount := rfl
@[simp] theorem ambient_tickPassage (now : LoopTime) (dt : Nat) (p : Passage) : (tickPassage now dt p).ambient = p.ambient := rfl
@[simp] theorem notOpen_tickPassage (now : LoopTime) (dt : Nat) (p : Passage) : (tickPassage now dt p).notOpen = p.notOpen := rfl
@[simp] theorem slot_tickPassage (now : LoopTime) (dt : Nat) (p : Passage) : (tickPassage now dt p).slot = p.slot := rfl

@[simp] theorem asserted_tickLine (dt : Nat) (x : LineState) : (tickLine dt x).asserted = x.asserted := rfl
@[simp] theorem driven_tickLine (dt : Nat) (x : LineState) : (tickLine dt x).driven = x.driven := rfl
@[simp] theorem latched_tickLine (dt : Nat) (x : LineState) : (tickLine dt x).latched = x.latched := rfl
@[simp] theorem test_tickLine (dt : Nat) (x : LineState) : (tickLine dt x).test = x.test := rfl
@[simp] theorem faulty_tickLine (dt : Nat) (x : LineState) : (tickLine dt x).faulty = x.faulty := rfl

@[simp] theorem free_tickLif (dt : Nat) (l : Lif) : (tickLif dt l).free = l.free := rfl
@[simp] theorem axles_tickPassage (now : LoopTime) (dt : Nat) (p : Passage) : (tickPassage now dt p).axles = p.axles.map (ageAxle now dt) := rfl

/-! ### One rail, one line, one transducer, one direction -/

@[simp] theorem railGet_set {α : Type} (p : PerRail α) (r : Rail) (a : α) : (p.set r a).get r = a := by cases r <;> rfl
theorem railGet_set_ne {α : Type} (p : PerRail α) {r q : Rail} (h : q ≠ r) (a : α) : (p.set r a).get q = p.get q := by
  cases r <;> cases q <;> first | rfl | exact absurd rfl h
@[simp] theorem railGet_map {α β : Type} (p : PerRail α) (f : α → β) (r : Rail) : (p.map f).get r = f (p.get r) := by cases r <;> rfl
@[simp] theorem lineGet_set {α : Type} (p : PerLine α) (l : Line) (a : α) : (p.set l a).get l = a := by cases l <;> rfl
theorem lineGet_set_ne {α : Type} (p : PerLine α) {l k : Line} (h : k ≠ l) (a : α) : (p.set l a).get k = p.get k := by
  cases l <;> cases k <;> first | rfl | exact absurd rfl h
@[simp] theorem lineGet_map {α β : Type} (p : PerLine α) (f : α → β) (l : Line) : (p.map f).get l = f (p.get l) := by cases l <;> rfl
@[simp] theorem wtGet_set {α : Type} (p : PerWt α) (w : Transducer) (a : α) : (p.set w a).get w = a := by cases w <;> rfl
theorem wtGet_set_ne {α : Type} (p : PerWt α) {w v : Transducer} (h : v ≠ w) (a : α) : (p.set w a).get v = p.get v := by
  cases w <;> cases v <;> first | rfl | exact absurd rfl h
@[simp] theorem dirGet_set {α : Type} (p : PerDir α) (d : Direction) (a : α) : (p.set d a).get d = a := by cases d <;> rfl
theorem dirGet_set_ne {α : Type} (p : PerDir α) {d e : Direction} (h : e ≠ d) (a : α) : (p.set d a).get e = p.get e := by
  cases d <;> cases e <;> first | rfl | exact absurd rfl h

end Sys2Proof.Machine
end

