-- ==== Sys2Proof/Laws/Fields.lean ====
section
/-! SUPPORT. The fields that the shared operations leave alone, one lemma for each field and operation. -/

namespace Sys2Proof.Machine

set_option Elab.async false

variable (s : State)

/-! ### judgeLine -/

@[simp] theorem pending_judgeLine (l : Line) : (s.judgeLine l).pending = s.pending := rfl
@[simp] theorem powered_judgeLine (l : Line) : (s.judgeLine l).powered = s.powered := rfl
@[simp] theorem now_judgeLine (l : Line) : (s.judgeLine l).now = s.now := rfl
@[simp] theorem pins_judgeLine (l : Line) : (s.judgeLine l).pins = s.pins := rfl
@[simp] theorem store_judgeLine (l : Line) : (s.judgeLine l).store = s.store := rfl
@[simp] theorem conds_judgeLine (l : Line) : (s.judgeLine l).conds = s.conds := rfl
@[simp] theorem tables_judgeLine (l : Line) : (s.judgeLine l).tables = s.tables := rfl
@[simp] theorem invalid_judgeLine (l : Line) : (s.judgeLine l).invalid = s.invalid := rfl
@[simp] theorem commit_judgeLine (l : Line) : (s.judgeLine l).commit = s.commit := rfl
@[simp] theorem lif_judgeLine (l : Line) : (s.judgeLine l).lif = s.lif := rfl
@[simp] theorem sin_judgeLine (l : Line) : (s.judgeLine l).sin = s.sin := rfl
@[simp] theorem axt_judgeLine (l : Line) : (s.judgeLine l).axt = s.axt := rfl
@[simp] theorem passage_judgeLine (l : Line) : (s.judgeLine l).passage = s.passage := rfl
@[simp] theorem brg_judgeLine (l : Line) : (s.judgeLine l).brg = s.brg := rfl
@[simp] theorem rps_judgeLine (l : Line) : (s.judgeLine l).rps = s.rps := rfl
@[simp] theorem scu_judgeLine (l : Line) : (s.judgeLine l).scu = s.scu := rfl
@[simp] theorem alarms_judgeLine (l : Line) : (s.judgeLine l).aou.alarms = s.aou.alarms := rfl

/-! ### judgeLines -/

@[simp] theorem pending_judgeLines : (s.judgeLines).pending = s.pending := by simp [State.judgeLines, forEach, allLines]
@[simp] theorem powered_judgeLines : (s.judgeLines).powered = s.powered := by simp [State.judgeLines, forEach, allLines]
@[simp] theorem now_judgeLines : (s.judgeLines).now = s.now := by simp [State.judgeLines, forEach, allLines]
@[simp] theorem pins_judgeLines : (s.judgeLines).pins = s.pins := by simp [State.judgeLines, forEach, allLines]
@[simp] theorem store_judgeLines : (s.judgeLines).store = s.store := by simp [State.judgeLines, forEach, allLines]
@[simp] theorem conds_judgeLines : (s.judgeLines).conds = s.conds := by simp [State.judgeLines, forEach, allLines]
@[simp] theorem tables_judgeLines : (s.judgeLines).tables = s.tables := by simp [State.judgeLines, forEach, allLines]
@[simp] theorem invalid_judgeLines : (s.judgeLines).invalid = s.invalid := by simp [State.judgeLines, forEach, allLines]
@[simp] theorem commit_judgeLines : (s.judgeLines).commit = s.commit := by simp [State.judgeLines, forEach, allLines]
@[simp] theorem lif_judgeLines : (s.judgeLines).lif = s.lif := by simp [State.judgeLines, forEach, allLines]
@[simp] theorem sin_judgeLines : (s.judgeLines).sin = s.sin := by simp [State.judgeLines, forEach, allLines]
@[simp] theorem axt_judgeLines : (s.judgeLines).axt = s.axt := by simp [State.judgeLines, forEach, allLines]
@[simp] theorem passage_judgeLines : (s.judgeLines).passage = s.passage := by simp [State.judgeLines, forEach, allLines]
@[simp] theorem brg_judgeLines : (s.judgeLines).brg = s.brg := by simp [State.judgeLines, forEach, allLines]
@[simp] theorem rps_judgeLines : (s.judgeLines).rps = s.rps := by simp [State.judgeLines, forEach, allLines]
@[simp] theorem scu_judgeLines : (s.judgeLines).scu = s.scu := by simp [State.judgeLines, forEach, allLines]
@[simp] theorem alarms_judgeLines : (s.judgeLines).aou.alarms = s.aou.alarms := by simp [State.judgeLines, forEach, allLines]

/-! ### equipmentChanged -/

@[simp] theorem pending_equipmentChanged : (s.equipmentChanged).pending = s.pending := by simp [State.equipmentChanged]
@[simp] theorem powered_equipmentChanged : (s.equipmentChanged).powered = s.powered := by simp [State.equipmentChanged]
@[simp] theorem now_equipmentChanged : (s.equipmentChanged).now = s.now := by simp [State.equipmentChanged]
@[simp] theorem pins_equipmentChanged : (s.equipmentChanged).pins = s.pins := by simp [State.equipmentChanged]
@[simp] theorem store_equipmentChanged : (s.equipmentChanged).store = s.store := by simp [State.equipmentChanged]
@[simp] theorem conds_equipmentChanged : (s.equipmentChanged).conds = s.conds := by simp [State.equipmentChanged]
@[simp] theorem tables_equipmentChanged : (s.equipmentChanged).tables = s.tables := by simp [State.equipmentChanged]
@[simp] theorem invalid_equipmentChanged : (s.equipmentChanged).invalid = s.invalid := by simp [State.equipmentChanged]
@[simp] theorem commit_equipmentChanged : (s.equipmentChanged).commit = s.commit := by simp [State.equipmentChanged]
@[simp] theorem lif_equipmentChanged : (s.equipmentChanged).lif = s.lif := by simp [State.equipmentChanged]
@[simp] theorem sin_equipmentChanged : (s.equipmentChanged).sin = s.sin := by simp [State.equipmentChanged]
@[simp] theorem axt_equipmentChanged : (s.equipmentChanged).axt = s.axt := by simp [State.equipmentChanged]
@[simp] theorem passage_equipmentChanged : (s.equipmentChanged).passage = s.passage := by simp [State.equipmentChanged]
@[simp] theorem brg_equipmentChanged : (s.equipmentChanged).brg = s.brg := by simp [State.equipmentChanged]
@[simp] theorem scu_equipmentChanged : (s.equipmentChanged).scu = s.scu := by simp [State.equipmentChanged]
@[simp] theorem alarms_equipmentChanged : (s.equipmentChanged).aou.alarms = s.aou.alarms := by simp [State.equipmentChanged]
@[simp] theorem rps_equipmentChanged : (s.equipmentChanged).rps = s.rps.raise .equipmentChanged := by simp [State.equipmentChanged]

/-! ### raiseIf -/

@[simp] theorem pending_raiseIf (b : Bool) (k : EventKind) : (s.raiseIf b k).pending = s.pending := by unfold State.raiseIf; split <;> rfl
@[simp] theorem powered_raiseIf (b : Bool) (k : EventKind) : (s.raiseIf b k).powered = s.powered := by unfold State.raiseIf; split <;> rfl
@[simp] theorem now_raiseIf (b : Bool) (k : EventKind) : (s.raiseIf b k).now = s.now := by unfold State.raiseIf; split <;> rfl
@[simp] theorem pins_raiseIf (b : Bool) (k : EventKind) : (s.raiseIf b k).pins = s.pins := by unfold State.raiseIf; split <;> rfl
@[simp] theorem store_raiseIf (b : Bool) (k : EventKind) : (s.raiseIf b k).store = s.store := by unfold State.raiseIf; split <;> rfl
@[simp] theorem conds_raiseIf (b : Bool) (k : EventKind) : (s.raiseIf b k).conds = s.conds := by unfold State.raiseIf; split <;> rfl
@[simp] theorem tables_raiseIf (b : Bool) (k : EventKind) : (s.raiseIf b k).tables = s.tables := by unfold State.raiseIf; split <;> rfl
@[simp] theorem invalid_raiseIf (b : Bool) (k : EventKind) : (s.raiseIf b k).invalid = s.invalid := by unfold State.raiseIf; split <;> rfl
@[simp] theorem commit_raiseIf (b : Bool) (k : EventKind) : (s.raiseIf b k).commit = s.commit := by unfold State.raiseIf; split <;> rfl
@[simp] theorem lif_raiseIf (b : Bool) (k : EventKind) : (s.raiseIf b k).lif = s.lif := by unfold State.raiseIf; split <;> rfl
@[simp] theorem sin_raiseIf (b : Bool) (k : EventKind) : (s.raiseIf b k).sin = s.sin := by unfold State.raiseIf; split <;> rfl
@[simp] theorem axt_raiseIf (b : Bool) (k : EventKind) : (s.raiseIf b k).axt = s.axt := by unfold State.raiseIf; split <;> rfl
@[simp] theorem passage_raiseIf (b : Bool) (k : EventKind) : (s.raiseIf b k).passage = s.passage := by unfold State.raiseIf; split <;> rfl
@[simp] theorem brg_raiseIf (b : Bool) (k : EventKind) : (s.raiseIf b k).brg = s.brg := by unfold State.raiseIf; split <;> rfl
@[simp] theorem aou_raiseIf (b : Bool) (k : EventKind) : (s.raiseIf b k).aou = s.aou := by unfold State.raiseIf; split <;> rfl
@[simp] theorem scu_raiseIf (b : Bool) (k : EventKind) : (s.raiseIf b k).scu = s.scu := by unfold State.raiseIf; split <;> rfl

/-! ### equipmentSince -/

@[simp] theorem pending_equipmentSince (b : State) : (State.equipmentSince b s).pending = s.pending := by unfold State.equipmentSince; split <;> simp
@[simp] theorem powered_equipmentSince (b : State) : (State.equipmentSince b s).powered = s.powered := by unfold State.equipmentSince; split <;> simp
@[simp] theorem now_equipmentSince (b : State) : (State.equipmentSince b s).now = s.now := by unfold State.equipmentSince; split <;> simp
@[simp] theorem pins_equipmentSince (b : State) : (State.equipmentSince b s).pins = s.pins := by unfold State.equipmentSince; split <;> simp
@[simp] theorem store_equipmentSince (b : State) : (State.equipmentSince b s).store = s.store := by unfold State.equipmentSince; split <;> simp
@[simp] theorem conds_equipmentSince (b : State) : (State.equipmentSince b s).conds = s.conds := by unfold State.equipmentSince; split <;> simp
@[simp] theorem tables_equipmentSince (b : State) : (State.equipmentSince b s).tables = s.tables := by unfold State.equipmentSince; split <;> simp
@[simp] theorem invalid_equipmentSince (b : State) : (State.equipmentSince b s).invalid = s.invalid := by unfold State.equipmentSince; split <;> simp
@[simp] theorem commit_equipmentSince (b : State) : (State.equipmentSince b s).commit = s.commit := by unfold State.equipmentSince; split <;> simp
@[simp] theorem lif_equipmentSince (b : State) : (State.equipmentSince b s).lif = s.lif := by unfold State.equipmentSince; split <;> simp
@[simp] theorem sin_equipmentSince (b : State) : (State.equipmentSince b s).sin = s.sin := by unfold State.equipmentSince; split <;> simp
@[simp] theorem axt_equipmentSince (b : State) : (State.equipmentSince b s).axt = s.axt := by unfold State.equipmentSince; split <;> simp
@[simp] theorem passage_equipmentSince (b : State) : (State.equipmentSince b s).passage = s.passage := by unfold State.equipmentSince; split <;> simp
@[simp] theorem brg_equipmentSince (b : State) : (State.equipmentSince b s).brg = s.brg := by unfold State.equipmentSince; split <;> simp
@[simp] theorem scu_equipmentSince (b : State) : (State.equipmentSince b s).scu = s.scu := by unfold State.equipmentSince; split <;> simp
@[simp] theorem alarms_equipmentSince (b : State) : (State.equipmentSince b s).aou.alarms = s.aou.alarms := by unfold State.equipmentSince; split <;> simp

/-! ### clearOutputs -/

@[simp] theorem pending_clearOutputs : (s.clearOutputs).pending = s.pending := by simp [State.clearOutputs]
@[simp] theorem powered_clearOutputs : (s.clearOutputs).powered = s.powered := by simp [State.clearOutputs]
@[simp] theorem now_clearOutputs : (s.clearOutputs).now = s.now := by simp [State.clearOutputs]
@[simp] theorem pins_clearOutputs : (s.clearOutputs).pins = s.pins := by simp [State.clearOutputs]
@[simp] theorem store_clearOutputs : (s.clearOutputs).store = s.store := by simp [State.clearOutputs]
@[simp] theorem conds_clearOutputs : (s.clearOutputs).conds = s.conds := by simp [State.clearOutputs]
@[simp] theorem tables_clearOutputs : (s.clearOutputs).tables = s.tables := by simp [State.clearOutputs]
@[simp] theorem invalid_clearOutputs : (s.clearOutputs).invalid = s.invalid := by simp [State.clearOutputs]
@[simp] theorem commit_clearOutputs : (s.clearOutputs).commit = s.commit := by simp [State.clearOutputs]
@[simp] theorem lif_clearOutputs : (s.clearOutputs).lif = s.lif := by simp [State.clearOutputs]
@[simp] theorem sin_clearOutputs : (s.clearOutputs).sin = s.sin := by simp [State.clearOutputs]
@[simp] theorem axt_clearOutputs : (s.clearOutputs).axt = s.axt := by simp [State.clearOutputs]
@[simp] theorem passage_clearOutputs : (s.clearOutputs).passage = s.passage := by simp [State.clearOutputs]
@[simp] theorem brg_clearOutputs : (s.clearOutputs).brg = s.brg := by simp [State.clearOutputs]
@[simp] theorem rps_clearOutputs : (s.clearOutputs).rps = s.rps := by simp [State.clearOutputs]
@[simp] theorem scu_clearOutputs : (s.clearOutputs).scu = s.scu := by simp [State.clearOutputs]
@[simp] theorem alarms_clearOutputs : (s.clearOutputs).aou.alarms = s.aou.alarms := by simp [State.clearOutputs]

/-! ### withBrg -/

@[simp] theorem pending_withBrg (f : Brg → Brg) : (s.withBrg f).pending = s.pending := by unfold State.withBrg; dsimp only; split <;> simp
@[simp] theorem powered_withBrg (f : Brg → Brg) : (s.withBrg f).powered = s.powered := by unfold State.withBrg; dsimp only; split <;> simp
@[simp] theorem now_withBrg (f : Brg → Brg) : (s.withBrg f).now = s.now := by unfold State.withBrg; dsimp only; split <;> simp
@[simp] theorem pins_withBrg (f : Brg → Brg) : (s.withBrg f).pins = s.pins := by unfold State.withBrg; dsimp only; split <;> simp
@[simp] theorem store_withBrg (f : Brg → Brg) : (s.withBrg f).store = s.store := by unfold State.withBrg; dsimp only; split <;> simp
@[simp] theorem conds_withBrg (f : Brg → Brg) : (s.withBrg f).conds = s.conds := by unfold State.withBrg; dsimp only; split <;> simp
@[simp] theorem tables_withBrg (f : Brg → Brg) : (s.withBrg f).tables = s.tables := by unfold State.withBrg; dsimp only; split <;> simp
@[simp] theorem invalid_withBrg (f : Brg → Brg) : (s.withBrg f).invalid = s.invalid := by unfold State.withBrg; dsimp only; split <;> simp
@[simp] theorem commit_withBrg (f : Brg → Brg) : (s.withBrg f).commit = s.commit := by unfold State.withBrg; dsimp only; split <;> simp
@[simp] theorem lif_withBrg (f : Brg → Brg) : (s.withBrg f).lif = s.lif := by unfold State.withBrg; dsimp only; split <;> simp
@[simp] theorem sin_withBrg (f : Brg → Brg) : (s.withBrg f).sin = s.sin := by unfold State.withBrg; dsimp only; split <;> simp
@[simp] theorem axt_withBrg (f : Brg → Brg) : (s.withBrg f).axt = s.axt := by unfold State.withBrg; dsimp only; split <;> simp
@[simp] theorem passage_withBrg (f : Brg → Brg) : (s.withBrg f).passage = s.passage := by unfold State.withBrg; dsimp only; split <;> simp
@[simp] theorem scu_withBrg (f : Brg → Brg) : (s.withBrg f).scu = s.scu := by unfold State.withBrg; dsimp only; split <;> simp
@[simp] theorem alarms_withBrg (f : Brg → Brg) : (s.withBrg f).aou.alarms = s.aou.alarms := by unfold State.withBrg; dsimp only; split <;> simp

@[simp] theorem brg_withBrg (f : Brg → Brg) : (s.withBrg f).brg = f s.brg := by unfold State.withBrg; dsimp only; split <;> simp

/-! ### openShutters -/

@[simp] theorem pending_openShutters : (s.openShutters).pending = s.pending := by unfold State.openShutters; split <;> simp
@[simp] theorem powered_openShutters : (s.openShutters).powered = s.powered := by unfold State.openShutters; split <;> simp
@[simp] theorem now_openShutters : (s.openShutters).now = s.now := by unfold State.openShutters; split <;> simp
@[simp] theorem pins_openShutters : (s.openShutters).pins = s.pins := by unfold State.openShutters; split <;> simp
@[simp] theorem store_openShutters : (s.openShutters).store = s.store := by unfold State.openShutters; split <;> simp
@[simp] theorem conds_openShutters : (s.openShutters).conds = s.conds := by unfold State.openShutters; split <;> simp
@[simp] theorem tables_openShutters : (s.openShutters).tables = s.tables := by unfold State.openShutters; split <;> simp
@[simp] theorem invalid_openShutters : (s.openShutters).invalid = s.invalid := by unfold State.openShutters; split <;> simp
@[simp] theorem commit_openShutters : (s.openShutters).commit = s.commit := by unfold State.openShutters; split <;> simp
@[simp] theorem lif_openShutters : (s.openShutters).lif = s.lif := by unfold State.openShutters; split <;> simp
@[simp] theorem sin_openShutters : (s.openShutters).sin = s.sin := by unfold State.openShutters; split <;> simp
@[simp] theorem axt_openShutters : (s.openShutters).axt = s.axt := by unfold State.openShutters; split <;> simp
@[simp] theorem passage_openShutters : (s.openShutters).passage = s.passage := by unfold State.openShutters; split <;> simp
@[simp] theorem scu_openShutters : (s.openShutters).scu = s.scu := by unfold State.openShutters; split <;> simp
@[simp] theorem alarms_openShutters : (s.openShutters).aou.alarms = s.aou.alarms := by unfold State.openShutters; split <;> simp

/-! ### closeShutters -/

@[simp] theorem pending_closeShutters : (s.closeShutters).pending = s.pending := by unfold State.closeShutters; split <;> simp
@[simp] theorem powered_closeShutters : (s.closeShutters).powered = s.powered := by unfold State.closeShutters; split <;> simp
@[simp] theorem now_closeShutters : (s.closeShutters).now = s.now := by unfold State.closeShutters; split <;> simp
@[simp] theorem pins_closeShutters : (s.closeShutters).pins = s.pins := by unfold State.closeShutters; split <;> simp
@[simp] theorem store_closeShutters : (s.closeShutters).store = s.store := by unfold State.closeShutters; split <;> simp
@[simp] theorem conds_closeShutters : (s.closeShutters).conds = s.conds := by unfold State.closeShutters; split <;> simp
@[simp] theorem tables_closeShutters : (s.closeShutters).tables = s.tables := by unfold State.closeShutters; split <;> simp
@[simp] theorem invalid_closeShutters : (s.closeShutters).invalid = s.invalid := by unfold State.closeShutters; split <;> simp
@[simp] theorem commit_closeShutters : (s.closeShutters).commit = s.commit := by unfold State.closeShutters; split <;> simp
@[simp] theorem lif_closeShutters : (s.closeShutters).lif = s.lif := by unfold State.closeShutters; split <;> simp
@[simp] theorem sin_closeShutters : (s.closeShutters).sin = s.sin := by unfold State.closeShutters; split <;> simp
@[simp] theorem axt_closeShutters : (s.closeShutters).axt = s.axt := by unfold State.closeShutters; split <;> simp
@[simp] theorem passage_closeShutters : (s.closeShutters).passage = s.passage := by unfold State.closeShutters; split <;> simp
@[simp] theorem scu_closeShutters : (s.closeShutters).scu = s.scu := by unfold State.closeShutters; split <;> simp
@[simp] theorem alarms_closeShutters : (s.closeShutters).aou.alarms = s.aou.alarms := by unfold State.closeShutters; split <;> simp

/-! ### closeWaitClosing -/

@[simp] theorem pending_closeWaitClosing : (s.closeWaitClosing).pending = s.pending := rfl
@[simp] theorem powered_closeWaitClosing : (s.closeWaitClosing).powered = s.powered := rfl
@[simp] theorem now_closeWaitClosing : (s.closeWaitClosing).now = s.now := rfl
@[simp] theorem pins_closeWaitClosing : (s.closeWaitClosing).pins = s.pins := rfl
@[simp] theorem store_closeWaitClosing : (s.closeWaitClosing).store = s.store := rfl
@[simp] theorem conds_closeWaitClosing : (s.closeWaitClosing).conds = s.conds := rfl
@[simp] theorem tables_closeWaitClosing : (s.closeWaitClosing).tables = s.tables := rfl
@[simp] theorem invalid_closeWaitClosing : (s.closeWaitClosing).invalid = s.invalid := rfl
@[simp] theorem commit_closeWaitClosing : (s.closeWaitClosing).commit = s.commit := rfl
@[simp] theorem lif_closeWaitClosing : (s.closeWaitClosing).lif = s.lif := rfl
@[simp] theorem sin_closeWaitClosing : (s.closeWaitClosing).sin = s.sin := rfl
@[simp] theorem axt_closeWaitClosing : (s.closeWaitClosing).axt = s.axt := rfl
@[simp] theorem passage_closeWaitClosing : (s.closeWaitClosing).passage = s.passage := rfl
@[simp] theorem aou_closeWaitClosing : (s.closeWaitClosing).aou = s.aou := rfl
@[simp] theorem rps_closeWaitClosing : (s.closeWaitClosing).rps = s.rps := rfl
@[simp] theorem scu_closeWaitClosing : (s.closeWaitClosing).scu = s.scu := rfl

/-! ### closeWaitApproach -/

@[simp] theorem pending_closeWaitApproach : (s.closeWaitApproach).pending = s.pending := by unfold State.closeWaitApproach; split <;> rfl
@[simp] theorem powered_closeWaitApproach : (s.closeWaitApproach).powered = s.powered := by unfold State.closeWaitApproach; split <;> rfl
@[simp] theorem now_closeWaitApproach : (s.closeWaitApproach).now = s.now := by unfold State.closeWaitApproach; split <;> rfl
@[simp] theorem pins_closeWaitApproach : (s.closeWaitApproach).pins = s.pins := by unfold State.closeWaitApproach; split <;> rfl
@[simp] theorem store_closeWaitApproach : (s.closeWaitApproach).store = s.store := by unfold State.closeWaitApproach; split <;> rfl
@[simp] theorem conds_closeWaitApproach : (s.closeWaitApproach).conds = s.conds := by unfold State.closeWaitApproach; split <;> rfl
@[simp] theorem tables_closeWaitApproach : (s.closeWaitApproach).tables = s.tables := by unfold State.closeWaitApproach; split <;> rfl
@[simp] theorem invalid_closeWaitApproach : (s.closeWaitApproach).invalid = s.invalid := by unfold State.closeWaitApproach; split <;> rfl
@[simp] theorem commit_closeWaitApproach : (s.closeWaitApproach).commit = s.commit := by unfold State.closeWaitApproach; split <;> rfl
@[simp] theorem lif_closeWaitApproach : (s.closeWaitApproach).lif = s.lif := by unfold State.closeWaitApproach; split <;> rfl
@[simp] theorem sin_closeWaitApproach : (s.closeWaitApproach).sin = s.sin := by unfold State.closeWaitApproach; split <;> rfl
@[simp] theorem axt_closeWaitApproach : (s.closeWaitApproach).axt = s.axt := by unfold State.closeWaitApproach; split <;> rfl
@[simp] theorem passage_closeWaitApproach : (s.closeWaitApproach).passage = s.passage := by unfold State.closeWaitApproach; split <;> rfl
@[simp] theorem aou_closeWaitApproach : (s.closeWaitApproach).aou = s.aou := by unfold State.closeWaitApproach; split <;> rfl
@[simp] theorem rps_closeWaitApproach : (s.closeWaitApproach).rps = s.rps := by unfold State.closeWaitApproach; split <;> rfl
@[simp] theorem scu_closeWaitApproach : (s.closeWaitApproach).scu = s.scu := by unfold State.closeWaitApproach; split <;> rfl

/-! ### shuttersAtArmed -/

@[simp] theorem pending_shuttersAtArmed : (s.shuttersAtArmed).pending = s.pending := by unfold State.shuttersAtArmed; split <;> (try split) <;> simp
@[simp] theorem powered_shuttersAtArmed : (s.shuttersAtArmed).powered = s.powered := by unfold State.shuttersAtArmed; split <;> (try split) <;> simp
@[simp] theorem now_shuttersAtArmed : (s.shuttersAtArmed).now = s.now := by unfold State.shuttersAtArmed; split <;> (try split) <;> simp
@[simp] theorem pins_shuttersAtArmed : (s.shuttersAtArmed).pins = s.pins := by unfold State.shuttersAtArmed; split <;> (try split) <;> simp
@[simp] theorem store_shuttersAtArmed : (s.shuttersAtArmed).store = s.store := by unfold State.shuttersAtArmed; split <;> (try split) <;> simp
@[simp] theorem conds_shuttersAtArmed : (s.shuttersAtArmed).conds = s.conds := by unfold State.shuttersAtArmed; split <;> (try split) <;> simp
@[simp] theorem tables_shuttersAtArmed : (s.shuttersAtArmed).tables = s.tables := by unfold State.shuttersAtArmed; split <;> (try split) <;> simp
@[simp] theorem invalid_shuttersAtArmed : (s.shuttersAtArmed).invalid = s.invalid := by unfold State.shuttersAtArmed; split <;> (try split) <;> simp
@[simp] theorem commit_shuttersAtArmed : (s.shuttersAtArmed).commit = s.commit := by unfold State.shuttersAtArmed; split <;> (try split) <;> simp
@[simp] theorem lif_shuttersAtArmed : (s.shuttersAtArmed).lif = s.lif := by unfold State.shuttersAtArmed; split <;> (try split) <;> simp
@[simp] theorem sin_shuttersAtArmed : (s.shuttersAtArmed).sin = s.sin := by unfold State.shuttersAtArmed; split <;> (try split) <;> simp
@[simp] theorem axt_shuttersAtArmed : (s.shuttersAtArmed).axt = s.axt := by unfold State.shuttersAtArmed; split <;> (try split) <;> simp
@[simp] theorem passage_shuttersAtArmed : (s.shuttersAtArmed).passage = s.passage := by unfold State.shuttersAtArmed; split <;> (try split) <;> simp
@[simp] theorem scu_shuttersAtArmed : (s.shuttersAtArmed).scu = s.scu := by unfold State.shuttersAtArmed; split <;> (try split) <;> simp
@[simp] theorem alarms_shuttersAtArmed : (s.shuttersAtArmed).aou.alarms = s.aou.alarms := by unfold State.shuttersAtArmed; split <;> (try split) <;> simp

/-! ### changeSite -/

@[simp] theorem pending_changeSite (y : SiteState) : (s.changeSite y).pending = s.pending := rfl
@[simp] theorem powered_changeSite (y : SiteState) : (s.changeSite y).powered = s.powered := rfl
@[simp] theorem now_changeSite (y : SiteState) : (s.changeSite y).now = s.now := rfl
@[simp] theorem pins_changeSite (y : SiteState) : (s.changeSite y).pins = s.pins := rfl
@[simp] theorem store_changeSite (y : SiteState) : (s.changeSite y).store = s.store := rfl
@[simp] theorem conds_changeSite (y : SiteState) : (s.changeSite y).conds = s.conds := rfl
@[simp] theorem tables_changeSite (y : SiteState) : (s.changeSite y).tables = s.tables := rfl
@[simp] theorem invalid_changeSite (y : SiteState) : (s.changeSite y).invalid = s.invalid := rfl
@[simp] theorem commit_changeSite (y : SiteState) : (s.changeSite y).commit = s.commit := rfl
@[simp] theorem lif_changeSite (y : SiteState) : (s.changeSite y).lif = s.lif := rfl
@[simp] theorem sin_changeSite (y : SiteState) : (s.changeSite y).sin = s.sin := rfl
@[simp] theorem axt_changeSite (y : SiteState) : (s.changeSite y).axt = s.axt := rfl
@[simp] theorem passage_changeSite (y : SiteState) : (s.changeSite y).passage = s.passage := rfl
@[simp] theorem brg_changeSite (y : SiteState) : (s.changeSite y).brg = s.brg := rfl
@[simp] theorem aou_changeSite (y : SiteState) : (s.changeSite y).aou = s.aou := rfl
@[simp] theorem rps_changeSite (y : SiteState) : (s.changeSite y).rps = s.rps.raise .stateChanged := rfl

@[simp] theorem site_changeSite (y : SiteState) : (s.changeSite y).scu.site = y := rfl
@[simp] theorem check_changeSite (y : SiteState) : (s.changeSite y).scu.check = s.scu.check := rfl
@[simp] theorem checkTime_changeSite (y : SiteState) : (s.changeSite y).scu.checkTime = s.scu.checkTime := rfl
@[simp] theorem settle_changeSite (y : SiteState) : (s.changeSite y).scu.settle = s.scu.settle := rfl
@[simp] theorem powerTimer_changeSite (y : SiteState) : (s.changeSite y).scu.powerTimer = s.scu.powerTimer := rfl
@[simp] theorem powerMark_changeSite (y : SiteState) : (s.changeSite y).scu.powerMark = s.scu.powerMark := rfl
@[simp] theorem sampleStart_changeSite (y : SiteState) : (s.changeSite y).scu.sampleStart = s.scu.sampleStart := rfl
@[simp] theorem phaseTimer_changeSite (y : SiteState) : (s.changeSite y).scu.phaseTimer = s.scu.phaseTimer := rfl
@[simp] theorem endTimer_changeSite (y : SiteState) : (s.changeSite y).scu.endTimer = s.scu.endTimer := rfl
@[simp] theorem interval_changeSite (y : SiteState) : (s.changeSite y).scu.interval = s.scu.interval := rfl
@[simp] theorem due_changeSite (y : SiteState) : (s.changeSite y).scu.due = s.scu.due := rfl
@[simp] theorem validation_changeSite (y : SiteState) : (s.changeSite y).scu.validation = s.scu.validation := rfl
@[simp] theorem autoArm_changeSite (y : SiteState) : (s.changeSite y).scu.autoArm = s.scu.autoArm := rfl
@[simp] theorem storeJob_changeSite (y : SiteState) : (s.changeSite y).scu.store = s.scu.store := rfl

/-! ### discardPending -/

@[simp] theorem pending_discardPending : (s.discardPending).pending = s.pending := rfl
@[simp] theorem powered_discardPending : (s.discardPending).powered = s.powered := rfl
@[simp] theorem now_discardPending : (s.discardPending).now = s.now := rfl
@[simp] theorem pins_discardPending : (s.discardPending).pins = s.pins := rfl
@[simp] theorem store_discardPending : (s.discardPending).store = s.store := rfl
@[simp] theorem conds_discardPending : (s.discardPending).conds = s.conds := rfl
@[simp] theorem tables_discardPending : (s.discardPending).tables = s.tables := rfl
@[simp] theorem invalid_discardPending : (s.discardPending).invalid = s.invalid := rfl
@[simp] theorem commit_discardPending : (s.discardPending).commit = s.commit := rfl
@[simp] theorem lif_discardPending : (s.discardPending).lif = s.lif := rfl
@[simp] theorem axt_discardPending : (s.discardPending).axt = s.axt := rfl
@[simp] theorem passage_discardPending : (s.discardPending).passage = s.passage := rfl
@[simp] theorem brg_discardPending : (s.discardPending).brg = s.brg := rfl
@[simp] theorem aou_discardPending : (s.discardPending).aou = s.aou := rfl
@[simp] theorem rps_discardPending : (s.discardPending).rps = s.rps := rfl
@[simp] theorem scu_discardPending : (s.discardPending).scu = s.scu := rfl

/-! ### startSupervision -/

@[simp] theorem pending_startSupervision : (s.startSupervision).pending = s.pending := by unfold State.startSupervision; split <;> rfl
@[simp] theorem powered_startSupervision : (s.startSupervision).powered = s.powered := by unfold State.startSupervision; split <;> rfl
@[simp] theorem now_startSupervision : (s.startSupervision).now = s.now := by unfold State.startSupervision; split <;> rfl
@[simp] theorem pins_startSupervision : (s.startSupervision).pins = s.pins := by unfold State.startSupervision; split <;> rfl
@[simp] theorem store_startSupervision : (s.startSupervision).store = s.store := by unfold State.startSupervision; split <;> rfl
@[simp] theorem conds_startSupervision : (s.startSupervision).conds = s.conds := by unfold State.startSupervision; split <;> rfl
@[simp] theorem tables_startSupervision : (s.startSupervision).tables = s.tables := by unfold State.startSupervision; split <;> rfl
@[simp] theorem invalid_startSupervision : (s.startSupervision).invalid = s.invalid := by unfold State.startSupervision; split <;> rfl
@[simp] theorem commit_startSupervision : (s.startSupervision).commit = s.commit := by unfold State.startSupervision; split <;> rfl
@[simp] theorem sin_startSupervision : (s.startSupervision).sin = s.sin := by unfold State.startSupervision; split <;> rfl
@[simp] theorem axt_startSupervision : (s.startSupervision).axt = s.axt := by unfold State.startSupervision; split <;> rfl
@[simp] theorem passage_startSupervision : (s.startSupervision).passage = s.passage := by unfold State.startSupervision; split <;> rfl
@[simp] theorem brg_startSupervision : (s.startSupervision).brg = s.brg := by unfold State.startSupervision; split <;> rfl
@[simp] theorem aou_startSupervision : (s.startSupervision).aou = s.aou := by unfold State.startSupervision; split <;> rfl
@[simp] theorem rps_startSupervision : (s.startSupervision).rps = s.rps := by unfold State.startSupervision; split <;> rfl
@[simp] theorem scu_startSupervision : (s.startSupervision).scu = s.scu := by unfold State.startSupervision; split <;> rfl

/-! ### leaveOffline -/

@[simp] theorem pending_leaveOffline : (s.leaveOffline).pending = s.pending := by unfold State.leaveOffline; simp
@[simp] theorem powered_leaveOffline : (s.leaveOffline).powered = s.powered := by unfold State.leaveOffline; simp
@[simp] theorem now_leaveOffline : (s.leaveOffline).now = s.now := by unfold State.leaveOffline; simp
@[simp] theorem pins_leaveOffline : (s.leaveOffline).pins = s.pins := by unfold State.leaveOffline; simp
@[simp] theorem store_leaveOffline : (s.leaveOffline).store = s.store := by unfold State.leaveOffline; simp
@[simp] theorem conds_leaveOffline : (s.leaveOffline).conds = s.conds := by unfold State.leaveOffline; simp
@[simp] theorem tables_leaveOffline : (s.leaveOffline).tables = s.tables := by unfold State.leaveOffline; simp
@[simp] theorem invalid_leaveOffline : (s.leaveOffline).invalid = s.invalid := by unfold State.leaveOffline; simp
@[simp] theorem commit_leaveOffline : (s.leaveOffline).commit = s.commit := by unfold State.leaveOffline; simp
@[simp] theorem axt_leaveOffline : (s.leaveOffline).axt = s.axt := by unfold State.leaveOffline; simp
@[simp] theorem passage_leaveOffline : (s.leaveOffline).passage = s.passage := by unfold State.leaveOffline; simp
@[simp] theorem brg_leaveOffline : (s.leaveOffline).brg = s.brg := by unfold State.leaveOffline; simp
@[simp] theorem rps_leaveOffline : (s.leaveOffline).rps = s.rps := by unfold State.leaveOffline; simp
@[simp] theorem scu_leaveOffline : (s.leaveOffline).scu = s.scu := by unfold State.leaveOffline; simp
@[simp] theorem alarms_leaveOffline : (s.leaveOffline).aou.alarms = s.aou.alarms := by unfold State.leaveOffline; simp

/-! ### commitTables -/

@[simp] theorem pending_commitTables : (s.commitTables).pending = s.pending := rfl
@[simp] theorem powered_commitTables : (s.commitTables).powered = s.powered := rfl
@[simp] theorem now_commitTables : (s.commitTables).now = s.now := rfl
@[simp] theorem pins_commitTables : (s.commitTables).pins = s.pins := rfl
@[simp] theorem store_commitTables : (s.commitTables).store = s.store := rfl
@[simp] theorem conds_commitTables : (s.commitTables).conds = s.conds := rfl
@[simp] theorem tables_commitTables : (s.commitTables).tables = s.tables := rfl
@[simp] theorem invalid_commitTables : (s.commitTables).invalid = s.invalid := rfl
@[simp] theorem lif_commitTables : (s.commitTables).lif = s.lif := rfl
@[simp] theorem sin_commitTables : (s.commitTables).sin = s.sin := rfl
@[simp] theorem axt_commitTables : (s.commitTables).axt = s.axt := rfl
@[simp] theorem passage_commitTables : (s.commitTables).passage = s.passage := rfl
@[simp] theorem brg_commitTables : (s.commitTables).brg = s.brg := rfl
@[simp] theorem aou_commitTables : (s.commitTables).aou = s.aou := rfl
@[simp] theorem rps_commitTables : (s.commitTables).rps = s.rps := rfl
@[simp] theorem scu_commitTables : (s.commitTables).scu = s.scu := rfl

/-! ### startInterval -/

@[simp] theorem pending_startInterval : (s.startInterval).pending = s.pending := rfl
@[simp] theorem powered_startInterval : (s.startInterval).powered = s.powered := rfl
@[simp] theorem now_startInterval : (s.startInterval).now = s.now := rfl
@[simp] theorem pins_startInterval : (s.startInterval).pins = s.pins := rfl
@[simp] theorem store_startInterval : (s.startInterval).store = s.store := rfl
@[simp] theorem conds_startInterval : (s.startInterval).conds = s.conds := rfl
@[simp] theorem tables_startInterval : (s.startInterval).tables = s.tables := rfl
@[simp] theorem invalid_startInterval : (s.startInterval).invalid = s.invalid := rfl
@[simp] theorem commit_startInterval : (s.startInterval).commit = s.commit := rfl
@[simp] theorem lif_startInterval : (s.startInterval).lif = s.lif := rfl
@[simp] theorem sin_startInterval : (s.startInterval).sin = s.sin := rfl
@[simp] theorem axt_startInterval : (s.startInterval).axt = s.axt := rfl
@[simp] theorem passage_startInterval : (s.startInterval).passage = s.passage := rfl
@[simp] theorem brg_startInterval : (s.startInterval).brg = s.brg := rfl
@[simp] theorem aou_startInterval : (s.startInterval).aou = s.aou := rfl
@[simp] theorem rps_startInterval : (s.startInterval).rps = s.rps := rfl

/-! ### abortCheck -/

@[simp] theorem pending_abortCheck (r : AbortReason) : (s.abortCheck r).pending = s.pending := rfl
@[simp] theorem powered_abortCheck (r : AbortReason) : (s.abortCheck r).powered = s.powered := rfl
@[simp] theorem now_abortCheck (r : AbortReason) : (s.abortCheck r).now = s.now := rfl
@[simp] theorem pins_abortCheck (r : AbortReason) : (s.abortCheck r).pins = s.pins := rfl
@[simp] theorem store_abortCheck (r : AbortReason) : (s.abortCheck r).store = s.store := rfl
@[simp] theorem conds_abortCheck (r : AbortReason) : (s.abortCheck r).conds = s.conds := rfl
@[simp] theorem tables_abortCheck (r : AbortReason) : (s.abortCheck r).tables = s.tables := rfl
@[simp] theorem invalid_abortCheck (r : AbortReason) : (s.abortCheck r).invalid = s.invalid := rfl
@[simp] theorem commit_abortCheck (r : AbortReason) : (s.abortCheck r).commit = s.commit := rfl
@[simp] theorem lif_abortCheck (r : AbortReason) : (s.abortCheck r).lif = s.lif := rfl
@[simp] theorem axt_abortCheck (r : AbortReason) : (s.abortCheck r).axt = s.axt := rfl
@[simp] theorem passage_abortCheck (r : AbortReason) : (s.abortCheck r).passage = s.passage := rfl
@[simp] theorem brg_abortCheck (r : AbortReason) : (s.abortCheck r).brg = s.brg := rfl
@[simp] theorem aou_abortCheck (r : AbortReason) : (s.abortCheck r).aou = s.aou := rfl
@[simp] theorem rps_abortCheck (r : AbortReason) : (s.abortCheck r).rps = s.rps.raise .checkEnded := rfl
@[simp] theorem site_abortCheck (r : AbortReason) : (s.abortCheck r).scu.site = s.scu.site := rfl

@[simp] theorem check_abortCheck (r : AbortReason) : (s.abortCheck r).scu.check = .aborted r := rfl

/-! ### enterArmed -/

@[simp] theorem pending_enterArmed : (s.enterArmed).pending = s.pending := by unfold State.enterArmed; simp
@[simp] theorem powered_enterArmed : (s.enterArmed).powered = s.powered := by unfold State.enterArmed; simp
@[simp] theorem now_enterArmed : (s.enterArmed).now = s.now := by unfold State.enterArmed; simp
@[simp] theorem pins_enterArmed : (s.enterArmed).pins = s.pins := by unfold State.enterArmed; simp
@[simp] theorem store_enterArmed : (s.enterArmed).store = s.store := by unfold State.enterArmed; simp
@[simp] theorem conds_enterArmed : (s.enterArmed).conds = s.conds := by unfold State.enterArmed; simp
@[simp] theorem tables_enterArmed : (s.enterArmed).tables = s.tables := by unfold State.enterArmed; simp
@[simp] theorem invalid_enterArmed : (s.enterArmed).invalid = s.invalid := by unfold State.enterArmed; simp
@[simp] theorem commit_enterArmed : (s.enterArmed).commit = s.commit := by unfold State.enterArmed; simp
@[simp] theorem lif_enterArmed : (s.enterArmed).lif = s.lif := by unfold State.enterArmed; simp
@[simp] theorem sin_enterArmed : (s.enterArmed).sin = s.sin := by unfold State.enterArmed; simp
@[simp] theorem axt_enterArmed : (s.enterArmed).axt = s.axt := by unfold State.enterArmed; simp
@[simp] theorem passage_enterArmed : (s.enterArmed).passage = s.passage := by unfold State.enterArmed; simp
@[simp] theorem alarms_enterArmed : (s.enterArmed).aou.alarms = s.aou.alarms := by unfold State.enterArmed; simp

@[simp] theorem site_enterArmed : s.enterArmed.scu.site = .armed := by unfold State.enterArmed; simp
@[simp] theorem check_enterArmed : s.enterArmed.scu.check = s.scu.check := by unfold State.enterArmed; simp

/-! ### enterChecking -/

@[simp] theorem pending_enterChecking (n : Nat) : (s.enterChecking n).pending = s.pending := by unfold State.enterChecking; simp
@[simp] theorem powered_enterChecking (n : Nat) : (s.enterChecking n).powered = s.powered := by unfold State.enterChecking; simp
@[simp] theorem now_enterChecking (n : Nat) : (s.enterChecking n).now = s.now := by unfold State.enterChecking; simp
@[simp] theorem pins_enterChecking (n : Nat) : (s.enterChecking n).pins = s.pins := by unfold State.enterChecking; simp
@[simp] theorem store_enterChecking (n : Nat) : (s.enterChecking n).store = s.store := by unfold State.enterChecking; simp
@[simp] theorem conds_enterChecking (n : Nat) : (s.enterChecking n).conds = s.conds := by unfold State.enterChecking; simp
@[simp] theorem tables_enterChecking (n : Nat) : (s.enterChecking n).tables = s.tables := by unfold State.enterChecking; simp
@[simp] theorem invalid_enterChecking (n : Nat) : (s.enterChecking n).invalid = s.invalid := by unfold State.enterChecking; simp
@[simp] theorem commit_enterChecking (n : Nat) : (s.enterChecking n).commit = s.commit := by unfold State.enterChecking; simp
@[simp] theorem lif_enterChecking (n : Nat) : (s.enterChecking n).lif = s.lif := by unfold State.enterChecking; simp
@[simp] theorem axt_enterChecking (n : Nat) : (s.enterChecking n).axt = s.axt := by unfold State.enterChecking; simp
@[simp] theorem passage_enterChecking (n : Nat) : (s.enterChecking n).passage = s.passage := by unfold State.enterChecking; simp
@[simp] theorem alarms_enterChecking (n : Nat) : (s.enterChecking n).aou.alarms = s.aou.alarms := by unfold State.enterChecking; simp

theorem scu_enterChecking (n : Nat) : (s.enterChecking n).scu = beginCheck n (s.changeSite .checking).scu := by unfold State.enterChecking; simp

/-! ### enterOffline -/

@[simp] theorem pending_enterOffline : (s.enterOffline).pending = s.pending := by unfold State.enterOffline; simp
@[simp] theorem powered_enterOffline : (s.enterOffline).powered = s.powered := by unfold State.enterOffline; simp
@[simp] theorem now_enterOffline : (s.enterOffline).now = s.now := by unfold State.enterOffline; simp
@[simp] theorem pins_enterOffline : (s.enterOffline).pins = s.pins := by unfold State.enterOffline; simp
@[simp] theorem store_enterOffline : (s.enterOffline).store = s.store := by unfold State.enterOffline; simp
@[simp] theorem conds_enterOffline : (s.enterOffline).conds = s.conds := by unfold State.enterOffline; simp
@[simp] theorem tables_enterOffline : (s.enterOffline).tables = s.tables := by unfold State.enterOffline; simp
@[simp] theorem invalid_enterOffline : (s.enterOffline).invalid = s.invalid := by unfold State.enterOffline; simp
@[simp] theorem commit_enterOffline : (s.enterOffline).commit = s.commit := by unfold State.enterOffline; simp
@[simp] theorem alarms_enterOffline : (s.enterOffline).aou.alarms = s.aou.alarms := by unfold State.enterOffline; simp

theorem scu_enterOffline : s.enterOffline.scu = stopChecks (s.changeSite .offline).scu := by unfold State.enterOffline; simp
theorem lif_enterOffline : s.enterOffline.lif = suspendLink s.lif := by unfold State.enterOffline; simp
theorem axt_enterOffline : s.enterOffline.axt = emptyQueue s.axt := by unfold State.enterOffline; simp
theorem sin_enterOffline : s.enterOffline.sin = suspendNodes (emptyLine s.discardPending.sin) := by unfold State.enterOffline; simp [State.discardPending]

/-! ### startHoldOff -/

@[simp] theorem pending_startHoldOff (k : OwnKind) : (s.startHoldOff k).pending = s.pending := by unfold State.startHoldOff; split <;> rfl
@[simp] theorem powered_startHoldOff (k : OwnKind) : (s.startHoldOff k).powered = s.powered := by unfold State.startHoldOff; split <;> rfl
@[simp] theorem now_startHoldOff (k : OwnKind) : (s.startHoldOff k).now = s.now := by unfold State.startHoldOff; split <;> rfl
@[simp] theorem pins_startHoldOff (k : OwnKind) : (s.startHoldOff k).pins = s.pins := by unfold State.startHoldOff; split <;> rfl
@[simp] theorem store_startHoldOff (k : OwnKind) : (s.startHoldOff k).store = s.store := by unfold State.startHoldOff; split <;> rfl
@[simp] theorem conds_startHoldOff (k : OwnKind) : (s.startHoldOff k).conds = s.conds := by unfold State.startHoldOff; split <;> rfl
@[simp] theorem tables_startHoldOff (k : OwnKind) : (s.startHoldOff k).tables = s.tables := by unfold State.startHoldOff; split <;> rfl
@[simp] theorem invalid_startHoldOff (k : OwnKind) : (s.startHoldOff k).invalid = s.invalid := by unfold State.startHoldOff; split <;> rfl
@[simp] theorem commit_startHoldOff (k : OwnKind) : (s.startHoldOff k).commit = s.commit := by unfold State.startHoldOff; split <;> rfl
@[simp] theorem lif_startHoldOff (k : OwnKind) : (s.startHoldOff k).lif = s.lif := by unfold State.startHoldOff; split <;> rfl
@[simp] theorem sin_startHoldOff (k : OwnKind) : (s.startHoldOff k).sin = s.sin := by unfold State.startHoldOff; split <;> rfl
@[simp] theorem axt_startHoldOff (k : OwnKind) : (s.startHoldOff k).axt = s.axt := by unfold State.startHoldOff; split <;> rfl
@[simp] theorem passage_startHoldOff (k : OwnKind) : (s.startHoldOff k).passage = s.passage := by unfold State.startHoldOff; split <;> rfl
@[simp] theorem brg_startHoldOff (k : OwnKind) : (s.startHoldOff k).brg = s.brg := by unfold State.startHoldOff; split <;> rfl
@[simp] theorem aou_startHoldOff (k : OwnKind) : (s.startHoldOff k).aou = s.aou := by unfold State.startHoldOff; split <;> rfl
@[simp] theorem scu_startHoldOff (k : OwnKind) : (s.startHoldOff k).scu = s.scu := by unfold State.startHoldOff; split <;> rfl
@[simp] theorem ring_startHoldOff (k : OwnKind) : (s.startHoldOff k).rps.ring = s.rps.ring := by unfold State.startHoldOff; split <;> rfl
@[simp] theorem slots_startHoldOff (k : OwnKind) : (s.startHoldOff k).rps.slots = s.rps.slots := by unfold State.startHoldOff; split <;> rfl
@[simp] theorem kinds_startHoldOff (k : OwnKind) : (s.startHoldOff k).rps.pending = s.rps.pending := by unfold State.startHoldOff; split <;> rfl
@[simp] theorem marks_startHoldOff (k : OwnKind) : (s.startHoldOff k).rps.marks = s.rps.marks := by unfold State.startHoldOff; split <;> rfl
@[simp] theorem mask_startHoldOff (k : OwnKind) : (s.startHoldOff k).rps.mask = s.rps.mask := by unfold State.startHoldOff; split <;> rfl
@[simp] theorem sendDue_startHoldOff (k : OwnKind) : (s.startHoldOff k).rps.sendDue = s.rps.sendDue := by unfold State.startHoldOff; split <;> rfl
@[simp] theorem sealCount_startHoldOff (k : OwnKind) : (s.startHoldOff k).rps.sealCount = s.rps.sealCount := by unfold State.startHoldOff; split <;> rfl
@[simp] theorem lastEvt_startHoldOff (k : OwnKind) : (s.startHoldOff k).rps.lastEvt = s.rps.lastEvt := by unfold State.startHoldOff; split <;> rfl
@[simp] theorem lastPassage_startHoldOff (k : OwnKind) : (s.startHoldOff k).rps.lastPassage = s.rps.lastPassage := by unfold State.startHoldOff; split <;> rfl

/-! ### What the transmitter takes -/

@[simp] theorem queue_sendOwn (f : OwnFrame) (r : List OwnFrame) (l : Lif) : (sendOwn f r l).queue = l.queue := by unfold sendOwn newAddress; dsimp only; split <;> rfl
@[simp] theorem queue_sendForward (f : List Byte) (r : List (List Byte)) (l : Lif) : (sendForward f r l).queue = l.queue := rfl
@[simp] theorem locked_sendOwn (f : OwnFrame) (r : List OwnFrame) (l : Lif) : (sendOwn f r l).locked = l.locked := by unfold sendOwn newAddress; dsimp only; split <;> rfl
@[simp] theorem locked_sendForward (f : List Byte) (r : List (List Byte)) (l : Lif) : (sendForward f r l).locked = l.locked := rfl
@[simp] theorem counters_sendOwn (f : OwnFrame) (r : List OwnFrame) (l : Lif) : (sendOwn f r l).counters = l.counters := by unfold sendOwn newAddress; dsimp only; split <;> rfl
@[simp] theorem counters_sendForward (f : List Byte) (r : List (List Byte)) (l : Lif) : (sendForward f r l).counters = l.counters := rfl
@[simp] theorem inProgress_sendOwn (f : OwnFrame) (r : List OwnFrame) (l : Lif) : (sendOwn f r l).inProgress = l.inProgress := by unfold sendOwn newAddress; dsimp only; split <;> rfl
@[simp] theorem inProgress_sendForward (f : List Byte) (r : List (List Byte)) (l : Lif) : (sendForward f r l).inProgress = l.inProgress := rfl
@[simp] theorem dwell_sendOwn (f : OwnFrame) (r : List OwnFrame) (l : Lif) : (sendOwn f r l).dwell = l.dwell := by unfold sendOwn newAddress; dsimp only; split <;> rfl
@[simp] theorem dwell_sendForward (f : List Byte) (r : List (List Byte)) (l : Lif) : (sendForward f r l).dwell = l.dwell := rfl
@[simp] theorem quiet_sendOwn (f : OwnFrame) (r : List OwnFrame) (l : Lif) : (sendOwn f r l).quiet = l.quiet := by unfold sendOwn newAddress; dsimp only; split <;> rfl
@[simp] theorem quiet_sendForward (f : List Byte) (r : List (List Byte)) (l : Lif) : (sendForward f r l).quiet = l.quiet := rfl
@[simp] theorem loopLost_sendOwn (f : OwnFrame) (r : List OwnFrame) (l : Lif) : (sendOwn f r l).loopLost = l.loopLost := by unfold sendOwn newAddress; dsimp only; split <;> rfl
@[simp] theorem loopLost_sendForward (f : List Byte) (r : List (List Byte)) (l : Lif) : (sendForward f r l).loopLost = l.loopLost := rfl
@[simp] theorem linkLost_sendOwn (f : OwnFrame) (r : List OwnFrame) (l : Lif) : (sendOwn f r l).linkLost = l.linkLost := by unfold sendOwn newAddress; dsimp only; split <;> rfl
@[simp] theorem linkLost_sendForward (f : List Byte) (r : List (List Byte)) (l : Lif) : (sendForward f r l).linkLost = l.linkLost := rfl
@[simp] theorem supTimer_sendOwn (f : OwnFrame) (r : List OwnFrame) (l : Lif) : (sendOwn f r l).supTimer = l.supTimer := by unfold sendOwn newAddress; dsimp only; split <;> rfl
@[simp] theorem supTimer_sendForward (f : List Byte) (r : List (List Byte)) (l : Lif) : (sendForward f r l).supTimer = l.supTimer := rfl
@[simp] theorem rate_sendOwn (f : OwnFrame) (r : List OwnFrame) (l : Lif) : (sendOwn f r l).rate = l.rate := by unfold sendOwn newAddress; dsimp only; split <;> rfl
@[simp] theorem rate_sendForward (f : List Byte) (r : List (List Byte)) (l : Lif) : (sendForward f r l).rate = l.rate := rfl
@[simp] theorem fixed_sendOwn (f : OwnFrame) (r : List OwnFrame) (l : Lif) : (sendOwn f r l).fixed = l.fixed := by unfold sendOwn newAddress; dsimp only; split <;> rfl
@[simp] theorem fixed_sendForward (f : List Byte) (r : List (List Byte)) (l : Lif) : (sendForward f r l).fixed = l.fixed := rfl
@[simp] theorem timTimer_sendOwn (f : OwnFrame) (r : List OwnFrame) (l : Lif) : (sendOwn f r l).timTimer = l.timTimer := by unfold sendOwn newAddress; dsimp only; split <;> rfl
@[simp] theorem timTimer_sendForward (f : List Byte) (r : List (List Byte)) (l : Lif) : (sendForward f r l).timTimer = l.timTimer := rfl

/-! ### transmit -/

@[simp] theorem pending_transmit : (s.transmit).pending = s.pending := by unfold State.transmit; split <;> (try split) <;> (try split) <;> simp [State.beginTim]
@[simp] theorem powered_transmit : (s.transmit).powered = s.powered := by unfold State.transmit; split <;> (try split) <;> (try split) <;> simp [State.beginTim]
@[simp] theorem now_transmit : (s.transmit).now = s.now := by unfold State.transmit; split <;> (try split) <;> (try split) <;> simp [State.beginTim]
@[simp] theorem pins_transmit : (s.transmit).pins = s.pins := by unfold State.transmit; split <;> (try split) <;> (try split) <;> simp [State.beginTim]
@[simp] theorem store_transmit : (s.transmit).store = s.store := by unfold State.transmit; split <;> (try split) <;> (try split) <;> simp [State.beginTim]
@[simp] theorem conds_transmit : (s.transmit).conds = s.conds := by unfold State.transmit; split <;> (try split) <;> (try split) <;> simp [State.beginTim]
@[simp] theorem tables_transmit : (s.transmit).tables = s.tables := by unfold State.transmit; split <;> (try split) <;> (try split) <;> simp [State.beginTim]
@[simp] theorem invalid_transmit : (s.transmit).invalid = s.invalid := by unfold State.transmit; split <;> (try split) <;> (try split) <;> simp [State.beginTim]
@[simp] theorem commit_transmit : (s.transmit).commit = s.commit := by unfold State.transmit; split <;> (try split) <;> (try split) <;> simp [State.beginTim]
@[simp] theorem sin_transmit : (s.transmit).sin = s.sin := by unfold State.transmit; split <;> (try split) <;> (try split) <;> simp [State.beginTim]
@[simp] theorem axt_transmit : (s.transmit).axt = s.axt := by unfold State.transmit; split <;> (try split) <;> (try split) <;> simp [State.beginTim]
@[simp] theorem passage_transmit : (s.transmit).passage = s.passage := by unfold State.transmit; split <;> (try split) <;> (try split) <;> simp [State.beginTim]
@[simp] theorem brg_transmit : (s.transmit).brg = s.brg := by unfold State.transmit; split <;> (try split) <;> (try split) <;> simp [State.beginTim]
@[simp] theorem aou_transmit : (s.transmit).aou = s.aou := by unfold State.transmit; split <;> (try split) <;> (try split) <;> simp [State.beginTim]
@[simp] theorem scu_transmit : (s.transmit).scu = s.scu := by unfold State.transmit; split <;> (try split) <;> (try split) <;> simp [State.beginTim]
@[simp] theorem ring_transmit : (s.transmit).rps.ring = s.rps.ring := by unfold State.transmit; split <;> (try split) <;> (try split) <;> simp [State.beginTim]
@[simp] theorem slots_transmit : (s.transmit).rps.slots = s.rps.slots := by unfold State.transmit; split <;> (try split) <;> (try split) <;> simp [State.beginTim]
@[simp] theorem kinds_transmit : (s.transmit).rps.pending = s.rps.pending := by unfold State.transmit; split <;> (try split) <;> (try split) <;> simp [State.beginTim]
@[simp] theorem marks_transmit : (s.transmit).rps.marks = s.rps.marks := by unfold State.transmit; split <;> (try split) <;> (try split) <;> simp [State.beginTim]
@[simp] theorem mask_transmit : (s.transmit).rps.mask = s.rps.mask := by unfold State.transmit; split <;> (try split) <;> (try split) <;> simp [State.beginTim]
@[simp] theorem sendDue_transmit : (s.transmit).rps.sendDue = s.rps.sendDue := by unfold State.transmit; split <;> (try split) <;> (try split) <;> simp [State.beginTim]
@[simp] theorem sealCount_transmit : (s.transmit).rps.sealCount = s.rps.sealCount := by unfold State.transmit; split <;> (try split) <;> (try split) <;> simp [State.beginTim]
@[simp] theorem lastEvt_transmit : (s.transmit).rps.lastEvt = s.rps.lastEvt := by unfold State.transmit; split <;> (try split) <;> (try split) <;> simp [State.beginTim]
@[simp] theorem lastPassage_transmit : (s.transmit).rps.lastPassage = s.rps.lastPassage := by unfold State.transmit; split <;> (try split) <;> (try split) <;> simp [State.beginTim]
@[simp] theorem queue_transmit : (s.transmit).lif.queue = s.lif.queue := by unfold State.transmit; split <;> (try split) <;> (try split) <;> simp [State.beginTim]
@[simp] theorem locked_transmit : (s.transmit).lif.locked = s.lif.locked := by unfold State.transmit; split <;> (try split) <;> (try split) <;> simp [State.beginTim]
@[simp] theorem lifCounters_transmit : (s.transmit).lif.counters = s.lif.counters := by unfold State.transmit; split <;> (try split) <;> (try split) <;> simp [State.beginTim]
@[simp] theorem inProgress_transmit : (s.transmit).lif.inProgress = s.lif.inProgress := by unfold State.transmit; split <;> (try split) <;> (try split) <;> simp [State.beginTim]

/-! ### handOwn -/

@[simp] theorem pending_handOwn (f : OwnFrame) : (s.handOwn f).pending = s.pending := by simp [State.handOwn]
@[simp] theorem powered_handOwn (f : OwnFrame) : (s.handOwn f).powered = s.powered := by simp [State.handOwn]
@[simp] theorem now_handOwn (f : OwnFrame) : (s.handOwn f).now = s.now := by simp [State.handOwn]
@[simp] theorem pins_handOwn (f : OwnFrame) : (s.handOwn f).pins = s.pins := by simp [State.handOwn]
@[simp] theorem store_handOwn (f : OwnFrame) : (s.handOwn f).store = s.store := by simp [State.handOwn]
@[simp] theorem conds_handOwn (f : OwnFrame) : (s.handOwn f).conds = s.conds := by simp [State.handOwn]
@[simp] theorem tables_handOwn (f : OwnFrame) : (s.handOwn f).tables = s.tables := by simp [State.handOwn]
@[simp] theorem invalid_handOwn (f : OwnFrame) : (s.handOwn f).invalid = s.invalid := by simp [State.handOwn]
@[simp] theorem commit_handOwn (f : OwnFrame) : (s.handOwn f).commit = s.commit := by simp [State.handOwn]
@[simp] theorem sin_handOwn (f : OwnFrame) : (s.handOwn f).sin = s.sin := by simp [State.handOwn]
@[simp] theorem axt_handOwn (f : OwnFrame) : (s.handOwn f).axt = s.axt := by simp [State.handOwn]
@[simp] theorem passage_handOwn (f : OwnFrame) : (s.handOwn f).passage = s.passage := by simp [State.handOwn]
@[simp] theorem brg_handOwn (f : OwnFrame) : (s.handOwn f).brg = s.brg := by simp [State.handOwn]
@[simp] theorem aou_handOwn (f : OwnFrame) : (s.handOwn f).aou = s.aou := by simp [State.handOwn]
@[simp] theorem scu_handOwn (f : OwnFrame) : (s.handOwn f).scu = s.scu := by simp [State.handOwn]
@[simp] theorem ring_handOwn (f : OwnFrame) : (s.handOwn f).rps.ring = s.rps.ring := by simp [State.handOwn]
@[simp] theorem slots_handOwn (f : OwnFrame) : (s.handOwn f).rps.slots = s.rps.slots := by simp [State.handOwn]
@[simp] theorem kinds_handOwn (f : OwnFrame) : (s.handOwn f).rps.pending = s.rps.pending := by simp [State.handOwn]
@[simp] theorem marks_handOwn (f : OwnFrame) : (s.handOwn f).rps.marks = s.rps.marks := by simp [State.handOwn]
@[simp] theorem mask_handOwn (f : OwnFrame) : (s.handOwn f).rps.mask = s.rps.mask := by simp [State.handOwn]
@[simp] theorem sendDue_handOwn (f : OwnFrame) : (s.handOwn f).rps.sendDue = s.rps.sendDue := by simp [State.handOwn]
@[simp] theorem sealCount_handOwn (f : OwnFrame) : (s.handOwn f).rps.sealCount = s.rps.sealCount := by simp [State.handOwn]
@[simp] theorem lastEvt_handOwn (f : OwnFrame) : (s.handOwn f).rps.lastEvt = s.rps.lastEvt := by simp [State.handOwn]
@[simp] theorem lastPassage_handOwn (f : OwnFrame) : (s.handOwn f).rps.lastPassage = s.rps.lastPassage := by simp [State.handOwn]
@[simp] theorem queue_handOwn (f : OwnFrame) : (s.handOwn f).lif.queue = s.lif.queue := by simp [State.handOwn]
@[simp] theorem locked_handOwn (f : OwnFrame) : (s.handOwn f).lif.locked = s.lif.locked := by simp [State.handOwn]
@[simp] theorem inProgress_handOwn (f : OwnFrame) : (s.handOwn f).lif.inProgress = s.lif.inProgress := by simp [State.handOwn]
@[simp] theorem lifCounters_handOwn (f : OwnFrame) : (s.handOwn f).lif.counters = s.lif.counters := by simp [State.handOwn]

@[simp] theorem queue_loseAnswer (l : Lif) : (loseAnswer l).queue = l.queue := rfl
@[simp] theorem locked_loseAnswer (l : Lif) : (loseAnswer l).locked = l.locked := rfl
@[simp] theorem inProgress_loseAnswer (l : Lif) : (loseAnswer l).inProgress = l.inProgress := rfl

/-! ### answer -/

@[simp] theorem pending_answer (c : Nat) (t : Byte) (a : AnswerCode) (d : List Byte) : (s.answer c t a d).pending = s.pending := by unfold State.answer; dsimp only; split <;> simp
@[simp] theorem powered_answer (c : Nat) (t : Byte) (a : AnswerCode) (d : List Byte) : (s.answer c t a d).powered = s.powered := by unfold State.answer; dsimp only; split <;> simp
@[simp] theorem now_answer (c : Nat) (t : Byte) (a : AnswerCode) (d : List Byte) : (s.answer c t a d).now = s.now := by unfold State.answer; dsimp only; split <;> simp
@[simp] theorem pins_answer (c : Nat) (t : Byte) (a : AnswerCode) (d : List Byte) : (s.answer c t a d).pins = s.pins := by unfold State.answer; dsimp only; split <;> simp
@[simp] theorem store_answer (c : Nat) (t : Byte) (a : AnswerCode) (d : List Byte) : (s.answer c t a d).store = s.store := by unfold State.answer; dsimp only; split <;> simp
@[simp] theorem conds_answer (c : Nat) (t : Byte) (a : AnswerCode) (d : List Byte) : (s.answer c t a d).conds = s.conds := by unfold State.answer; dsimp only; split <;> simp
@[simp] theorem tables_answer (c : Nat) (t : Byte) (a : AnswerCode) (d : List Byte) : (s.answer c t a d).tables = s.tables := by unfold State.answer; dsimp only; split <;> simp
@[simp] theorem invalid_answer (c : Nat) (t : Byte) (a : AnswerCode) (d : List Byte) : (s.answer c t a d).invalid = s.invalid := by unfold State.answer; dsimp only; split <;> simp
@[simp] theorem commit_answer (c : Nat) (t : Byte) (a : AnswerCode) (d : List Byte) : (s.answer c t a d).commit = s.commit := by unfold State.answer; dsimp only; split <;> simp
@[simp] theorem sin_answer (c : Nat) (t : Byte) (a : AnswerCode) (d : List Byte) : (s.answer c t a d).sin = s.sin := by unfold State.answer; dsimp only; split <;> simp
@[simp] theorem axt_answer (c : Nat) (t : Byte) (a : AnswerCode) (d : List Byte) : (s.answer c t a d).axt = s.axt := by unfold State.answer; dsimp only; split <;> simp
@[simp] theorem passage_answer (c : Nat) (t : Byte) (a : AnswerCode) (d : List Byte) : (s.answer c t a d).passage = s.passage := by unfold State.answer; dsimp only; split <;> simp
@[simp] theorem brg_answer (c : Nat) (t : Byte) (a : AnswerCode) (d : List Byte) : (s.answer c t a d).brg = s.brg := by unfold State.answer; dsimp only; split <;> simp
@[simp] theorem aou_answer (c : Nat) (t : Byte) (a : AnswerCode) (d : List Byte) : (s.answer c t a d).aou = s.aou := by unfold State.answer; dsimp only; split <;> simp
@[simp] theorem scu_answer (c : Nat) (t : Byte) (a : AnswerCode) (d : List Byte) : (s.answer c t a d).scu = s.scu := by unfold State.answer; dsimp only; split <;> simp
@[simp] theorem ring_answer (c : Nat) (t : Byte) (a : AnswerCode) (d : List Byte) : (s.answer c t a d).rps.ring = s.rps.ring := by unfold State.answer; dsimp only; split <;> simp
@[simp] theorem slots_answer (c : Nat) (t : Byte) (a : AnswerCode) (d : List Byte) : (s.answer c t a d).rps.slots = s.rps.slots := by unfold State.answer; dsimp only; split <;> simp
@[simp] theorem kinds_answer (c : Nat) (t : Byte) (a : AnswerCode) (d : List Byte) : (s.answer c t a d).rps.pending = s.rps.pending := by unfold State.answer; dsimp only; split <;> simp
@[simp] theorem marks_answer (c : Nat) (t : Byte) (a : AnswerCode) (d : List Byte) : (s.answer c t a d).rps.marks = s.rps.marks := by unfold State.answer; dsimp only; split <;> simp
@[simp] theorem mask_answer (c : Nat) (t : Byte) (a : AnswerCode) (d : List Byte) : (s.answer c t a d).rps.mask = s.rps.mask := by unfold State.answer; dsimp only; split <;> simp
@[simp] theorem sendDue_answer (c : Nat) (t : Byte) (a : AnswerCode) (d : List Byte) : (s.answer c t a d).rps.sendDue = s.rps.sendDue := by unfold State.answer; dsimp only; split <;> simp
@[simp] theorem sealCount_answer (c : Nat) (t : Byte) (a : AnswerCode) (d : List Byte) : (s.answer c t a d).rps.sealCount = s.rps.sealCount := by unfold State.answer; dsimp only; split <;> simp
@[simp] theorem lastEvt_answer (c : Nat) (t : Byte) (a : AnswerCode) (d : List Byte) : (s.answer c t a d).rps.lastEvt = s.rps.lastEvt := by unfold State.answer; dsimp only; split <;> simp
@[simp] theorem lastPassage_answer (c : Nat) (t : Byte) (a : AnswerCode) (d : List Byte) : (s.answer c t a d).rps.lastPassage = s.rps.lastPassage := by unfold State.answer; dsimp only; split <;> simp
@[simp] theorem queue_answer (c : Nat) (t : Byte) (a : AnswerCode) (d : List Byte) : (s.answer c t a d).lif.queue = s.lif.queue := by unfold State.answer; dsimp only; split <;> simp
@[simp] theorem locked_answer (c : Nat) (t : Byte) (a : AnswerCode) (d : List Byte) : (s.answer c t a d).lif.locked = s.lif.locked := by unfold State.answer; dsimp only; split <;> simp

@[simp] theorem inProgress_answer (c : Nat) (t : Byte) (a : AnswerCode) (d : List Byte) : (s.answer c t a d).lif.inProgress = none := by
  unfold State.answer; dsimp only; split <;> simp [loseAnswer]

/-! ### answerProgress -/

@[simp] theorem pending_answerProgress (c : Nat) (a : AnswerCode) (d : List Byte) : (s.answerProgress c a d).pending = s.pending := by unfold State.answerProgress; split <;> (try split) <;> simp
@[simp] theorem powered_answerProgress (c : Nat) (a : AnswerCode) (d : List Byte) : (s.answerProgress c a d).powered = s.powered := by unfold State.answerProgress; split <;> (try split) <;> simp
@[simp] theorem now_answerProgress (c : Nat) (a : AnswerCode) (d : List Byte) : (s.answerProgress c a d).now = s.now := by unfold State.answerProgress; split <;> (try split) <;> simp
@[simp] theorem pins_answerProgress (c : Nat) (a : AnswerCode) (d : List Byte) : (s.answerProgress c a d).pins = s.pins := by unfold State.answerProgress; split <;> (try split) <;> simp
@[simp] theorem store_answerProgress (c : Nat) (a : AnswerCode) (d : List Byte) : (s.answerProgress c a d).store = s.store := by unfold State.answerProgress; split <;> (try split) <;> simp
@[simp] theorem conds_answerProgress (c : Nat) (a : AnswerCode) (d : List Byte) : (s.answerProgress c a d).conds = s.conds := by unfold State.answerProgress; split <;> (try split) <;> simp
@[simp] theorem tables_answerProgress (c : Nat) (a : AnswerCode) (d : List Byte) : (s.answerProgress c a d).tables = s.tables := by unfold State.answerProgress; split <;> (try split) <;> simp
@[simp] theorem invalid_answerProgress (c : Nat) (a : AnswerCode) (d : List Byte) : (s.answerProgress c a d).invalid = s.invalid := by unfold State.answerProgress; split <;> (try split) <;> simp
@[simp] theorem commit_answerProgress (c : Nat) (a : AnswerCode) (d : List Byte) : (s.answerProgress c a d).commit = s.commit := by unfold State.answerProgress; split <;> (try split) <;> simp
@[simp] theorem sin_answerProgress (c : Nat) (a : AnswerCode) (d : List Byte) : (s.answerProgress c a d).sin = s.sin := by unfold State.answerProgress; split <;> (try split) <;> simp
@[simp] theorem axt_answerProgress (c : Nat) (a : AnswerCode) (d : List Byte) : (s.answerProgress c a d).axt = s.axt := by unfold State.answerProgress; split <;> (try split) <;> simp
@[simp] theorem passage_answerProgress (c : Nat) (a : AnswerCode) (d : List Byte) : (s.answerProgress c a d).passage = s.passage := by unfold State.answerProgress; split <;> (try split) <;> simp
@[simp] theorem brg_answerProgress (c : Nat) (a : AnswerCode) (d : List Byte) : (s.answerProgress c a d).brg = s.brg := by unfold State.answerProgress; split <;> (try split) <;> simp
@[simp] theorem aou_answerProgress (c : Nat) (a : AnswerCode) (d : List Byte) : (s.answerProgress c a d).aou = s.aou := by unfold State.answerProgress; split <;> (try split) <;> simp
@[simp] theorem scu_answerProgress (c : Nat) (a : AnswerCode) (d : List Byte) : (s.answerProgress c a d).scu = s.scu := by unfold State.answerProgress; split <;> (try split) <;> simp
@[simp] theorem ring_answerProgress (c : Nat) (a : AnswerCode) (d : List Byte) : (s.answerProgress c a d).rps.ring = s.rps.ring := by unfold State.answerProgress; split <;> (try split) <;> simp
@[simp] theorem slots_answerProgress (c : Nat) (a : AnswerCode) (d : List Byte) : (s.answerProgress c a d).rps.slots = s.rps.slots := by unfold State.answerProgress; split <;> (try split) <;> simp
@[simp] theorem kinds_answerProgress (c : Nat) (a : AnswerCode) (d : List Byte) : (s.answerProgress c a d).rps.pending = s.rps.pending := by unfold State.answerProgress; split <;> (try split) <;> simp
@[simp] theorem marks_answerProgress (c : Nat) (a : AnswerCode) (d : List Byte) : (s.answerProgress c a d).rps.marks = s.rps.marks := by unfold State.answerProgress; split <;> (try split) <;> simp
@[simp] theorem mask_answerProgress (c : Nat) (a : AnswerCode) (d : List Byte) : (s.answerProgress c a d).rps.mask = s.rps.mask := by unfold State.answerProgress; split <;> (try split) <;> simp
@[simp] theorem sendDue_answerProgress (c : Nat) (a : AnswerCode) (d : List Byte) : (s.answerProgress c a d).rps.sendDue = s.rps.sendDue := by unfold State.answerProgress; split <;> (try split) <;> simp
@[simp] theorem sealCount_answerProgress (c : Nat) (a : AnswerCode) (d : List Byte) : (s.answerProgress c a d).rps.sealCount = s.rps.sealCount := by unfold State.answerProgress; split <;> (try split) <;> simp
@[simp] theorem lastEvt_answerProgress (c : Nat) (a : AnswerCode) (d : List Byte) : (s.answerProgress c a d).rps.lastEvt = s.rps.lastEvt := by unfold State.answerProgress; split <;> (try split) <;> simp
@[simp] theorem lastPassage_answerProgress (c : Nat) (a : AnswerCode) (d : List Byte) : (s.answerProgress c a d).rps.lastPassage = s.rps.lastPassage := by unfold State.answerProgress; split <;> (try split) <;> simp
@[simp] theorem queue_answerProgress (c : Nat) (a : AnswerCode) (d : List Byte) : (s.answerProgress c a d).lif.queue = s.lif.queue := by unfold State.answerProgress; split <;> (try split) <;> simp
@[simp] theorem locked_answerProgress (c : Nat) (a : AnswerCode) (d : List Byte) : (s.answerProgress c a d).lif.locked = s.lif.locked := by unfold State.answerProgress; split <;> (try split) <;> simp

/-! ### answerBusy -/

@[simp] theorem pending_answerBusy (c : Nat) (t : Byte) : (s.answerBusy c t).pending = s.pending := by unfold State.answerBusy; dsimp only; split <;> simp
@[simp] theorem powered_answerBusy (c : Nat) (t : Byte) : (s.answerBusy c t).powered = s.powered := by unfold State.answerBusy; dsimp only; split <;> simp
@[simp] theorem now_answerBusy (c : Nat) (t : Byte) : (s.answerBusy c t).now = s.now := by unfold State.answerBusy; dsimp only; split <;> simp
@[simp] theorem pins_answerBusy (c : Nat) (t : Byte) : (s.answerBusy c t).pins = s.pins := by unfold State.answerBusy; dsimp only; split <;> simp
@[simp] theorem store_answerBusy (c : Nat) (t : Byte) : (s.answerBusy c t).store = s.store := by unfold State.answerBusy; dsimp only; split <;> simp
@[simp] theorem conds_answerBusy (c : Nat) (t : Byte) : (s.answerBusy c t).conds = s.conds := by unfold State.answerBusy; dsimp only; split <;> simp
@[simp] theorem tables_answerBusy (c : Nat) (t : Byte) : (s.answerBusy c t).tables = s.tables := by unfold State.answerBusy; dsimp only; split <;> simp
@[simp] theorem invalid_answerBusy (c : Nat) (t : Byte) : (s.answerBusy c t).invalid = s.invalid := by unfold State.answerBusy; dsimp only; split <;> simp
@[simp] theorem commit_answerBusy (c : Nat) (t : Byte) : (s.answerBusy c t).commit = s.commit := by unfold State.answerBusy; dsimp only; split <;> simp
@[simp] theorem sin_answerBusy (c : Nat) (t : Byte) : (s.answerBusy c t).sin = s.sin := by unfold State.answerBusy; dsimp only; split <;> simp
@[simp] theorem axt_answerBusy (c : Nat) (t : Byte) : (s.answerBusy c t).axt = s.axt := by unfold State.answerBusy; dsimp only; split <;> simp
@[simp] theorem passage_answerBusy (c : Nat) (t : Byte) : (s.answerBusy c t).passage = s.passage := by unfold State.answerBusy; dsimp only; split <;> simp
@[simp] theorem brg_answerBusy (c : Nat) (t : Byte) : (s.answerBusy c t).brg = s.brg := by unfold State.answerBusy; dsimp only; split <;> simp
@[simp] theorem aou_answerBusy (c : Nat) (t : Byte) : (s.answerBusy c t).aou = s.aou := by unfold State.answerBusy; dsimp only; split <;> simp
@[simp] theorem scu_answerBusy (c : Nat) (t : Byte) : (s.answerBusy c t).scu = s.scu := by unfold State.answerBusy; dsimp only; split <;> simp
@[simp] theorem ring_answerBusy (c : Nat) (t : Byte) : (s.answerBusy c t).rps.ring = s.rps.ring := by unfold State.answerBusy; dsimp only; split <;> simp
@[simp] theorem slots_answerBusy (c : Nat) (t : Byte) : (s.answerBusy c t).rps.slots = s.rps.slots := by unfold State.answerBusy; dsimp only; split <;> simp
@[simp] theorem kinds_answerBusy (c : Nat) (t : Byte) : (s.answerBusy c t).rps.pending = s.rps.pending := by unfold State.answerBusy; dsimp only; split <;> simp
@[simp] theorem marks_answerBusy (c : Nat) (t : Byte) : (s.answerBusy c t).rps.marks = s.rps.marks := by unfold State.answerBusy; dsimp only; split <;> simp
@[simp] theorem mask_answerBusy (c : Nat) (t : Byte) : (s.answerBusy c t).rps.mask = s.rps.mask := by unfold State.answerBusy; dsimp only; split <;> simp
@[simp] theorem sendDue_answerBusy (c : Nat) (t : Byte) : (s.answerBusy c t).rps.sendDue = s.rps.sendDue := by unfold State.answerBusy; dsimp only; split <;> simp
@[simp] theorem sealCount_answerBusy (c : Nat) (t : Byte) : (s.answerBusy c t).rps.sealCount = s.rps.sealCount := by unfold State.answerBusy; dsimp only; split <;> simp
@[simp] theorem lastEvt_answerBusy (c : Nat) (t : Byte) : (s.answerBusy c t).rps.lastEvt = s.rps.lastEvt := by unfold State.answerBusy; dsimp only; split <;> simp
@[simp] theorem lastPassage_answerBusy (c : Nat) (t : Byte) : (s.answerBusy c t).rps.lastPassage = s.rps.lastPassage := by unfold State.answerBusy; dsimp only; split <;> simp
@[simp] theorem queue_answerBusy (c : Nat) (t : Byte) : (s.answerBusy c t).lif.queue = s.lif.queue := by unfold State.answerBusy; dsimp only; split <;> simp
@[simp] theorem locked_answerBusy (c : Nat) (t : Byte) : (s.answerBusy c t).lif.locked = s.lif.locked := by unfold State.answerBusy; dsimp only; split <;> simp

/-! ### drainOne -/

@[simp] theorem pending_drainOne : (s.drainOne).pending = s.pending := by unfold State.drainOne; split <;> (try split) <;> (try split) <;> simp
@[simp] theorem powered_drainOne : (s.drainOne).powered = s.powered := by unfold State.drainOne; split <;> (try split) <;> (try split) <;> simp
@[simp] theorem now_drainOne : (s.drainOne).now = s.now := by unfold State.drainOne; split <;> (try split) <;> (try split) <;> simp
@[simp] theorem pins_drainOne : (s.drainOne).pins = s.pins := by unfold State.drainOne; split <;> (try split) <;> (try split) <;> simp
@[simp] theorem store_drainOne : (s.drainOne).store = s.store := by unfold State.drainOne; split <;> (try split) <;> (try split) <;> simp
@[simp] theorem conds_drainOne : (s.drainOne).conds = s.conds := by unfold State.drainOne; split <;> (try split) <;> (try split) <;> simp
@[simp] theorem tables_drainOne : (s.drainOne).tables = s.tables := by unfold State.drainOne; split <;> (try split) <;> (try split) <;> simp
@[simp] theorem invalid_drainOne : (s.drainOne).invalid = s.invalid := by unfold State.drainOne; split <;> (try split) <;> (try split) <;> simp
@[simp] theorem commit_drainOne : (s.drainOne).commit = s.commit := by unfold State.drainOne; split <;> (try split) <;> (try split) <;> simp
@[simp] theorem sin_drainOne : (s.drainOne).sin = s.sin := by unfold State.drainOne; split <;> (try split) <;> (try split) <;> simp
@[simp] theorem axt_drainOne : (s.drainOne).axt = s.axt := by unfold State.drainOne; split <;> (try split) <;> (try split) <;> simp
@[simp] theorem passage_drainOne : (s.drainOne).passage = s.passage := by unfold State.drainOne; split <;> (try split) <;> (try split) <;> simp
@[simp] theorem brg_drainOne : (s.drainOne).brg = s.brg := by unfold State.drainOne; split <;> (try split) <;> (try split) <;> simp
@[simp] theorem aou_drainOne : (s.drainOne).aou = s.aou := by unfold State.drainOne; split <;> (try split) <;> (try split) <;> simp
@[simp] theorem scu_drainOne : (s.drainOne).scu = s.scu := by unfold State.drainOne; split <;> (try split) <;> (try split) <;> simp
@[simp] theorem ring_drainOne : (s.drainOne).rps.ring = s.rps.ring := by unfold State.drainOne; split <;> (try split) <;> (try split) <;> simp
@[simp] theorem slots_drainOne : (s.drainOne).rps.slots = s.rps.slots := by unfold State.drainOne; split <;> (try split) <;> (try split) <;> simp
@[simp] theorem kinds_drainOne : (s.drainOne).rps.pending = s.rps.pending := by unfold State.drainOne; split <;> (try split) <;> (try split) <;> simp
@[simp] theorem marks_drainOne : (s.drainOne).rps.marks = s.rps.marks := by unfold State.drainOne; split <;> (try split) <;> (try split) <;> simp
@[simp] theorem mask_drainOne : (s.drainOne).rps.mask = s.rps.mask := by unfold State.drainOne; split <;> (try split) <;> (try split) <;> simp
@[simp] theorem sendDue_drainOne : (s.drainOne).rps.sendDue = s.rps.sendDue := by unfold State.drainOne; split <;> (try split) <;> (try split) <;> simp
@[simp] theorem sealCount_drainOne : (s.drainOne).rps.sealCount = s.rps.sealCount := by unfold State.drainOne; split <;> (try split) <;> (try split) <;> simp
@[simp] theorem lastEvt_drainOne : (s.drainOne).rps.lastEvt = s.rps.lastEvt := by unfold State.drainOne; split <;> (try split) <;> (try split) <;> simp
@[simp] theorem lastPassage_drainOne : (s.drainOne).rps.lastPassage = s.rps.lastPassage := by unfold State.drainOne; split <;> (try split) <;> (try split) <;> simp
@[simp] theorem locked_drainOne : (s.drainOne).lif.locked = s.lif.locked := by unfold State.drainOne; split <;> (try split) <;> (try split) <;> simp

/-! ### drain -/

@[simp] theorem pending_drain : (s.drain).pending = s.pending := by simp [State.drain, forEach, Config.commandQueueDepth, List.range, List.range.loop]
@[simp] theorem powered_drain : (s.drain).powered = s.powered := by simp [State.drain, forEach, Config.commandQueueDepth, List.range, List.range.loop]
@[simp] theorem now_drain : (s.drain).now = s.now := by simp [State.drain, forEach, Config.commandQueueDepth, List.range, List.range.loop]
@[simp] theorem pins_drain : (s.drain).pins = s.pins := by simp [State.drain, forEach, Config.commandQueueDepth, List.range, List.range.loop]
@[simp] theorem store_drain : (s.drain).store = s.store := by simp [State.drain, forEach, Config.commandQueueDepth, List.range, List.range.loop]
@[simp] theorem conds_drain : (s.drain).conds = s.conds := by simp [State.drain, forEach, Config.commandQueueDepth, List.range, List.range.loop]
@[simp] theorem tables_drain : (s.drain).tables = s.tables := by simp [State.drain, forEach, Config.commandQueueDepth, List.range, List.range.loop]
@[simp] theorem invalid_drain : (s.drain).invalid = s.invalid := by simp [State.drain, forEach, Config.commandQueueDepth, List.range, List.range.loop]
@[simp] theorem commit_drain : (s.drain).commit = s.commit := by simp [State.drain, forEach, Config.commandQueueDepth, List.range, List.range.loop]
@[simp] theorem sin_drain : (s.drain).sin = s.sin := by simp [State.drain, forEach, Config.commandQueueDepth, List.range, List.range.loop]
@[simp] theorem axt_drain : (s.drain).axt = s.axt := by simp [State.drain, forEach, Config.commandQueueDepth, List.range, List.range.loop]
@[simp] theorem passage_drain : (s.drain).passage = s.passage := by simp [State.drain, forEach, Config.commandQueueDepth, List.range, List.range.loop]
@[simp] theorem brg_drain : (s.drain).brg = s.brg := by simp [State.drain, forEach, Config.commandQueueDepth, List.range, List.range.loop]
@[simp] theorem aou_drain : (s.drain).aou = s.aou := by simp [State.drain, forEach, Config.commandQueueDepth, List.range, List.range.loop]
@[simp] theorem scu_drain : (s.drain).scu = s.scu := by simp [State.drain, forEach, Config.commandQueueDepth, List.range, List.range.loop]
@[simp] theorem ring_drain : (s.drain).rps.ring = s.rps.ring := by simp [State.drain, forEach, Config.commandQueueDepth, List.range, List.range.loop]
@[simp] theorem slots_drain : (s.drain).rps.slots = s.rps.slots := by simp [State.drain, forEach, Config.commandQueueDepth, List.range, List.range.loop]
@[simp] theorem kinds_drain : (s.drain).rps.pending = s.rps.pending := by simp [State.drain, forEach, Config.commandQueueDepth, List.range, List.range.loop]
@[simp] theorem marks_drain : (s.drain).rps.marks = s.rps.marks := by simp [State.drain, forEach, Config.commandQueueDepth, List.range, List.range.loop]
@[simp] theorem mask_drain : (s.drain).rps.mask = s.rps.mask := by simp [State.drain, forEach, Config.commandQueueDepth, List.range, List.range.loop]
@[simp] theorem sendDue_drain : (s.drain).rps.sendDue = s.rps.sendDue := by simp [State.drain, forEach, Config.commandQueueDepth, List.range, List.range.loop]
@[simp] theorem sealCount_drain : (s.drain).rps.sealCount = s.rps.sealCount := by simp [State.drain, forEach, Config.commandQueueDepth, List.range, List.range.loop]
@[simp] theorem lastEvt_drain : (s.drain).rps.lastEvt = s.rps.lastEvt := by simp [State.drain, forEach, Config.commandQueueDepth, List.range, List.range.loop]
@[simp] theorem lastPassage_drain : (s.drain).rps.lastPassage = s.rps.lastPassage := by simp [State.drain, forEach, Config.commandQueueDepth, List.range, List.range.loop]
@[simp] theorem locked_drain : (s.drain).lif.locked = s.lif.locked := by simp [State.drain, forEach, Config.commandQueueDepth, List.range, List.range.loop]


/-! ### Commands taken and ended -/

/-- With no command waiting there is nothing LIF answers by itself (R192). -/
theorem drain_nil (h : s.lif.queue = []) : s.drain = s := by
  have e : s.drainOne = s := by unfold State.drainOne; rw [h]
  simp [State.drain, forEach, Config.commandQueueDepth, List.range, List.range.loop, e]

/-- A command handed to a free LIF with an empty queue acts at once (R192). -/
theorem command_now (h : s.lif.free = true) (hq : s.lif.queue = []) (c : Nat) (t : Byte) (a : List Byte) (f : State → State) :
    command c t a f s = (f s).drain := by
  unfold command State.takeCommand
  rw [if_pos h, hq]

/-- A command that LIF cannot take waits (R192). -/
theorem command_waits (c : Nat) (t : Byte) (a : List Byte) (f : State → State) (h : s.takeCommand c t a = none) :
    command c t a f s = s := by
  unfold command
  rw [h]

/-- A timed row of the powered part. -/
theorem timed_powered (dt : Nat) (f : State → State) (h : s.powered = true) : timed dt f s = .next (f (s.elapse dt)) := if_pos h

/-- A row whose condition holds acts. -/
theorem whenever_true {b : Bool} (h : b = true) (f : State → State) : whenever b f s = f s := if_pos h

/-- A row whose condition fails does nothing. -/
theorem whenever_false {b : Bool} (h : b = false) (f : State → State) : whenever b f s = s := by unfold whenever; rw [h]; rfl

/-- A raise is kept (R164). -/
theorem raised_raise_self (k : EventKind) : (s.raise k).raised k := by
  unfold State.raised
  cases k <;> simp [Rps.raise, eventBit, eventNumber]

/-- A further raise keeps every raise (R164). -/
theorem raised_raise {s : State} (k : EventKind) {j : EventKind} (h : s.raised j) : (s.raise k).raised j := by
  unfold State.raised at *
  simp [Rps.raise, h.1, h.2]

/-- Whether a kind is raised rests on RPS alone. -/
theorem raised_congr {s t : State} (h : t.rps = s.rps) {k : EventKind} (hs : s.raised k) : t.raised k := by
  unfold State.raised at *
  rw [h]
  exact hs

/-- A timer that runs out within the loop time that runs has run out after it (R1). -/
theorem expired_tick {t : Option Nat} {n dt : Nat} (h : t = some n) (hn : n ≤ dt) : expired (tick dt t) = true := by
  subst h
  simp [expired, tick]
  omega

end Sys2Proof.Machine
end

