-- ==== Sys2Proof/Laws/Taken.lean ====
section
/-! SUPPORT. Commands as LIF takes them: what a command row answers when LIF is ready, and what a busy LIF leaves alone. -/

namespace Sys2Proof.Machine

set_option Elab.async false

variable (s : State)

/-- While LIF is not free it answers nothing by itself (R192). -/
theorem drain_busy (h : s.lif.free = false) : s.drain = s := by
  have e : s.drainOne = s := by
    unfold State.drainOne
    split
    · rfl
    · rw [h]; rfl
  simp [State.drain, forEach, Config.commandQueueDepth, List.range, List.range.loop, e]

/-- What every one of a list's operations keeps, their sequence keeps. -/
theorem forEach_keeps {α β : Type} (p : State → β) {f : α → State → State} (h : ∀ a t, p (f a t) = p t) (l : List α) (s : State) :
    p (forEach l f s) = p s := by
  unfold forEach
  induction l generalizing s with
  | nil => rfl
  | cons a l ih => exact (ih (f a s)).trans (h a s)

/-- A change of LIF that leaves it as it is leaves the part as it is. -/
theorem onLif_same {f : Lif → Lif} (h : f s.lif = s.lif) : s.onLif f = s := by
  unfold State.onLif
  rw [h]

/-- Two changes that make the same of LIF make the same of the part. -/
theorem onLif_congr {f g : Lif → Lif} (h : f s.lif = g s.lif) : s.onLif f = s.onLif g := by
  unfold State.onLif
  rw [h]

/-- The head leaves the queue. -/
theorem dropHead (l : Lif) {c : Cmd} {rest : List Cmd} (h : l.queue = c :: rest) :
    ({ l with queue := l.queue.tail } : Lif) = { l with queue := rest } := by
  rw [h]
  rfl

/-- Nothing leaves an empty queue. -/
theorem emptyTail (l : Lif) (h : l.queue = []) : ({ l with queue := l.queue.tail } : Lif) = l := by
  cases l
  cases h
  rfl

/-- LIF takes a command it is ready for: the row's rule acts on the part with the command gone from the queue (R192). -/
theorem command_ready {c : Nat} {t : Byte} {a : List Byte} (h : s.Ready c t a) (dt : Nat) (f : State → State) :
    timed dt (command c t a f) s = .next ((f (s.taken dt)).drain) := by
  rw [timed_powered s dt _ h.powered]
  congr 1
  unfold command State.takeCommand
  rw [lif_elapse, free_tickLif, if_pos h.free, queue_tickLif]
  rcases h.head with q | ⟨rest, q⟩
  · rw [q]
    have e : s.taken dt = s.elapse dt := onLif_same _ (emptyTail _ (q : (tickLif dt s.lif).queue = []))
    rw [e]
  · rw [q]
    have e : s.taken dt = (s.elapse dt).onLif fun l => { l with queue := rest } :=
      onLif_congr _ (dropHead _ (q : (tickLif dt s.lif).queue = _))
    rw [e]
    simp

/-- A command LIF is ready for that is answered at once. -/
theorem command_answers {c : Nat} {t : Byte} {a : List Byte} (h : s.Ready c t a) (dt : Nat) {f : State → State}
    {v : State} {code : AnswerCode} {data : List Byte} (hf : f (s.taken dt) = v.answer c t code data) :
    timed dt (command c t a f) s = .next (v.ended c t code data) := by
  rw [command_ready s h, hf]
  rfl

/-- A command without arguments that its rule accepts has its effect (R192). -/
theorem plainCommand_takes {c : Nat} {tag : Byte} {f : State → State} (h : s.refusal c = none) :
    plainCommand c tag [] f s = f s := by
  unfold plainCommand
  rw [h]
  simp

/-- A command whose arguments have its form, and which its rule accepts, has its effect (R192). -/
theorem argCommand_takes {α : Type} {c : Nat} {tag : Byte} {form : Field α} {args : List Byte} {f : α → State → State} {x : α}
    (h : s.refusal c = none) (hx : whole form args = some x) : argCommand c tag form args f s = f x s := by
  unfold argCommand
  rw [h]
  simp only
  rw [hx]

/-- A command whose arguments do not have its form answers BAD_ARGUMENT (R192). -/
theorem argCommand_misfit {α : Type} {c : Nat} {tag : Byte} {form : Field α} {args : List Byte} {f : α → State → State}
    (h : s.refusal c = none) (hx : whole form args = none) :
    argCommand c tag form args f s = s.answer c tag .badArgument [] := by
  unfold argCommand
  rw [h]
  simp only
  rw [hx]
  rfl

/-- A timed row of the powered part whose condition holds acts on the part after the loop time. -/
theorem timed_when (h : s.powered = true) (dt : Nat) {b : State → Bool} {f : State → State} (hb : b (s.elapse dt) = true) :
    timed dt (fun t => whenever (b t) f t) s = .next (f (s.elapse dt)) := by
  rw [timed_powered s dt _ h, whenever_true _ hb]

/-- A timed row of the powered part whose condition fails lets the loop time run. -/
theorem timed_unless (h : s.powered = true) (dt : Nat) {b : State → Bool} {f : State → State} (hb : b (s.elapse dt) = false) :
    timed dt (fun t => whenever (b t) f t) s = .next (s.elapse dt) := by
  rw [timed_powered s dt _ h, whenever_false _ hb]

/-- Without supply a timed row changes nothing. -/
theorem timed_unpowered (h : s.powered = false) (dt : Nat) (f : State → State) : timed dt f s = .next s := by
  unfold timed
  rw [h]
  rfl

/-- An input that changes acts on the part after the loop time, with its new level. -/
theorem pinRow_changed (h : s.powered = true) (dt : Nat) {c : State → Bool} (hc : c s = true) (f : State → State) (p : Pins → Pins) :
    pinRow dt c f p s = .next (f { s.elapse dt with pins := p s.pins }) := by
  unfold pinRow
  rw [if_pos h, whenever_true _ hc]

/-- An input that keeps its level lets the loop time run. -/
theorem pinRow_same (h : s.powered = true) (dt : Nat) {c : State → Bool} (hc : c s = false) (f : State → State) (p : Pins → Pins) :
    pinRow dt c f p s = .next { s.elapse dt with pins := p s.pins } := by
  unfold pinRow
  rw [if_pos h, whenever_false _ hc]

/-- Without supply an input's row sets its level alone. -/
theorem pinRow_unpowered (h : s.powered = false) (dt : Nat) (c : State → Bool) (f : State → State) (p : Pins → Pins) :
    pinRow dt c f p s = .next { s with pins := p s.pins } := by
  unfold pinRow
  rw [h]
  rfl

@[simp] theorem pending_taken (dt : Nat) : (s.taken dt).pending = s.pending := rfl
@[simp] theorem powered_taken (dt : Nat) : (s.taken dt).powered = s.powered := rfl
@[simp] theorem now_taken (dt : Nat) : (s.taken dt).now = later s.now dt := rfl
@[simp] theorem pins_taken (dt : Nat) : (s.taken dt).pins = s.pins := rfl
@[simp] theorem store_taken (dt : Nat) : (s.taken dt).store = s.store := rfl
@[simp] theorem conds_taken (dt : Nat) : (s.taken dt).conds = s.conds := rfl
@[simp] theorem tables_taken (dt : Nat) : (s.taken dt).tables = s.tables := rfl
@[simp] theorem invalid_taken (dt : Nat) : (s.taken dt).invalid = s.invalid := rfl
@[simp] theorem commit_taken (dt : Nat) : (s.taken dt).commit = s.commit := rfl
@[simp] theorem axt_taken (dt : Nat) : (s.taken dt).axt = s.axt := rfl
@[simp] theorem site_taken (dt : Nat) : (s.taken dt).scu.site = s.scu.site := rfl
@[simp] theorem check_taken (dt : Nat) : (s.taken dt).scu.check = s.scu.check := rfl
@[simp] theorem locked_taken (dt : Nat) : (s.taken dt).lif.locked = s.lif.locked := rfl
@[simp] theorem own_taken (dt : Nat) : (s.taken dt).lif.own = s.lif.own := rfl
@[simp] theorem station_taken (dt : Nat) : (s.taken dt).lif.station = s.lif.station := rfl
@[simp] theorem fixed_taken (dt : Nat) : (s.taken dt).lif.fixed = s.lif.fixed := rfl
@[simp] theorem sending_taken (dt : Nat) : (s.taken dt).lif.sending = s.lif.sending := rfl
@[simp] theorem timWaiting_taken (dt : Nat) : (s.taken dt).lif.timWaiting = s.lif.timWaiting := rfl
@[simp] theorem alarms_taken (dt : Nat) : (s.taken dt).aou.alarms = s.aou.alarms := rfl

/-- Validation reads the tables, their marks and the station alone (R171). -/
theorem validation_congr {s t : State} (h1 : t.lif.station = s.lif.station) (h2 : t.tables = s.tables)
    (h3 : t.invalid = s.invalid) : t.validation = s.validation := by
  unfold State.validation
  rw [h1, h2, h3]

end Sys2Proof.Machine
end

