-- ==== Sys2Proof/Laws/Raised.lean ====
section
/-! SUPPORT. What a raise leaves of RPS; a raised event kind stays raised through the operations on the shutters, the lines and the site state, and the entry into CHECKING leaves its check begun. -/

namespace Sys2Proof.Machine

set_option Elab.async false

variable {s : State} {k : EventKind}

/-- Closing leaves the shutters CLOSED (R118). -/
@[simp] theorem shutter_closeShutters (s : State) : s.closeShutters.brg.shutter = .closed := by
  unfold State.closeShutters
  split
  · assumption
  · simp [closeCommand]
  · simp [closeCommand]

/-- Judging the lines keeps a raised kind. -/
theorem raised_judgeLines (h : s.raised k) : s.judgeLines.raised k := raised_congr (by simp) h

/-- EQUIPMENT_CHANGED keeps every raised kind. -/
theorem raised_equipmentChanged (h : s.raised k) : s.equipmentChanged.raised k :=
  raised_judgeLines (raised_raise _ h)

/-- EQUIPMENT_CHANGED is raised by its operation. -/
theorem raised_equipmentChanged_self (s : State) : s.equipmentChanged.raised .equipmentChanged :=
  raised_judgeLines (raised_raise_self _ _)

/-- A comparison of the equipment keeps every raised kind. -/
theorem raised_equipmentSince {b : State} (h : s.raised k) : (State.equipmentSince b s).raised k := by
  unfold State.equipmentSince
  split
  · exact raised_equipmentChanged h
  · exact h

/-- A change of the Bearing Unit keeps every raised kind. -/
theorem raised_withBrg (f : Brg → Brg) (h : s.raised k) : (s.withBrg f).raised k := by
  unfold State.withBrg
  dsimp only
  split
  · exact raised_congr (by simp) h
  · exact raised_equipmentChanged (raised_congr (by simp) h)

/-- Closing the shutters keeps every raised kind. -/
theorem raised_closeShutters (h : s.raised k) : s.closeShutters.raised k := by
  unfold State.closeShutters
  split
  · exact h
  · exact raised_withBrg _ h
  · exact raised_withBrg _ h

/-- Opening the shutters keeps every raised kind. -/
theorem raised_openShutters (h : s.raised k) : s.openShutters.raised k := by
  unfold State.openShutters
  split
  · exact raised_withBrg _ h
  · exact h
  · exact raised_congr (by simp) h

/-- The shutters' part in the entry into ARMED keeps every raised kind. -/
theorem raised_shuttersAtArmed (h : s.raised k) : s.shuttersAtArmed.raised k := by
  unfold State.shuttersAtArmed State.closeWaitApproach
  split
  · split
    · exact raised_openShutters h
    · exact h
    · exact h
  · split
    · exact raised_congr (by simp) h
    · exact h
    · exact h

/-- A change of the site state keeps every raised kind. -/
theorem raised_changeSite (y : SiteState) (h : s.raised k) : (s.changeSite y).raised k :=
  raised_raise _ (raised_congr (s := s) (by simp) h)

/-- A change of the site state raises STATE_CHANGED (R169). -/
theorem raised_changeSite_self (s : State) (y : SiteState) : (s.changeSite y).raised .stateChanged :=
  raised_raise_self _ _

/-- The entry into ARMED keeps every raised kind. -/
theorem raised_enterArmed (h : s.raised k) : s.enterArmed.raised k :=
  raised_judgeLines (raised_shuttersAtArmed (raised_changeSite _ h))

/-- The entry into ARMED raises STATE_CHANGED (R169). -/
theorem raised_enterArmed_self (s : State) : s.enterArmed.raised .stateChanged :=
  raised_judgeLines (raised_shuttersAtArmed (raised_changeSite_self s _))

/-- The entry into CHECKING keeps every raised kind. -/
theorem raised_enterChecking (n : Nat) (h : s.raised k) : (s.enterChecking n).raised k := by
  unfold State.enterChecking
  exact raised_judgeLines
    (raised_closeShutters (raised_congr (s := s.changeSite .checking) (by simp) (raised_changeSite _ h)))

/-- The entry into CHECKING leaves its check begun with the settle wait given (R178). -/
theorem checks_enterChecking (s : State) (n : Nat) : Checks (s.enterChecking n) n := by
  refine ⟨?_, ?_, ?_, ?_, ?_, ?_, ?_, ?_⟩
  all_goals try (rw [scu_enterChecking]; rfl)
  · unfold State.enterChecking
    exact raised_judgeLines
      (raised_closeShutters (raised_congr (s := s.changeSite .checking) (by simp) (raised_changeSite_self s _)))
  · unfold State.enterChecking
    simp

/-- An abort of the check keeps every raised kind. -/
theorem raised_abortCheck (r : AbortReason) (h : s.raised k) : (s.abortCheck r).raised k := by
  unfold State.abortCheck
  exact raised_congr (rps_startInterval _) (raised_raise _ (raised_congr (s := s) (by simp) h))

/-- An abort of the check raises CHECK_ENDED (R180). -/
theorem raised_abortCheck_self (r : AbortReason) (s : State) : (s.abortCheck r).raised .checkEnded := by
  unfold State.abortCheck
  exact raised_congr (rps_startInterval _) (raised_raise_self _ _)

/-- The entry into OFFLINE keeps every raised kind. -/
theorem raised_enterOffline (h : s.raised k) : s.enterOffline.raised k := by
  unfold State.enterOffline
  refine raised_equipmentSince (raised_judgeLines (raised_closeShutters (raised_congr (s := s.changeSite .offline) ?_
    (raised_changeSite _ h))))
  simp

/-- The entry into OFFLINE raises STATE_CHANGED (R169). -/
theorem raised_enterOffline_self (s : State) : s.enterOffline.raised .stateChanged := by
  unfold State.enterOffline
  refine raised_equipmentSince (raised_judgeLines (raised_closeShutters (raised_congr (s := s.changeSite .offline) ?_
    (raised_changeSite_self s _))))
  simp

/-- Without the flag there is no auto-arm (R175, R183). -/
theorem autoArm_off {s : State} (n : Nat) (h : s.scu.autoArm = false) : s.autoArm n = s := by
  unfold State.autoArm
  rw [h]
  rfl

/-! ### What a raise leaves of RPS -/

/-- What a raise leaves of RPS: all but the pending set, the marks and send-due (R164). -/
def Rps.told (r : Rps) : Rps := { r with pending := 0, marks := 0, sendDue := false }

@[simp] theorem told_rpsRaise (r : Rps) (k : EventKind) : (r.raise k).told = r.told := rfl

@[simp] theorem told_equipmentChanged (s : State) : s.equipmentChanged.rps.told = s.rps.told := by simp [State.equipmentChanged]

@[simp] theorem told_equipmentSince (b s : State) : (State.equipmentSince b s).rps.told = s.rps.told := by
  unfold State.equipmentSince
  split <;> simp

@[simp] theorem told_withBrg (f : Brg → Brg) (s : State) : (s.withBrg f).rps.told = s.rps.told := by
  unfold State.withBrg
  dsimp only
  split <;> simp

@[simp] theorem told_openShutters (s : State) : s.openShutters.rps.told = s.rps.told := by
  unfold State.openShutters
  split <;> simp

@[simp] theorem told_closeShutters (s : State) : s.closeShutters.rps.told = s.rps.told := by
  unfold State.closeShutters
  split <;> simp

@[simp] theorem told_shuttersAtArmed (s : State) : s.shuttersAtArmed.rps.told = s.rps.told := by
  unfold State.shuttersAtArmed
  split
  · split <;> simp
  · simp

@[simp] theorem told_enterArmed (s : State) : s.enterArmed.rps.told = s.rps.told := by simp [State.enterArmed]

@[simp] theorem told_enterOffline (s : State) : s.enterOffline.rps.told = s.rps.told := by simp [State.enterOffline]

/-- RPS values that agree but for raises agree in slots, ring, seal count and latest passage. -/
theorem reports_of_told {a b : Rps} (h : a.told = b.told) :
    a.slots = b.slots ∧ a.ring = b.ring ∧ a.sealCount = b.sealCount ∧ a.lastPassage = b.lastPassage :=
  ⟨(congrArg Rps.slots h :), (congrArg Rps.ring h :), (congrArg Rps.sealCount h :), (congrArg Rps.lastPassage h :)⟩

end Sys2Proof.Machine
end

