-- ==== Sys2Proof/Laws/Measured.lean ====
section
/-! SUPPORT. Measured: the measuring units (windows, loads, impacts, bearings, vehicles, alarms) change only the passage context, the alarm list with its lines, and the pending events. -/

namespace Sys2Proof.Machine

set_option Elab.async false

/-- What the measuring units leave of an axle record: its number, its crossings, speed, spacing, marks and final segment. -/
def AxleRecord.moved (a : AxleRecord) : AxleRecord :=
  { a with
    load := PerRail.same none, impact := PerRail.same none, bearing := PerRail.same none
    axleLoad := none, negative := false, imbalance := none, loadSettlement := none
    lostWeigh := PerRail.same false, lostImpact := PerRail.same false, lostScan := PerRail.same false
    reversedInWindow := false, vehicle := none, lostWindows := [] }

/-- What the measuring units leave of a passage context: all but flags, counters, contexts, vehicles and what they measure on an axle. -/
def Passage.moved (p : Passage) : Passage :=
  { p with
    axles := p.axles.map AxleRecord.moved
    flags := ⟨false, false, false, false, false, false⟩
    counters := ⟨0, 0, 0, 0, 0, 0, 0, 0⟩
    contexts := [], segmentStart := 0, vehicles := [], vehicleCount := 0 }

/-- `t` differs from `b` in the passage context, the Alarm and Output Unit and the raised events alone. -/
structure Measured (b t : State) : Prop where
  pending : t.pending = b.pending
  powered : t.powered = b.powered
  now : t.now = b.now
  pins : t.pins = b.pins
  store : t.store = b.store
  conds : t.conds = b.conds
  tables : t.tables = b.tables
  invalid : t.invalid = b.invalid
  commit : t.commit = b.commit
  lif : t.lif = b.lif
  sin : t.sin = b.sin
  axt : t.axt = b.axt
  brg : t.brg = b.brg
  scu : t.scu = b.scu
  slots : t.rps.slots = b.rps.slots
  sealCount : t.rps.sealCount = b.rps.sealCount
  ring : t.rps.ring = b.rps.ring
  mask : t.rps.mask = b.rps.mask
  holdOff : t.rps.holdOff = b.rps.holdOff
  lastEvt : t.rps.lastEvt = b.rps.lastEvt
  lastPassage : t.rps.lastPassage = b.rps.lastPassage
  moved : t.passage.map Passage.moved = b.passage.map Passage.moved

variable {b s : State}

/-- A state differs from itself in nothing. -/
theorem measured_self (s : State) : Measured s s :=
  ⟨rfl, rfl, rfl, rfl, rfl, rfl, rfl, rfl, rfl, rfl, rfl, rfl, rfl, rfl, rfl, rfl, rfl, rfl, rfl, rfl, rfl, rfl⟩

/-- A passage is current after measuring exactly where one was before. -/
theorem Measured.current (h : Measured b s) : s.passage.isSome = b.passage.isSome := by
  have := congrArg Option.isSome h.moved
  rwa [Option.isSome_map, Option.isSome_map] at this

/-- The passage context after measuring, beside the one before. -/
theorem Measured.passage (h : Measured b s) {p : Passage} (hp : b.passage = some p) :
    ∃ q, s.passage = some q ∧ q.moved = p.moved := by
  have := h.moved
  rw [hp] at this
  exact Option.map_eq_some_iff.mp this

theorem measured_onPassage (h : Measured b s) (f : Passage → Passage) (hf : ∀ p, (f p).moved = p.moved := by intro p; rfl) :
    Measured b (s.onPassage f) :=
  { h with moved := ((Option.map_map Passage.moved f s.passage).trans (congrArg (fun g => s.passage.map g) (funext hf : Passage.moved ∘ f = Passage.moved))).trans h.moved }

/-- A change of one record that keeps what the measuring units leave of it. -/
theorem moved_modify {f : AxleRecord → AxleRecord} (hf : ∀ a, (f a).moved = a.moved) (l : List AxleRecord) (i : Nat) :
    (l.modify i f).map AxleRecord.moved = l.map AxleRecord.moved := by
  induction l generalizing i with
  | nil => cases i <;> rfl
  | cons a l ih =>
    cases i with
    | zero => exact congrArg (· :: l.map AxleRecord.moved) (hf a)
    | succ i => exact congrArg (a.moved :: ·) (ih i)

theorem measured_onAou (h : Measured b s) (f : Aou → Aou) : Measured b (s.onAou f) := { h with }

theorem measured_onLine (h : Measured b s) (l : Line) (f : LineState → LineState) : Measured b (s.onLine l f) := measured_onAou h _

theorem measured_onAxle (h : Measured b s) (i : Nat) (f : AxleRecord → AxleRecord)
    (hf : ∀ a, (f a).moved = a.moved := by intro a; rfl) : Measured b (s.onAxle i f) :=
  measured_onPassage h _ fun p => congrArg (fun l => { p.moved with axles := l }) (moved_modify hf p.axles (i - 1))

theorem measured_forEach {α : Type} (l : List α) {f : α → State → State} (hf : ∀ a t, Measured b t → Measured b (f a t)) (h : Measured b s) :
    Measured b (forEach l f s) := by
  unfold forEach
  induction l generalizing s with
  | nil => exact h
  | cons a l ih => exact ih (hf a s h)

theorem measured_raise (h : Measured b s) (k : EventKind) : Measured b (s.raise k) := { h with }

theorem measured_raiseIf (h : Measured b s) (c : Bool) (k : EventKind) : Measured b (s.raiseIf c k) := by
  unfold State.raiseIf; split
  · exact measured_raise h k
  · exact h

theorem measured_judgeLine (h : Measured b s) (l : Line) : Measured b (s.judgeLine l) := measured_onLine h l _

theorem measured_judgeLines (h : Measured b s) : Measured b s.judgeLines := measured_forEach _ (fun l _ ht => measured_judgeLine ht l) h

theorem measured_pulseLine (h : Measured b s) (w : Nat) (l : Line) : Measured b (s.pulseLine w l) := by
  unfold State.pulseLine
  dsimp only
  split
  · exact measured_judgeLine (measured_onLine h l _) l
  · exact h

theorem measured_pulseLines (h : Measured b s) (w : Nat) : Measured b (s.pulseLines w) :=
  measured_forEach _ (fun l _ ht => measured_pulseLine ht w l) h

theorem measured_latchLine (h : Measured b s) (k : AlarmClass) (l : Line) : Measured b (s.latchLine k l) := by
  unfold State.latchLine
  dsimp only
  split
  · exact measured_onLine h l _
  · exact h

theorem measured_alarm (h : Measured b s) (r : Raise) : Measured b (s.alarm r) := by
  unfold State.alarm
  exact measured_judgeLines (measured_forEach _ (fun l _ ht => measured_latchLine ht _ l)
    (measured_raiseIf (measured_onAou h _) _ _))

theorem measured_alarmIf (h : Measured b s) (c : Bool) (r : Raise) : Measured b (s.alarmIf c r) := by
  unfold State.alarmIf; split
  · exact measured_alarm h r
  · exact h

theorem measured_onLinked (h : Measured b s) (p : PartRef) (f : AlarmEntry → AlarmEntry) : Measured b (s.onLinked p f) :=
  measured_onAou h _

theorem measured_recordSettlement (h : Measured b s) (p : PartRef) (st : Settlement) : Measured b (s.recordSettlement p st) :=
  measured_onLinked h p _

theorem measured_unlink (h : Measured b s) (p : PartRef) : Measured b (s.unlink p) := measured_onLinked h p _

theorem measured_evaluateLoad (h : Measured b s) (i : Nat) : Measured b (s.evaluateLoad i) := by
  unfold State.evaluateLoad
  split
  · exact h
  · split
    · split
      · exact h
      · dsimp only
        split
        · exact measured_alarmIf (measured_alarmIf h _ _) _ _
        · exact measured_alarmIf h _ _
    · exact h

theorem measured_evaluateImpactCrit (h : Measured b s) (i : Nat) (r : Rail) (p : ImpactPart) : Measured b (s.evaluateImpactCrit i r p) := by
  unfold State.evaluateImpactCrit
  split
  · exact measured_alarmIf h _ _
  · exact h

theorem measured_evaluateImpact (h : Measured b s) (i : Nat) (r : Rail) (p : ImpactPart) : Measured b (s.evaluateImpact i r p) := by
  unfold State.evaluateImpact
  split
  · exact measured_alarm h _
  · split
    · exact measured_alarm h _
    · exact h
  · exact h
  · exact h

theorem measured_recomputeImpactPart (h : Measured b s) (i : Nat) (r : Rail) : Measured b (s.recomputeImpactPart i r) := by
  unfold State.recomputeImpactPart
  split
  · exact h
  · dsimp only
    split
    · exact measured_evaluateImpact (measured_onAxle h _ _) _ _ _
    · exact measured_onAxle h _ _

theorem measured_evaluateHot (h : Measured b s) (i : Nat) (r : Rail) (p : BearingPart) : Measured b (s.evaluateHot i r p) := by
  unfold State.evaluateHot
  split
  · exact measured_alarmIf h _ _
  · exact h

theorem measured_evaluateWarm (h : Measured b s) (i : Nat) (r : Rail) (p : BearingPart) : Measured b (s.evaluateWarm i r p) := by
  unfold State.evaluateWarm
  split
  · exact measured_alarmIf h _ _
  · exact h

theorem measured_evaluateDiff (h : Measured b s) (i : Nat) : Measured b (s.evaluateDiff i) := by
  unfold State.evaluateDiff
  split
  · split
    · exact measured_alarmIf h _ _
    · exact h
  · exact h

theorem measured_evaluateOutlier (h : Measured b s) (r : Rail) (l : Int) (p : Nat × BearingPart) : Measured b (s.evaluateOutlier r l p) := by
  unfold State.evaluateOutlier
  split
  · exact measured_alarmIf h _ _
  · exact h

theorem measured_outlierSide (h : Measured b s) (r : Rail) : Measured b (s.outlierSide r) := by
  unfold State.outlierSide
  split
  · exact h
  · dsimp only
    split
    · exact measured_onPassage h _
    · exact measured_forEach _ (fun _ _ ht => measured_evaluateOutlier ht _ _ _) h

theorem measured_outlierCheck (h : Measured b s) : Measured b s.outlierCheck := measured_outlierSide (measured_outlierSide h .left) .right

theorem measured_judgeVehicle (h : Measured b s) (v : Vehicle) : Measured b (s.judgeVehicle v) := by
  have h1 : Measured b (match v.gross, (typesOf s.tables).find? fun t => t.code == v.code with
      | some g, some t =>
        s.alarmIf (v.code ≠ 0 && decide (t.maxGross < g))
          ⟨.vehicleOver, v.number, none, (g : Int), (t.maxGross : Int), evalSource v.eval, none⟩
      | _, _ => s) := by
    split
    · exact measured_alarmIf h _ _
    · exact h
  unfold State.judgeVehicle
  dsimp only
  split
  · exact measured_alarmIf h1 _ _
  · exact h1

theorem measured_putVehicle (h : Measured b s) (v : Vehicle) : Measured b (s.putVehicle v) :=
  measured_onPassage h _

theorem measured_evaluateVehicle (h : Measured b s) (v : Vehicle) : Measured b (s.evaluateVehicle v) := by
  unfold State.evaluateVehicle
  split
  · exact h
  · exact measured_judgeVehicle (measured_putVehicle h _) _

theorem measured_refreshVehicle (h : Measured b s) (v : Vehicle) : Measured b (s.refreshVehicle v) := by
  unfold State.refreshVehicle
  split
  · exact h
  · dsimp only
    split
    · exact measured_evaluateVehicle (measured_putVehicle h _) _
    · exact measured_putVehicle h _

theorem measured_handVehicle (h : Measured b s) (i : Nat) : Measured b (s.handVehicle i) := by
  unfold State.handVehicle
  split
  · split
    · exact measured_refreshVehicle h _
    · exact h
  · exact h

theorem measured_putPassage (h : Measured b s) {p q : Passage} (hp : s.passage = some p) (hq : q.moved = p.moved) :
    Measured b { s with passage := some q } := { h with moved := by rw [← h.moved, hp]; exact congrArg some hq }

/-- Numbering the members of a vehicle keeps the rest of their records. -/
theorem moved_numberAxles (v : Vehicle) (l : List AxleRecord) :
    (numberAxles v l).map AxleRecord.moved = l.map AxleRecord.moved := by
  unfold numberAxles
  rw [List.map_map]
  refine List.map_congr_left fun a _ => ?_
  dsimp only [Function.comp]
  split <;> rfl

theorem measured_makeVehicle (h : Measured b s) (c n : Nat) (e : Bool) : Measured b (s.makeVehicle c n e) := by
  unfold State.makeVehicle
  split
  · exact h
  · next p hp =>
    dsimp only
    split
    · exact measured_refreshVehicle (measured_putPassage h hp
        (congrArg (fun l => { p.moved with axles := l }) (moved_numberAxles _ p.axles))) _
    · exact measured_putPassage h hp rfl

theorem measured_segment (c : Bool) (n : Nat) (h : Measured b s) : Measured b (s.segment c n) := by
  induction n generalizing s with
  | zero => exact h
  | succ n ih =>
    unfold State.segment
    split
    · exact h
    · split
      · exact h
      · split
        · exact h
        · exact ih (measured_makeVehicle h _ _ _)

theorem measured_segmentAttempt (h : Measured b s) (c : Bool) : Measured b (s.segmentAttempt c) := measured_segment c _ h

theorem measured_closingEvaluation (h : Measured b s) : Measured b s.closingEvaluation := by
  unfold State.closingEvaluation
  split
  · exact h
  · refine measured_forEach _ (fun v t ht => ?_) h
    split
    · split
      · exact ht
      · exact measured_evaluateVehicle ht v
    · exact ht

theorem measured_settleAs (h : Measured b s) (i : Nat) (k : PartKind) (r : Rail) (st : Settlement) (e : Option Nat) :
    Measured b (s.settleAs i k r st e) := by
  have h2 := measured_recordSettlement (measured_onAxle h i (onCommon k r fun c => { c with settlement := st, posError := e })
    fun a => by cases k <;> rfl) ⟨i, k, r⟩ st
  unfold State.settleAs
  dsimp only
  split
  · exact measured_handVehicle (measured_evaluateLoad (measured_onAxle h2 _ _) _) _
  · split
    · exact measured_evaluateImpact h2 _ _ _
    · exact h2
  · split
    · exact measured_evaluateDiff (measured_evaluateWarm h2 _ _ _) _
    · exact h2

theorem measured_settlePart (h : Measured b s) (i : Nat) (c : Settling) (p : PartKind × Rail) : Measured b (s.settlePart i c p) := by
  unfold State.settlePart
  split
  · split
    · exact measured_settleAs h _ _ _ _ _
    · exact h
  · exact h

theorem measured_settleAxle (h : Measured b s) (i : Nat) (c : Settling) : Measured b (s.settleAxle i c) :=
  measured_forEach _ (fun p _ ht => measured_settlePart ht i c p) h

theorem measured_finalisePart (h : Measured b s) (i : Nat) (p : PartKind × Rail) : Measured b (s.finalisePart i p) := by
  unfold State.finalisePart
  split
  · split
    · exact measured_settleAs h _ _ _ _ _
    · exact h
  · exact h

theorem measured_finalise (h : Measured b s) : Measured b s.finalise :=
  measured_forEach _ (fun i _ ht => measured_forEach _ (fun p _ hu => measured_finalisePart hu i p) ht) h

theorem measured_storePart (h : Measured b s) (c : Context) (t : LoopTime) (k : PartKind) : Measured b (s.storePart c t k) := by
  unfold State.storePart
  split
  · exact measured_recomputeImpactPart (measured_onAxle h _ _) _ _
  · exact measured_evaluateImpactCrit (measured_onAxle (measured_unlink h _) _ _) _ _ _
  · exact measured_evaluateHot (measured_onAxle (measured_unlink h _) _ _) _ _ _

theorem measured_contexts (h : Measured b s) (f : List Context → List Context) :
    Measured b (s.onPassage fun p => { p with contexts := f p.contexts }) := measured_onPassage h _

theorem measured_dropContext (h : Measured b s) (i n : Nat) : Measured b (s.dropContext i n) :=
  measured_contexts h _

theorem measured_dropContexts (h : Measured b s) (i : Nat) : Measured b (s.dropContexts i) :=
  measured_contexts h _

theorem measured_closeComplete (h : Measured b s) (c : Context) (t : LoopTime) : Measured b (s.closeComplete c t) := by
  have h1 := measured_dropContext h c.axle c.window
  unfold State.closeComplete
  dsimp only
  split
  · exact h1
  · split
    · exact h1
    · split
      · exact measured_settlePart (measured_storePart h1 _ _ _) _ _ _
      · exact measured_storePart h1 _ _ _

theorem measured_openContext (h : Measured b s) (n : Nat) (w : Window) (t : LoopTime) (i : Nat) : Measured b (s.openContext n w t i) := by
  unfold State.openContext
  split
  · exact h
  · next p hp =>
    split
    · exact h
    · split
      · next hl =>
        exact measured_onPassage h _
      · have h1 := measured_onAxle h i (loseContext n w) fun a => by unfold loseContext; cases w.kind <;> rfl
        exact measured_onPassage h1 _

theorem measured_closeBeyond (h : Measured b s) (n : Nat) (w : Window) (t : LoopTime) (i : Nat) : Measured b (s.closeBeyond n w t i) := by
  unfold State.closeBeyond
  split
  · split
    · exact measured_closeComplete h _ _
    · exact h
  · exact h

theorem measured_paceWindow (h : Measured b s) (t : LoopTime) (w : Nat × Window) : Measured b (s.paceWindow t w) :=
  measured_forEach _ (fun i _ ht => measured_openContext ht _ _ _ i) (measured_forEach _ (fun i _ ht => measured_closeBeyond ht _ _ _ i) h)

theorem measured_pace (h : Measured b s) (l : List Nat) (c : Nat) (t : LoopTime) : Measured b (s.pace l c t) := by
  unfold State.pace
  split
  · exact h
  · exact measured_forEach _ (fun w _ ht => measured_paceWindow ht t w) h

theorem measured_giveSample (h : Measured b s) (e : ChannelEntry) (y : LineSample) (l : List Nat) (f : Context → Bool) :
    Measured b (s.giveSample e y l f) := by
  unfold State.giveSample
  split
  · exact h
  · exact measured_contexts h _
  · exact measured_onPassage h _

theorem measured_attributeSample (h : Measured b s) (y : LineSample) : Measured b (s.attributeSample y) := by
  unfold State.attributeSample
  split
  · split
    · exact measured_giveSample h _ _ _ _
    · split
      · split
        · exact measured_giveSample h _ _ _ _
        · exact h
      · exact h
    · exact h
  · exact h

theorem measured_winSample (h : Measured b s) (l : List LineSample) (y : LineSample) : Measured b (s.winSample l y) := by
  unfold State.winSample
  split
  · exact measured_attributeSample (measured_pace h _ _ _) y
  · exact h

theorem measured_gapFlag (h : Measured b s) (n : Nat) : Measured b (s.gapFlag n) := measured_onPassage h _

theorem measured_winCrossing (h : Measured b s) (i : Nat) (e : HistEntry) : Measured b (s.winCrossing i e) := by
  unfold State.winCrossing
  split
  · exact h
  · dsimp only
    refine measured_onAxle (measured_settleAxle ?_ _ _) _ _
    split
    · exact measured_onAxle (measured_dropContexts h i) _ _
    · split
      · exact measured_contexts h _
      · exact measured_dropContexts h i

end Sys2Proof.Machine
end

