-- ==== Sys2Proof/Laws/Settled.lean ====
section
/-! SUPPORT. Settled: what storing and settling a part do to the parts of the axle records (R59 to R65), and that judging, recomputing an impact and the vehicles leave the parts and the contexts alone. -/

namespace Sys2Proof.Machine

set_option Elab.async false

/-! ### What judgments and vehicles leave alone -/

/-- An impact part but for what its recomputation writes (R108). -/
def ImpactPart.source (p : ImpactPart) : ImpactPart := { p with ratio := none, noRatio := none, level := .none, levelHeld := false }

/-- An axle record but for its vehicle number and what an impact's recomputation writes. -/
def AxleRecord.parts (a : AxleRecord) : AxleRecord :=
  { a with impact := a.impact.map (Option.map ImpactPart.source), vehicle := none }

/-- A passage context but for its flags, its vehicles and what an impact's recomputation writes. -/
def Passage.parts (p : Passage) : Passage :=
  { p with
    axles := p.axles.map AxleRecord.parts
    flags := ⟨false, false, false, false, false, false⟩
    segmentStart := 0, vehicles := [], vehicleCount := 0 }

/-- `t` has the parts, the contexts and the crossings of `b`. -/
def Judged (b t : State) : Prop := t.passage.map Passage.parts = b.passage.map Passage.parts

variable {b s : State}

theorem judged_self (s : State) : Judged s s := rfl

theorem Judged.trans {a b c : State} (h : Judged a b) (g : Judged b c) : Judged a c := Eq.trans g h

/-- The same passage context is the same parts. -/
theorem judged_same {t : State} (h : Judged b s) (e : t.passage = s.passage) : Judged b t := by
  unfold Judged
  rw [e]
  exact h

theorem judged_onPassage (h : Judged b s) (f : Passage → Passage) (hf : ∀ p, (f p).parts = p.parts := by intro p; rfl) :
    Judged b (s.onPassage f) :=
  ((Option.map_map Passage.parts f s.passage).trans
    (congrArg (fun g => s.passage.map g) (funext hf : Passage.parts ∘ f = Passage.parts))).trans h

/-- A change of one record that keeps its parts keeps those of every record. -/
theorem parts_modify {f : AxleRecord → AxleRecord} {l : List AxleRecord} {i : Nat} (hf : ∀ a, l[i]? = some a → (f a).parts = a.parts) :
    (l.modify i f).map AxleRecord.parts = l.map AxleRecord.parts := by
  induction l generalizing i with
  | nil => cases i <;> rfl
  | cons a l ih =>
    cases i with
    | zero => exact congrArg (· :: l.map AxleRecord.parts) (hf a rfl)
    | succ i => exact congrArg (a.parts :: ·) (ih hf)

/-- A raise leaves the passage context alone (R136, R137). -/
@[simp] theorem passage_alarm (s : State) (r : Raise) : (s.alarm r).passage = s.passage := by
  unfold State.alarm
  rw [passage_judgeLines, forEach_keeps (fun t => t.passage) fun l t => ?_, passage_raiseIf, passage_onAou]
  unfold State.latchLine
  dsimp only
  split <;> rfl

@[simp] theorem passage_alarmIf (s : State) (c : Bool) (r : Raise) : (s.alarmIf c r).passage = s.passage := by
  unfold State.alarmIf
  split
  · exact passage_alarm s r
  · rfl

@[simp] theorem passage_evaluateLoad (s : State) (i : Nat) : (s.evaluateLoad i).passage = s.passage := by
  unfold State.evaluateLoad
  split
  · rfl
  · split
    · split
      · rfl
      · dsimp only
        split <;> simp
    · rfl

@[simp] theorem passage_evaluateImpactCrit (s : State) (i : Nat) (r : Rail) (p : ImpactPart) : (s.evaluateImpactCrit i r p).passage = s.passage := by
  unfold State.evaluateImpactCrit
  split
  · exact passage_alarmIf s _ _
  · rfl

@[simp] theorem passage_evaluateImpact (s : State) (i : Nat) (r : Rail) (p : ImpactPart) : (s.evaluateImpact i r p).passage = s.passage := by
  unfold State.evaluateImpact
  split
  · exact passage_alarm s _
  · split
    · exact passage_alarm s _
    · rfl
  · rfl
  · rfl

@[simp] theorem passage_evaluateHot (s : State) (i : Nat) (r : Rail) (p : BearingPart) : (s.evaluateHot i r p).passage = s.passage := by
  unfold State.evaluateHot
  split
  · exact passage_alarmIf s _ _
  · rfl

@[simp] theorem passage_evaluateWarm (s : State) (i : Nat) (r : Rail) (p : BearingPart) : (s.evaluateWarm i r p).passage = s.passage := by
  unfold State.evaluateWarm
  split
  · exact passage_alarmIf s _ _
  · rfl

@[simp] theorem passage_evaluateDiff (s : State) (i : Nat) : (s.evaluateDiff i).passage = s.passage := by
  unfold State.evaluateDiff
  split
  · split
    · exact passage_alarmIf s _ _
    · rfl
  · rfl

@[simp] theorem passage_judgeVehicle (s : State) (v : Vehicle) : (s.judgeVehicle v).passage = s.passage := by
  unfold State.judgeVehicle
  dsimp only
  repeat' split
  all_goals simp

theorem judged_evaluateVehicle (h : Judged b s) (v : Vehicle) : Judged b (s.evaluateVehicle v) := by
  unfold State.evaluateVehicle
  split
  · exact h
  · exact judged_same (judged_onPassage h _) (passage_judgeVehicle _ _)

theorem judged_refreshVehicle (h : Judged b s) (v : Vehicle) : Judged b (s.refreshVehicle v) := by
  unfold State.refreshVehicle
  split
  · exact h
  · dsimp only
    split
    · exact judged_evaluateVehicle (judged_onPassage h _) _
    · exact judged_onPassage h _

theorem judged_handVehicle (h : Judged b s) (i : Nat) : Judged b (s.handVehicle i) := by
  unfold State.handVehicle
  split
  · split
    · exact judged_refreshVehicle h _
    · exact h
  · exact h

/-- Numbering the members of a vehicle keeps the parts of their records. -/
theorem parts_numberAxles (v : Vehicle) (l : List AxleRecord) : (numberAxles v l).map AxleRecord.parts = l.map AxleRecord.parts := by
  unfold numberAxles
  rw [List.map_map]
  refine List.map_congr_left fun a _ => ?_
  dsimp only [Function.comp]
  split <;> rfl

theorem judged_makeVehicle (h : Judged b s) (c n : Nat) (e : Bool) : Judged b (s.makeVehicle c n e) := by
  unfold State.makeVehicle
  split
  · exact h
  · next p hp =>
    have h' : some p.parts = b.passage.map Passage.parts := by
      unfold Judged at h
      rw [← h, hp]
      rfl
    dsimp only
    split
    · refine judged_refreshVehicle (Eq.trans ?_ h') _
      exact congrArg (fun l => some ({ p.parts with axles := l } : Passage)) (parts_numberAxles _ p.axles)
    · exact h'

/-- An attempt of the segmenter leaves the parts and the contexts alone (R89). -/
theorem judged_segmentAttempt (h : Judged b s) (c : Bool) : Judged b (s.segmentAttempt c) := by
  unfold State.segmentAttempt
  generalize s.axleNumbers.length + 1 = n
  induction n generalizing s with
  | zero => exact h
  | succ n ih =>
    unfold State.segment
    split
    · exact h
    · split
      · exact h
      · split
        · exact h
        · exact ih (judged_makeVehicle h _ _ _)

/-- Writing a part of a rail that is there, but for what a recomputation writes, keeps the parts. -/
theorem parts_recompute {a : AxleRecord} {r : Rail} {p : ImpactPart} (h : a.impact.get r = some p) (m : ImpactLimits) (load : Option Int) :
    ({ a with impact := a.impact.set r (some (recomputeImpact m load p)) } : AxleRecord).parts = a.parts := by
  cases r
  · exact congrArg (fun x => ({ a with impact := ⟨x, a.impact.right.map ImpactPart.source⟩, vehicle := none } : AxleRecord))
      (congrArg (Option.map ImpactPart.source) (h.symm ▸ rfl : some p = a.impact.left) : some p.source = a.impact.left.map ImpactPart.source)
  · exact congrArg (fun x => ({ a with impact := ⟨a.impact.left.map ImpactPart.source, x⟩, vehicle := none } : AxleRecord))
      (congrArg (Option.map ImpactPart.source) (h.symm ▸ rfl : some p = a.impact.right) : some p.source = a.impact.right.map ImpactPart.source)

/-- A record of the current passage, by its place in the list. -/
theorem axle_at {i : Nat} {a : AxleRecord} (h : s.axle i = some a) : ∃ p, s.passage = some p ∧ i ≠ 0 ∧ p.axles[i - 1]? = some a := by
  obtain ⟨p, hp, ha⟩ := Option.bind_eq_some_iff.mp h
  unfold Passage.axle at ha
  split at ha
  · cases ha
  · next hi => exact ⟨p, hp, hi, ha⟩

theorem judged_recomputeImpactPart (h : Judged b s) (i : Nat) (r : Rail) : Judged b (s.recomputeImpactPart i r) := by
  unfold State.recomputeImpactPart
  split
  · exact h
  · next p hp =>
    obtain ⟨a, ha, hr⟩ := Option.bind_eq_some_iff.mp hp
    obtain ⟨q, hq, _, hi⟩ := axle_at ha
    have h1 : Judged b (s.onAxle i fun x => { x with impact := x.impact.set r (some (recomputeImpact s.impactLimits (s.loadOf i r) p)) }) := by
      refine Eq.trans ?_ h
      rw [show (s.onAxle i fun x => { x with impact := x.impact.set r (some (recomputeImpact s.impactLimits (s.loadOf i r) p)) }).passage
        = s.passage.map fun y => { y with axles := y.axles.modify (i - 1) fun x =>
            { x with impact := x.impact.set r (some (recomputeImpact s.impactLimits (s.loadOf i r) p)) } } from rfl, hq]
      exact congrArg (fun l => some ({ q.parts with axles := l } : Passage))
        (parts_modify fun x hx => parts_recompute (by cases hi.symm.trans hx; exact hr) _ _)
    dsimp only
    split
    · exact judged_same h1 (passage_evaluateImpact _ _ _ _)
    · exact h1

/-! ### The parts of one axle -/

/-- What WIN keeps of a part stands in its record's parts. -/
@[simp] theorem commonOf_parts (a : AxleRecord) (k : PartKind) (r : Rail) : commonOf a.parts k r = commonOf a k r := by
  cases k
  · rfl
  · have e : ∀ x : Option ImpactPart, (x.map ImpactPart.source).map (·.common) = x.map (·.common) := fun x => by cases x <;> rfl
    cases r
    · exact e a.impact.left
    · exact e a.impact.right
  · rfl

/-- The records of two states with the same parts, side by side. -/
theorem Judged.axle (h : Judged b s) {i : Nat} {a : AxleRecord} (ha : b.axle i = some a) : ∃ x, s.axle i = some x ∧ x.parts = a.parts := by
  obtain ⟨p, hp, hi, hl⟩ := axle_at ha
  unfold Judged at h
  rw [hp] at h
  obtain ⟨q, hq, he⟩ := Option.map_eq_some_iff.mp h
  have e : (q.axles.map AxleRecord.parts)[i - 1]? = (p.axles.map AxleRecord.parts)[i - 1]? := congrArg (fun y : Passage => y.axles[i - 1]?) he
  rw [List.getElem?_map, List.getElem?_map, hl] at e
  obtain ⟨x, hx, hy⟩ := Option.map_eq_some_iff.mp e
  refine ⟨x, ?_, hy⟩
  unfold State.axle Passage.axle
  rw [hq, Option.bind_some, if_neg hi]
  exact hx

/-- Two states with the same parts have the same contexts and entry direction. -/
theorem Judged.contexts (h : Judged b s) {p : Passage} (hp : b.passage = some p) :
    ∃ q, s.passage = some q ∧ q.contexts = p.contexts ∧ q.dir = p.dir := by
  unfold Judged at h
  rw [hp] at h
  obtain ⟨q, hq, he⟩ := Option.map_eq_some_iff.mp h
  exact ⟨q, hq, show q.parts.contexts = p.parts.contexts from congrArg (fun x : Passage => x.contexts) he,
    show q.parts.dir = p.parts.dir from congrArg (fun x : Passage => x.dir) he⟩

/-- The record of an axle after a change of one record. -/
theorem axle_onAxle (s : State) (i j : Nat) (f : AxleRecord → AxleRecord) (hi : i ≠ 0) :
    (s.onAxle i f).axle j = (s.axle j).map fun a => if j = i then f a else a := by
  unfold State.axle State.onAxle State.onPassage Passage.axle
  cases s.passage with
  | none => rfl
  | some p =>
    by_cases hj : j = 0
    · subst hj
      rfl
    · simp only [Option.map_some, Option.bind_some, if_neg hj, List.getElem?_modify]
      by_cases e : j = i
      · subst e
        simp
      · simp only [if_neg e, if_neg (show ¬ i - 1 = j - 1 by omega)]
        cases p.axles[j - 1]? <;> rfl

/-- A change of one part's common changes that part alone. -/
theorem commonOf_onCommon (k m : PartKind) (r q : Rail) (f : PartCommon → PartCommon) (a : AxleRecord) :
    commonOf (onCommon k r f a) m q = if m = k ∧ q = r then (commonOf a k r).map f else commonOf a m q := by
  cases k <;> cases m <;> cases r <;> cases q <;>
    simp [commonOf, onCommon, PerRail.get, PerRail.set, Option.map_map, Function.comp_def]

@[simp] theorem commonOf_weighAxle (a : AxleRecord) (k : PartKind) (r : Rail) : commonOf (weighAxle a) k r = commonOf a k r := by
  cases k <;> rfl

/-! ### Settling a part (R62, R64) -/

/-- The record that a settled part leaves before judgments: its part's common is written, and a load part's axle is weighed anew (R62, R81). -/
def settledRecord (k : PartKind) (r : Rail) (st : Settlement) (e : Option Nat) (a : AxleRecord) : AxleRecord :=
  let x := onCommon k r (fun c => { c with settlement := st, posError := e }) a
  match k with
  | .load => weighAxle x
  | .impact | .bearing => x

/-- A settlement writes its part's record; the judgments that follow leave the parts alone (R62 to R65). -/
theorem judged_settleAs (s : State) (i : Nat) (k : PartKind) (r : Rail) (st : Settlement) (e : Option Nat) :
    Judged (s.onAxle i (settledRecord k r st e)) (s.settleAs i k r st e) := by
  cases k
  · have h : Judged (s.onAxle i (settledRecord .load r st e))
        (State.onAxle i weighAxle (State.recordSettlement ⟨i, .load, r⟩ st (s.onAxle i (onCommon .load r fun c => { c with settlement := st, posError := e })))) := by
      unfold Judged State.onAxle State.recordSettlement State.onLinked State.onPassage State.onAou
      dsimp only
      rw [Option.map_map, Option.map_map, Option.map_map]
      congr 1
      funext p
      simp only [Function.comp, List.modify_modify_eq]
      rfl
    exact judged_handVehicle (judged_same h (passage_evaluateLoad _ _)) i
  · have h : (State.recordSettlement ⟨i, .impact, r⟩ st (s.onAxle i (onCommon .impact r fun c => { c with settlement := st, posError := e }))).passage
        = (s.onAxle i (settledRecord .impact r st e)).passage := rfl
    unfold State.settleAs
    dsimp only
    split
    · exact judged_same (judged_self _) ((passage_evaluateImpact _ _ _ _).trans h)
    · exact judged_same (judged_self _) h
  · have h : (State.recordSettlement ⟨i, .bearing, r⟩ st (s.onAxle i (onCommon .bearing r fun c => { c with settlement := st, posError := e }))).passage
        = (s.onAxle i (settledRecord .bearing r st e)).passage := rfl
    unfold State.settleAs
    dsimp only
    split
    · exact judged_same (judged_self _) ((passage_evaluateDiff _ _).trans ((passage_evaluateWarm _ _ _ _).trans h))
    · exact judged_same (judged_self _) h

theorem commonOf_settledRecord (k m : PartKind) (r q : Rail) (st : Settlement) (e : Option Nat) (a : AxleRecord) :
    commonOf (settledRecord k r st e a) m q
      = if m = k ∧ q = r then (commonOf a k r).map fun c => { c with settlement := st, posError := e } else commonOf a m q := by
  rw [← commonOf_onCommon]
  cases k
  · exact commonOf_weighAxle _ _ _
  · rfl
  · rfl

/-- What settling leaves of a record beside its parts: the lost-context marks and REVERSED_IN_WINDOW (R54, R60). -/
theorem marks_settledRecord (k : PartKind) (r : Rail) (st : Settlement) (e : Option Nat) (a : AxleRecord) :
    (settledRecord k r st e a).lostWindows = a.lostWindows ∧ (settledRecord k r st e a).reversedInWindow = a.reversedInWindow := by
  cases k <;> exact ⟨rfl, rfl⟩

/-- The record of an axle after a part has been settled (R62, R64). -/
theorem axle_settleAs {i j : Nat} {a : AxleRecord} (ha : s.axle j = some a) (k : PartKind) (r : Rail) (st : Settlement) (e : Option Nat) (hi : i ≠ 0) :
    ∃ x, (s.settleAs i k r st e).axle j = some x
      ∧ (∀ m q, commonOf x m q = if j = i ∧ m = k ∧ q = r then (commonOf a m q).map (fun c => { c with settlement := st, posError := e }) else commonOf a m q)
      ∧ x.lostWindows = a.lostWindows ∧ x.reversedInWindow = a.reversedInWindow := by
  have h1 := axle_onAxle s i j (settledRecord k r st e) hi
  rw [ha, Option.map_some] at h1
  obtain ⟨x, hx, hp⟩ := (judged_settleAs s i k r st e).axle h1
  have hl := congrArg (fun y : AxleRecord => (y.lostWindows, y.reversedInWindow)) hp
  refine ⟨x, hx, fun m q => ?_, ?_⟩
  · rw [← commonOf_parts x, hp, commonOf_parts]
    by_cases e1 : j = i
    · rw [if_pos e1, commonOf_settledRecord]
      by_cases e2 : m = k ∧ q = r
      · rw [if_pos e2, if_pos ⟨e1, e2⟩, e2.1, e2.2]
      · rw [if_neg e2, if_neg fun h => e2 h.2]
    · rw [if_neg e1, if_neg fun h => e1 h.1]
  · have e2 : (x.lostWindows, x.reversedInWindow) = (a.lostWindows, a.reversedInWindow) := by
      refine Eq.trans hl ?_
      split
      · exact Prod.ext (marks_settledRecord k r st e a).1 (marks_settledRecord k r st e a).2
      · rfl
    exact ⟨congrArg Prod.fst e2, congrArg Prod.snd e2⟩

/-- Settling a part leaves the contexts and the entry direction alone. -/
theorem contexts_settleAs {p : Passage} (hp : s.passage = some p) (i : Nat) (k : PartKind) (r : Rail) (st : Settlement) (e : Option Nat) :
    ∃ q, (s.settleAs i k r st e).passage = some q ∧ q.contexts = p.contexts ∧ q.dir = p.dir := by
  have h : (s.onAxle i (settledRecord k r st e)).passage = some { p with axles := p.axles.modify (i - 1) (settledRecord k r st e) } := by
    unfold State.onAxle State.onPassage
    rw [hp]
    rfl
  obtain ⟨q, hq, hc, hd⟩ := (judged_settleAs s i k r st e).contexts h
  exact ⟨q, hq, hc, hd⟩

/-- A verdict settles: it is never PROVISIONAL (R62). -/
theorem settleVerdict_settles (g : Tables) (tol : Nat) (d : Direction) (b : Basis) (x : Settling) : (settleVerdict g tol d b x).1 ≠ .provisional := by
  unfold settleVerdict
  split
  · decide
  · dsimp only
    split <;> decide

/-- A PROVISIONAL part is settled by its verdict, every other part of the axle stands (R62). -/
theorem settlePart_provisional {i : Nat} {p : Passage} {a : AxleRecord} {c : PartCommon} (x : Settling) (k : PartKind) (r : Rail)
    (hp : s.passage = some p) (ha : s.axle i = some a) (hc : commonOf a k r = some c) (hs : c.settlement = .provisional) :
    s.settlePart i x (k, r) = s.settleAs i k r (settleVerdict s.tables s.positionTolerance p.dir c.basis x).1
      (settleVerdict s.tables s.positionTolerance p.dir c.basis x).2 := by
  unfold State.settlePart
  rw [hp, ha, Option.bind_some, hc]
  exact if_pos hs

/-- A part that is not PROVISIONAL, or not there, is not settled (R62). -/
theorem settlePart_settled {i : Nat} (x : Settling) (k : PartKind) (r : Rail)
    (h : ∀ a c, s.axle i = some a → commonOf a k r = some c → c.settlement ≠ .provisional) : s.settlePart i x (k, r) = s := by
  unfold State.settlePart
  split
  · next p c _ hc =>
    obtain ⟨a, ha, hc⟩ := Option.bind_eq_some_iff.mp hc
    exact if_neg (h a c ha hc)
  · rfl

/-- Settling one part: its own is not PROVISIONAL afterwards, the others, the marks and the contexts stand (R62). -/
theorem settlePart_next {i : Nat} {p : Passage} {a : AxleRecord} (x : Settling) (k : PartKind) (r : Rail)
    (hp : s.passage = some p) (ha : s.axle i = some a) :
    (∃ q, (s.settlePart i x (k, r)).passage = some q ∧ q.contexts = p.contexts ∧ q.dir = p.dir)
    ∧ ∃ y, (s.settlePart i x (k, r)).axle i = some y ∧ y.lostWindows = a.lostWindows ∧ y.reversedInWindow = a.reversedInWindow
      ∧ (∀ c, commonOf y k r = some c → c.settlement ≠ .provisional)
      ∧ (∀ m q, ¬ (m = k ∧ q = r) → commonOf y m q = commonOf a m q) := by
  obtain ⟨_, _, hi, _⟩ := axle_at ha
  by_cases h : ∃ c, commonOf a k r = some c ∧ c.settlement = .provisional
  · obtain ⟨c, hc, hs⟩ := h
    rw [settlePart_provisional x k r hp ha hc hs]
    obtain ⟨y, hy, h1, h2, h3⟩ := axle_settleAs ha k r (settleVerdict s.tables s.positionTolerance p.dir c.basis x).1
      (settleVerdict s.tables s.positionTolerance p.dir c.basis x).2 hi
    refine ⟨contexts_settleAs hp _ _ _ _ _, y, hy, h2, h3, fun d hd => ?_, fun m q hm => ?_⟩
    · rw [h1, if_pos ⟨rfl, rfl, rfl⟩, hc] at hd
      cases hd
      exact settleVerdict_settles _ _ _ _ _
    · rw [h1, if_neg fun h => hm h.2]
  · have h0 : ∀ c, commonOf a k r = some c → c.settlement ≠ .provisional := fun c hc hs => h ⟨c, hc, hs⟩
    rw [settlePart_settled x k r fun b c hb hc => by cases ha.symm.trans hb; exact h0 c hc]
    exact ⟨⟨p, hp, rfl, rfl⟩, a, ha, rfl, rfl, h0, fun _ _ _ => rfl⟩

/-- Settling some parts of an axle in turn: none of them is PROVISIONAL afterwards, the marks and the contexts stand (R62). -/
theorem settleParts_next {i : Nat} (x : Settling) (l : List (PartKind × Rail)) (s : State) {p : Passage} {a : AxleRecord}
    (hp : s.passage = some p) (ha : s.axle i = some a) :
    (∃ q, (forEach l (State.settlePart i x) s).passage = some q ∧ q.contexts = p.contexts ∧ q.dir = p.dir)
    ∧ ∃ y, (forEach l (State.settlePart i x) s).axle i = some y ∧ y.lostWindows = a.lostWindows ∧ y.reversedInWindow = a.reversedInWindow
      ∧ (∀ k r c, (k, r) ∈ l ∨ (∀ d, commonOf a k r = some d → d.settlement ≠ .provisional) → commonOf y k r = some c → c.settlement ≠ .provisional) := by
  induction l generalizing s p a with
  | nil => exact ⟨⟨p, hp, rfl, rfl⟩, a, ha, rfl, rfl, fun k r c h hc => (h.resolve_left (List.not_mem_nil)) c hc⟩
  | cons z l ih =>
    obtain ⟨k, r⟩ := z
    obtain ⟨⟨q, hq, hc1, hd1⟩, y, hy, hl1, hr1, hs1, ho1⟩ := settlePart_next x k r hp ha
    obtain ⟨⟨q2, hq2, hc2, hd2⟩, y2, hy2, hl2, hr2, hs2⟩ := ih (s.settlePart i x (k, r)) hq hy
    refine ⟨⟨q2, hq2, hc2.trans hc1, hd2.trans hd1⟩, y2, hy2, hl2.trans hl1, hr2.trans hr1, fun m w c h hc => hs2 m w c ?_ hc⟩
    by_cases e : m = k ∧ w = r
    · exact .inr (by rw [e.1, e.2]; exact hs1)
    · rcases h with h | h
      · exact .inl ((List.mem_cons.mp h).resolve_left fun g => e ⟨congrArg Prod.fst g, congrArg Prod.snd g⟩)
      · exact .inr (by rw [ho1 m w e]; exact h)

/-- Settling an axle leaves no PROVISIONAL part, and lets its marks and the contexts stand (R62). -/
theorem settleAxle_next {i : Nat} {p : Passage} {a : AxleRecord} (x : Settling) (hp : s.passage = some p) (ha : s.axle i = some a) :
    (∃ q, (s.settleAxle i x).passage = some q ∧ q.contexts = p.contexts ∧ q.dir = p.dir)
    ∧ ∃ y, (s.settleAxle i x).axle i = some y ∧ y.lostWindows = a.lostWindows ∧ y.reversedInWindow = a.reversedInWindow
      ∧ ∀ k r c, commonOf y k r = some c → c.settlement ≠ .provisional := by
  obtain ⟨h, y, hy, hl, hr, hs⟩ := settleParts_next x partOrder s hp ha
  refine ⟨h, y, hy, hl, hr, fun k r c hc => hs k r c (.inl ?_) hc⟩
  cases k <;> cases r <;> simp [partOrder]

/-- Without a record there is nothing of an axle to settle (R62). -/
theorem settleAxle_none {i : Nat} (x : Settling) (h : s.axle i = none) : s.settleAxle i x = s := by
  unfold State.settleAxle forEach
  have e : ∀ z : PartKind × Rail, s.settlePart i x z = s := fun z => settlePart_settled x z.1 z.2 fun a c ha => by rw [h] at ha; cases ha
  simp only [partOrder, List.foldl_cons, List.foldl_nil, e]

/-! ### Storing a part (R59, R63, R65) -/

/-- A stored part stands on its record with the common that WIN gives it (R59). -/
theorem axle_storePart {c : Context} {k : PartKind} {a : AxleRecord} (t : LoopTime) (ha : s.axle c.axle = some a) :
    ∃ y, (s.storePart c t k).axle c.axle = some y
      ∧ commonOf y k c.rail = some ⟨.provisional, t, c.basis.speed, c.flags, none, c.basis⟩ := by
  obtain ⟨_, _, hi, _⟩ := axle_at ha
  have use : ∀ (u : State) (f : AxleRecord → AxleRecord), u.passage = s.passage → Judged (u.onAxle c.axle f) (s.storePart c t k) →
      commonOf (f a) k c.rail = some (partCommon c t) → ∃ y, (s.storePart c t k).axle c.axle = some y
        ∧ commonOf y k c.rail = some ⟨.provisional, t, c.basis.speed, c.flags, none, c.basis⟩ := fun u f hu h e => by
    have h1 := axle_onAxle u c.axle c.axle f hi
    rw [show u.axle c.axle = some a by unfold State.axle; rw [hu]; exact ha, Option.map_some, if_pos rfl] at h1
    obtain ⟨y, hy, hp⟩ := h.axle h1
    exact ⟨y, hy, by rw [← commonOf_parts, hp, commonOf_parts]; exact e⟩
  cases k
  · exact use s _ rfl (judged_recomputeImpactPart rfl _ _) (by cases hr : c.rail <;> rfl)
  · exact use (s.unlink ⟨c.axle, .impact, c.rail⟩) _ rfl (judged_same rfl (passage_evaluateImpactCrit _ _ _ _)) (by cases hr : c.rail <;> rfl)
  · exact use (s.unlink ⟨c.axle, .bearing, c.rail⟩) _ rfl (judged_same rfl (passage_evaluateHot _ _ _ _)) (by cases hr : c.rail <;> rfl)

end Sys2Proof.Machine
end

