-- ==== Sys2Proof/Laws/Heard.lean ====
section
/-! SUPPORT. Heard: what FRAME_RECEIVED does with a frame that the part consumes in LOCKED, by its kind (R6, R10, R11, R25, R188, R191). -/

namespace Sys2Proof.Machine

set_option Elab.async false

variable {s : State} {bytes : List Byte} {f : Frame}

/-! ### What forwarding and hearing leave alone -/

@[simp] theorem pending_forwardFrame (s : State) (o : List Byte) : (s.forwardFrame o).pending = s.pending := by
  unfold State.forwardFrame; split <;> simp
@[simp] theorem now_forwardFrame (s : State) (o : List Byte) : (s.forwardFrame o).now = s.now := by
  unfold State.forwardFrame; split <;> simp
@[simp] theorem tables_forwardFrame (s : State) (o : List Byte) : (s.forwardFrame o).tables = s.tables := by
  unfold State.forwardFrame; split <;> simp
@[simp] theorem commit_forwardFrame (s : State) (o : List Byte) : (s.forwardFrame o).commit = s.commit := by
  unfold State.forwardFrame; split <;> simp
@[simp] theorem sin_forwardFrame (s : State) (o : List Byte) : (s.forwardFrame o).sin = s.sin := by
  unfold State.forwardFrame; split <;> simp
@[simp] theorem axt_forwardFrame (s : State) (o : List Byte) : (s.forwardFrame o).axt = s.axt := by
  unfold State.forwardFrame; split <;> simp
@[simp] theorem passage_forwardFrame (s : State) (o : List Byte) : (s.forwardFrame o).passage = s.passage := by
  unfold State.forwardFrame; split <;> simp
@[simp] theorem brg_forwardFrame (s : State) (o : List Byte) : (s.forwardFrame o).brg = s.brg := by
  unfold State.forwardFrame; split <;> simp
@[simp] theorem aou_forwardFrame (s : State) (o : List Byte) : (s.forwardFrame o).aou = s.aou := by
  unfold State.forwardFrame; split <;> simp
@[simp] theorem scu_forwardFrame (s : State) (o : List Byte) : (s.forwardFrame o).scu = s.scu := by
  unfold State.forwardFrame; split <;> simp

@[simp] theorem now_heard (s : State) (dt : Nat) (f : Frame) : (s.heard dt f).now = later s.now dt := by
  unfold State.heard; dsimp only; split <;> simp
@[simp] theorem tables_heard (s : State) (dt : Nat) (f : Frame) : (s.heard dt f).tables = s.tables := by
  unfold State.heard; dsimp only; split <;> simp
@[simp] theorem commit_heard (s : State) (dt : Nat) (f : Frame) : (s.heard dt f).commit = s.commit := by
  unfold State.heard; dsimp only; split <;> simp
@[simp] theorem sin_heard (s : State) (dt : Nat) (f : Frame) : (s.heard dt f).sin = (s.elapse dt).sin := by
  unfold State.heard; dsimp only; split <;> simp
@[simp] theorem axt_heard (s : State) (dt : Nat) (f : Frame) : (s.heard dt f).axt = s.axt := by
  unfold State.heard; dsimp only; split <;> simp
@[simp] theorem passage_heard (s : State) (dt : Nat) (f : Frame) : (s.heard dt f).passage = (s.elapse dt).passage := by
  unfold State.heard; dsimp only; split <;> simp
@[simp] theorem brg_heard (s : State) (dt : Nat) (f : Frame) : (s.heard dt f).brg = (s.elapse dt).brg := by
  unfold State.heard; dsimp only; split <;> simp
@[simp] theorem aou_heard (s : State) (dt : Nat) (f : Frame) : (s.heard dt f).aou = (s.elapse dt).aou := by
  unfold State.heard; dsimp only; split <;> simp
@[simp] theorem scu_heard (s : State) (dt : Nat) (f : Frame) : (s.heard dt f).scu = (s.elapse dt).scu := by
  unfold State.heard; dsimp only; split <;> simp

/-! ### FRAME_RECEIVED of a frame that is consumed -/

/-- A frame that passes its check in LOCKED is handled with the quiet timer started anew (R187, R188). -/
theorem exec_locked (dt : Nat) (hp : s.powered = true) (hl : s.lif.locked = true) (hf : checkFrame bytes = some f) :
    exec (.frameReceived dt s.lif.rate bytes) s
      = .next (((s.elapse dt).onLif fun l => { l with quiet := some s.quietLimit }).handleFrame f) := by
  rw [exec_frameReceived, timed_powered s dt _ hp]
  congr 1
  unfold State.receive
  rw [if_pos (by simp [hl])]
  unfold State.frameLocked
  simp only [lif_elapse, rate_tickLif, hf, if_true]
  rfl

/-- A foreign frame of kind SMP, CRS or NST, addressed to the part or broadcast, reaches its block (R188). -/
theorem handleFrame_traffic (ho : ownSource s.lif f.source = false) (ha : f.dest = s.lif.station ∨ f.dest = 255)
    (hk : f.kind = 1 ∨ f.kind = 2 ∨ f.kind = 3) :
    s.handleFrame f = (if f.dest = s.lif.station then s else s.forwardFrame f.octets).takeTraffic f := by
  unfold State.handleFrame
  rw [ho]
  simp only [Bool.false_eq_true, if_false]
  by_cases hd : f.dest = s.lif.station
  · rw [if_pos hd, if_pos hd]
    unfold State.takeAddressed
    rcases hk with hk | hk | hk <;> rw [hk] <;> rfl
  · rw [if_neg hd, if_neg hd, if_pos (show f.dest = Config.broadcast from ha.resolve_left hd)]

/-- The stations of which LIF strips a frame do not change with time. -/
theorem ownSource_elapse (s : State) (dt n : Nat) : ownSource (s.elapse dt).lif n = ownSource s.lif n := by
  unfold ownSource
  cases h : s.lif.strip <;> simp [tickLif, h]

/-- FRAME_RECEIVED of a consumed frame of kind SMP, CRS or NST is its block taking it (R188). -/
theorem exec_traffic (dt : Nat) (h : s.Hears bytes f) (hk : f.kind = 1 ∨ f.kind = 2 ∨ f.kind = 3) :
    exec (.frameReceived dt s.lif.rate bytes) s = .next ((s.heard dt f).takeTraffic f) := by
  rw [exec_locked dt h.powered h.locked h.check]
  exact congrArg _ (handleFrame_traffic ((ownSource_elapse s dt f.source).trans h.foreign) h.address hk)

/-- An SMP frame of the form its node requires, in OFFLINE no more than elsewhere, is judged by its order and offered to the line (R10, R11). -/
theorem takeSmp_samples {t : State} {node : Nat} {e : NodeEntry} (h : s.Samples f node e) (ht : t.tables = s.tables) (hs : t.scu.site = s.scu.site) :
    t.takeSmp f.source f.payload = t.acceptSmp node e (byteAt f.payload 1) f.payload := by
  unfold State.takeSmp
  rw [hs, if_neg h.site, ht, h.station, Option.bind_some, h.entry]
  dsimp only [Option.map_some]
  rw [if_neg h.digitizer, if_pos ⟨h.channels, h.least, h.most, by rw [h.channels]; exact h.length⟩]

/-- An SMP frame of another form is malformed (R10). -/
theorem takeSmp_malformed {t : State} {node : Nat} {e : NodeEntry} (hk : f.kind = 1) (hs : t.scu.site ≠ .offline) (hn : nodeAt t.tables f.source = some node)
    (he : nodeEntry t.tables node = some e) (hd : e.kind ≠ .transducer) (h : ¬ t.Samples f node e) :
    t.takeSmp f.source f.payload = t.onSinCounters fun c => { c with malformed := bump c.malformed } := by
  unfold State.takeSmp
  rw [if_neg hs, hn, Option.bind_some, he]
  dsimp only [Option.map_some]
  rw [if_neg hd]
  refine if_neg fun c => h ⟨hk, hs, hn, he, hd, c.1, c.2.1, c.2.2.1, ?_⟩
  rw [← c.1]
  exact c.2.2.2

end Sys2Proof.Machine
end

