-- ==== Sys2Proof/Laws/Kept.lean ====
section
/-! SUPPORT. Kept: the fields an operation leaves alone and the capacities it keeps, said once for each update of a block and each shared operation. -/

namespace Sys2Proof.Machine

set_option Elab.async false

/-- The fields that most operations leave alone; `site`, `running` and `current` are the site state, whether a check runs and whether a passage context stands, and `free` promises that LIF may take a command. -/
structure Fixed where
  pending : List Instr
  powered : Bool
  pins : Pins
  store : SettingsStore
  conds : List SectionCond
  now : LoopTime
  tables : Tables
  invalid : List Bool
  site : SiteState
  running : Bool
  current : Bool
  free : Bool

/-- The state shows the fixed fields and is within every capacity. -/
structure Kept (x : Fixed) (s : State) : Prop where
  pending : s.pending = x.pending
  powered : s.powered = x.powered
  pins : s.pins = x.pins
  store : s.store = x.store
  conds : s.conds = x.conds
  now : s.now = x.now
  tables : s.tables = x.tables
  invalid : s.invalid = x.invalid
  site : s.scu.site = x.site
  running : runningStatus s.scu.check = x.running
  current : s.passage.isSome = x.current
  free : x.free = true → s.lif.free = true
  lif : s.lif.Within
  crossings : s.axt.queue.length ≤ Config.crossingQueueDepth
  passage : ∀ p, s.passage = some p → p.Within
  alarms : s.aou.alarms.entries.length ≤ Config.alarmListDepth
  slots : s.rps.slots.length = 4
  ring : s.rps.ring.length ≤ Config.summaryRingDepth
  line : s.sin.line.length ≤ Config.delayLineDepth
  history : s.sin.history.length ≤ Config.ambientDepth
  leftRecord : s.brg.records.left.changes.length ≤ Config.feedbackDepth
  rightRecord : s.brg.records.right.changes.length ≤ Config.feedbackDepth

/-- The fixed fields of a state, with nothing promised of LIF. -/
def State.fixed (s : State) : Fixed where
  pending := s.pending
  powered := s.powered
  pins := s.pins
  store := s.store
  conds := s.conds
  now := s.now
  tables := s.tables
  invalid := s.invalid
  site := s.scu.site
  running := runningStatus s.scu.check
  current := s.passage.isSome
  free := false

/-- Fixed fields of a coupled state: the site state decides the rest. -/
def Fixed.Fits (x : Fixed) : Prop := x.current = passageSite x.site ∧ x.running = (x.site == .checking)

/-- A state within its capacities is kept with its own fixed fields. -/
theorem kept_self {s : State} (h : s.Within) : Kept s.fixed s :=
  ⟨rfl, rfl, rfl, rfl, rfl, rfl, rfl, rfl, rfl, rfl, rfl, nofun, h.lif, h.crossings, h.passage, h.alarms, h.slots, h.ring,
    h.line, h.history, h.leftRecord, h.rightRecord⟩

/-- The fixed fields of a state within its capacities are coupled. -/
theorem fits_fixed {s : State} (h : s.Within) : s.fixed.Fits := ⟨h.coupled.passage, h.coupled.check⟩

/-- A kept state whose fixed fields are coupled is within its capacities. -/
theorem within_of_kept {x : Fixed} {s : State} (h : Kept x s) (hx : x.Fits) : s.Within where
  lif := h.lif
  crossings := h.crossings
  passage := h.passage
  alarms := h.alarms
  slots := h.slots
  ring := h.ring
  line := h.line
  history := h.history
  leftRecord := h.leftRecord
  rightRecord := h.rightRecord
  coupled := ⟨by rw [h.current, h.site]; exact hx.1, by rw [h.running, h.site]; exact hx.2⟩

variable {x : Fixed} {s : State}

/-- The promise about LIF may be dropped. -/
theorem Kept.drop (h : Kept x s) : Kept { x with free := false } s := { h with free := nofun }

/-- The promise about LIF may be given where it holds. -/
theorem Kept.give (h : Kept x s) (b : Bool) (hb : b = true → s.lif.free = true) : Kept { x with free := b } s :=
  { h with free := hb }

/-! ### Updates of one block -/

/-- An update of LIF keeps everything if it keeps LIF. -/
theorem kept_onLif (h : Kept x s) {f : Lif → Lif} (hw : (f s.lif).Within) (hf : s.lif.free = true → (f s.lif).free = true) :
    Kept x (s.onLif f) :=
  { h with lif := hw, free := fun e => hf (h.free e) }

/-- An update of LIF of which nothing is promised keeps everything if it keeps LIF. -/
theorem kept_onLif' (h : Kept x s) (hx : x.free = false) {f : Lif → Lif} (hw : (f s.lif).Within) : Kept x (s.onLif f) :=
  { h with lif := hw, free := fun e => by rw [hx] at e; cases e }

/-- An update of SIN keeps everything if it keeps the history and lets the delay line grow by nothing. -/
theorem kept_onSin (h : Kept x s) {f : Sin → Sin} (hw : (f s.sin).history.length ≤ Config.ambientDepth)
    (hl : (f s.sin).line.length ≤ s.sin.line.length := by exact Nat.le_refl _) : Kept x (s.onSin f) :=
  { h with history := hw, line := Nat.le_trans hl h.line }

/-- An update of AXT keeps everything if it keeps the crossing queue. -/
theorem kept_onAxt (h : Kept x s) {f : Axt → Axt} (hw : (f s.axt).queue.length ≤ Config.crossingQueueDepth) :
    Kept x (s.onAxt f) :=
  { h with crossings := hw }

/-- An update of the passage context keeps everything if it keeps the context. -/
theorem kept_onPassage (h : Kept x s) {f : Passage → Passage} (hw : ∀ p, s.passage = some p → (f p).Within) :
    Kept x (s.onPassage f) :=
  { h with
    current := by rw [← h.current]; exact Option.isSome_map
    passage := fun p hp => by
      obtain ⟨q, hq, rfl⟩ := Option.map_eq_some_iff.mp hp
      exact hw q hq }

/-- An update of BRG keeps everything if it keeps the feedback records. -/
theorem kept_onBrg (h : Kept x s) {f : Brg → Brg} (hl : (f s.brg).records.left.changes.length ≤ Config.feedbackDepth)
    (hr : (f s.brg).records.right.changes.length ≤ Config.feedbackDepth) : Kept x (s.onBrg f) :=
  { h with leftRecord := hl, rightRecord := hr }

/-- An update of AOU keeps everything if it keeps the alarm list. -/
theorem kept_onAou (h : Kept x s) {f : Aou → Aou} (hw : (f s.aou).alarms.entries.length ≤ Config.alarmListDepth) :
    Kept x (s.onAou f) :=
  { h with alarms := hw }

/-- An update of RPS keeps everything if it keeps the ring and the number of slots. -/
theorem kept_onRps (h : Kept x s) {f : Rps → Rps} (hw : (f s.rps).ring.length ≤ Config.summaryRingDepth)
    (hs : (f s.rps).slots.length = s.rps.slots.length := by rfl) : Kept x (s.onRps f) :=
  { h with ring := hw, slots := hs.trans h.slots }

/-- An update of SCU keeps everything if it keeps the site state and whether a check runs. -/
theorem kept_onScu (h : Kept x s) {f : Scu → Scu} (hs : (f s.scu).site = s.scu.site)
    (hc : runningStatus (f s.scu).check = runningStatus s.scu.check) : Kept x (s.onScu f) :=
  { h with site := hs.trans h.site, running := hc.trans h.running }

/-- An update of SCU that starts or ends a check. -/
theorem kept_onCheck (h : Kept x s) {f : Scu → Scu} {b : Bool} (hs : (f s.scu).site = s.scu.site)
    (hc : runningStatus (f s.scu).check = b) : Kept { x with running := b } (s.onScu f) :=
  { h with site := hs.trans h.site, running := hc }

/-- An update of a line keeps everything. -/
theorem kept_onLine (h : Kept x s) (l : Line) (f : LineState → LineState) : Kept x (s.onLine l f) :=
  kept_onAou h h.alarms

/-- An update of a node keeps everything. -/
theorem kept_onNode (h : Kept x s) (n : Nat) (f : NodeState → NodeState) : Kept x (s.onNode n f) := kept_onSin h h.history

/-- An update of a channel keeps everything. -/
theorem kept_onChannel (h : Kept x s) (c : Nat) (f : ChannelState → ChannelState) : Kept x (s.onChannel c f) :=
  kept_onSin h h.history

/-- What holds of each member holds after a change of one that keeps it. -/
theorem forall_modify {α : Type} {P : α → Prop} {f : α → α} (hf : ∀ a, P a → P (f a)) (l : List α) (i : Nat)
    (h : ∀ a ∈ l, P a) : ∀ a ∈ l.modify i f, P a := by
  induction l generalizing i with
  | nil => exact fun a ha => absurd ha (by simp)
  | cons b l ih =>
    cases i with
    | zero =>
      intro a ha
      rw [List.modify_zero_cons, List.mem_cons] at ha
      rcases ha with rfl | ha
      · exact hf b (h b (List.mem_cons_self ..))
      · exact h a (List.mem_cons_of_mem _ ha)
    | succ i =>
      intro a ha
      rw [List.modify_succ_cons, List.mem_cons] at ha
      rcases ha with rfl | ha
      · exact h a (List.mem_cons_self ..)
      · exact ih i (fun c hc => h c (List.mem_cons_of_mem _ hc)) a ha

/-- What holds of each member holds after a change of all that keeps it. -/
theorem forall_map {α : Type} {P : α → Prop} {f : α → α} (hf : ∀ a, P a → P (f a)) (l : List α) (h : ∀ a ∈ l, P a) :
    ∀ a ∈ l.map f, P a := by
  intro a ha
  obtain ⟨b, hb, rfl⟩ := List.mem_map.mp ha
  exact hf b (h b hb)

/-- A change of an axle record that leaves its history and mark list alone keeps it within its capacities. -/
theorem record_same {a b : AxleRecord} (h : a.Within) (hh : b.history = a.history) (hm : b.marks = a.marks) : b.Within :=
  ⟨hh ▸ h.history, hm ▸ h.marks⟩

/-- An update of an axle record keeps everything if it keeps the record's history and mark list within their capacities. -/
theorem kept_onAxle (h : Kept x s) (i : Nat) (f : AxleRecord → AxleRecord)
    (hf : ∀ a, a.Within → (f a).Within := by intro a ha; exact ⟨ha.history, ha.marks⟩) : Kept x (s.onAxle i f) :=
  kept_onPassage h fun p hp =>
    { h.passage p hp with
      axles := by simpa [List.length_modify] using (h.passage p hp).axles
      records := forall_modify hf _ _ (h.passage p hp).records }

/-! ### Shared operations -/

/-- A fold of operations that each keep everything keeps everything. -/
theorem kept_forEach {α : Type} (l : List α) {f : α → State → State} (hf : ∀ a t, Kept x t → Kept x (f a t)) (h : Kept x s) :
    Kept x (forEach l f s) := by
  unfold forEach
  induction l generalizing s with
  | nil => exact h
  | cons a l ih => exact ih (hf a s h)

/-- A raise of an event keeps everything. -/
theorem kept_raise (h : Kept x s) (k : EventKind) : Kept x (s.raise k) := kept_onRps h h.ring

/-- A conditional raise keeps everything. -/
theorem kept_raiseIf (h : Kept x s) (b : Bool) (k : EventKind) : Kept x (s.raiseIf b k) := by
  unfold State.raiseIf; split
  · exact kept_raise h k
  · exact h

/-- A conditional change keeps everything if the change does. -/
theorem kept_whenever {f : State → State} (h : Kept x s) (b : Bool) (hf : b = true → Kept x (f s)) : Kept x (whenever b f s) := by
  unfold whenever; split
  · next hb => exact hf hb
  · exact h

/-! ### Lines (R142 to R149) -/

theorem kept_judgeLine (h : Kept x s) (l : Line) : Kept x (s.judgeLine l) := kept_onLine h l _

theorem kept_judgeLines (h : Kept x s) : Kept x s.judgeLines := kept_forEach _ (fun l _ ht => kept_judgeLine ht l) h

theorem kept_equipmentChanged (h : Kept x s) : Kept x s.equipmentChanged := kept_judgeLines (kept_raise h _)

theorem kept_equipmentSince (h : Kept x s) (b : State) : Kept x (State.equipmentSince b s) := by
  unfold State.equipmentSince; split
  · exact kept_equipmentChanged h
  · exact h

theorem kept_clearOutputs (h : Kept x s) : Kept x s.clearOutputs := kept_judgeLines (kept_onAou h h.alarms)

theorem kept_pulseLine (h : Kept x s) (w : Nat) (l : Line) : Kept x (s.pulseLine w l) := by
  unfold State.pulseLine
  dsimp only
  split
  · exact kept_judgeLine (kept_onLine h l _) l
  · exact h

theorem kept_pulseLines (h : Kept x s) (w : Nat) : Kept x (s.pulseLines w) :=
  kept_forEach _ (fun l _ ht => kept_pulseLine ht w l) h

theorem kept_latchLine (h : Kept x s) (k : AlarmClass) (l : Line) : Kept x (s.latchLine k l) := by
  unfold State.latchLine
  dsimp only
  split
  · exact kept_onLine h l _
  · exact h

theorem kept_holdLine (h : Kept x s) (l : Line) : Kept x (s.holdLine l) := by
  unfold State.holdLine
  dsimp only
  split
  · exact kept_onLine h l _
  · exact h

theorem kept_holdLines (h : Kept x s) : Kept x s.holdLines := kept_forEach _ (fun l _ ht => kept_holdLine ht l) h

/-! ### Alarms (R134 to R138) -/

/-- A raise keeps the alarm list within its depth (R135, R136). -/
theorem length_raise (r : Raise) (t : LoopTime) (a : AlarmList) (h : a.entries.length ≤ Config.alarmListDepth) :
    (a.raise r t).entries.length ≤ Config.alarmListDepth := by
  unfold AlarmList.raise enterRaise
  split
  · next e he =>
    split at he
    · split at he <;> simp at he
    · split at he
      · next hl => simp only [Entered.created.injEq] at he; subst he; simp; omega
      · simp at he
  · next e he =>
    split at he
    · split at he
      · simp only [Entered.changed.injEq] at he; subst he; simpa using h
      · simp at he
    · split at he <;> simp at he
  · exact h
  · exact h

theorem kept_alarm (h : Kept x s) (r : Raise) : Kept x (s.alarm r) := by
  unfold State.alarm
  exact kept_judgeLines (kept_forEach _ (fun l _ ht => kept_latchLine ht _ l)
    (kept_raiseIf (kept_onAou h (length_raise r s.now s.aou.alarms h.alarms)) _ _))

theorem kept_alarmIf (h : Kept x s) (b : Bool) (r : Raise) : Kept x (s.alarmIf b r) := by
  unfold State.alarmIf; split
  · exact kept_alarm h r
  · exact h

theorem kept_onLinked (h : Kept x s) (p : PartRef) (f : AlarmEntry → AlarmEntry) : Kept x (s.onLinked p f) :=
  kept_onAou h (by simpa using h.alarms)

theorem kept_recordSettlement (h : Kept x s) (p : PartRef) (st : Settlement) : Kept x (s.recordSettlement p st) :=
  kept_onLinked h p _

theorem kept_unlink (h : Kept x s) (p : PartRef) : Kept x (s.unlink p) := kept_onLinked h p _

end Sys2Proof.Machine
end

