-- ==== Sys2Proof/Laws/KeptMeasure.lean ====
section
/-! SUPPORT. The measuring units keep everything: evaluation, shutters, vehicles, contexts and settlement. -/

namespace Sys2Proof.Machine

set_option Elab.async false

variable {x : Fixed} {s : State}

/-! ### Evaluations of loads and impacts -/

theorem kept_evaluateLoad (h : Kept x s) (i : Nat) : Kept x (s.evaluateLoad i) := by
  unfold State.evaluateLoad
  split
  · exact h
  · split
    · split
      · exact h
      · dsimp only
        split
        · exact kept_alarmIf (kept_alarmIf h _ _) _ _
        · exact kept_alarmIf h _ _
    · exact h

theorem kept_evaluateImpactCrit (h : Kept x s) (i : Nat) (r : Rail) (p : ImpactPart) : Kept x (s.evaluateImpactCrit i r p) := by
  unfold State.evaluateImpactCrit
  split
  · exact kept_alarmIf h _ _
  · exact h

theorem kept_evaluateImpact (h : Kept x s) (i : Nat) (r : Rail) (p : ImpactPart) : Kept x (s.evaluateImpact i r p) := by
  unfold State.evaluateImpact
  split
  · exact kept_alarm h _
  · split
    · exact kept_alarm h _
    · exact h
  · exact h
  · exact h

theorem kept_recomputeImpactPart (h : Kept x s) (i : Nat) (r : Rail) : Kept x (s.recomputeImpactPart i r) := by
  unfold State.recomputeImpactPart
  split
  · exact h
  · dsimp only
    split
    · exact kept_evaluateImpact (kept_onAxle h _ _) _ _ _
    · exact kept_onAxle h _ _

/-! ### Shutters (R116 to R119) -/

theorem kept_withBrg (h : Kept x s) {f : Brg → Brg} (hl : (f s.brg).records.left.changes.length ≤ Config.feedbackDepth)
    (hr : (f s.brg).records.right.changes.length ≤ Config.feedbackDepth) : Kept x (s.withBrg f) := by
  unfold State.withBrg
  dsimp only
  split
  · exact kept_onBrg h hl hr
  · exact kept_equipmentChanged (kept_onBrg h hl hr)

theorem kept_openShutters (h : Kept x s) : Kept x s.openShutters := by
  unfold State.openShutters
  split
  · exact kept_withBrg h h.leftRecord h.rightRecord
  · exact h
  · exact kept_onBrg h h.leftRecord h.rightRecord

theorem kept_closeShutters (h : Kept x s) : Kept x s.closeShutters := by
  unfold State.closeShutters
  split
  · exact h
  · exact kept_withBrg h h.leftRecord h.rightRecord
  · exact kept_withBrg h h.leftRecord h.rightRecord

theorem kept_closeWaitClosing (h : Kept x s) : Kept x s.closeWaitClosing := kept_onBrg h h.leftRecord h.rightRecord

theorem kept_closeWaitApproach (h : Kept x s) : Kept x s.closeWaitApproach := by
  unfold State.closeWaitApproach
  split
  · exact kept_onBrg h h.leftRecord h.rightRecord
  · exact h
  · exact h

theorem kept_shuttersAtArmed (h : Kept x s) : Kept x s.shuttersAtArmed := by
  unfold State.shuttersAtArmed
  split
  · split
    · exact kept_openShutters h
    · exact h
    · exact h
  · exact kept_closeWaitApproach h

/-! ### Bearing checks (R126 to R130) -/

theorem kept_evaluateHot (h : Kept x s) (i : Nat) (r : Rail) (p : BearingPart) : Kept x (s.evaluateHot i r p) := by
  unfold State.evaluateHot
  split
  · exact kept_alarmIf h _ _
  · exact h

theorem kept_evaluateWarm (h : Kept x s) (i : Nat) (r : Rail) (p : BearingPart) : Kept x (s.evaluateWarm i r p) := by
  unfold State.evaluateWarm
  split
  · exact kept_alarmIf h _ _
  · exact h

theorem kept_evaluateDiff (h : Kept x s) (i : Nat) : Kept x (s.evaluateDiff i) := by
  unfold State.evaluateDiff
  split
  · split
    · exact kept_alarmIf h _ _
    · exact h
  · exact h

theorem kept_evaluateOutlier (h : Kept x s) (r : Rail) (l : Int) (p : Nat × BearingPart) : Kept x (s.evaluateOutlier r l p) := by
  unfold State.evaluateOutlier
  split
  · exact kept_alarmIf h _ _
  · exact h

theorem kept_outlierSide (h : Kept x s) (r : Rail) : Kept x (s.outlierSide r) := by
  unfold State.outlierSide
  split
  · exact h
  · dsimp only
    split
    · exact kept_onPassage h fun p hp => { h.passage p hp with }
    · exact kept_forEach _ (fun _ _ ht => kept_evaluateOutlier ht _ _ _) h

theorem kept_outlierCheck (h : Kept x s) : Kept x s.outlierCheck := kept_outlierSide (kept_outlierSide h .left) .right

/-! ### Vehicles (R89 to R97) -/

theorem kept_judgeVehicle (h : Kept x s) (v : Vehicle) : Kept x (s.judgeVehicle v) := by
  have h1 : Kept x (match v.gross, (typesOf s.tables).find? fun t => t.code == v.code with
      | some g, some t =>
        s.alarmIf (v.code ≠ 0 && decide (t.maxGross < g))
          ⟨.vehicleOver, v.number, none, (g : Int), (t.maxGross : Int), evalSource v.eval, none⟩
      | _, _ => s) := by
    split
    · exact kept_alarmIf h _ _
    · exact h
  unfold State.judgeVehicle
  dsimp only
  split
  · exact kept_alarmIf h1 _ _
  · exact h1

theorem kept_putVehicle (h : Kept x s) (v : Vehicle) : Kept x (s.putVehicle v) :=
  kept_onPassage h fun p hp => { h.passage p hp with vehicles := by simpa using (h.passage p hp).vehicles }

theorem kept_evaluateVehicle (h : Kept x s) (v : Vehicle) : Kept x (s.evaluateVehicle v) := by
  unfold State.evaluateVehicle
  split
  · exact h
  · exact kept_judgeVehicle (kept_putVehicle h _) _

theorem kept_refreshVehicle (h : Kept x s) (v : Vehicle) : Kept x (s.refreshVehicle v) := by
  unfold State.refreshVehicle
  split
  · exact h
  · dsimp only
    split
    · exact kept_evaluateVehicle (kept_putVehicle h _) _
    · exact kept_putVehicle h _

theorem kept_handVehicle (h : Kept x s) (i : Nat) : Kept x (s.handVehicle i) := by
  unfold State.handVehicle
  split
  · split
    · exact kept_refreshVehicle h _
    · exact h
  · exact h

/-- Replacing the passage context by one within its capacities keeps everything. -/
theorem kept_putPassage (h : Kept x s) {p q : Passage} (hp : s.passage = some p) (hq : q.Within) :
    Kept x { s with passage := some q } :=
  { h with
    current := by rw [← h.current, hp]; rfl
    passage := fun r hr => by cases hr; exact hq }

theorem kept_makeVehicle (h : Kept x s) (c n : Nat) (e : Bool) : Kept x (s.makeVehicle c n e) := by
  unfold State.makeVehicle
  split
  · exact h
  · next p hp =>
    have hw := h.passage p hp
    dsimp only
    split
    · next hl =>
      refine kept_refreshVehicle (kept_putPassage h hp ?_) _
      exact { hw with
        axles := by simpa [numberAxles] using hw.axles
        records := forall_map (fun a ha => by split <;> exact ⟨ha.history, ha.marks⟩) _ hw.records
        vehicles := by simp; omega }
    · exact kept_putPassage h hp { hw with }

theorem kept_segment (c : Bool) (n : Nat) (h : Kept x s) : Kept x (s.segment c n) := by
  induction n generalizing s with
  | zero => exact h
  | succ n ih =>
    unfold State.segment
    split
    · exact h
    · split
      · exact h
      · split
        · exact h
        · exact ih (kept_makeVehicle h _ _ _)

theorem kept_segmentAttempt (h : Kept x s) (c : Bool) : Kept x (s.segmentAttempt c) := kept_segment c _ h

theorem kept_closingEvaluation (h : Kept x s) : Kept x s.closingEvaluation := by
  unfold State.closingEvaluation
  split
  · exact h
  · refine kept_forEach _ (fun v t ht => ?_) h
    split
    · split
      · exact ht
      · exact kept_evaluateVehicle ht v
    · exact ht

/-! ### Settlement and stores (R59, R62 to R65) -/

theorem kept_settleAs (h : Kept x s) (i : Nat) (k : PartKind) (r : Rail) (st : Settlement) (e : Option Nat) :
    Kept x (s.settleAs i k r st e) := by
  have h2 := kept_recordSettlement (kept_onAxle h i (onCommon k r fun c => { c with settlement := st, posError := e })
    fun a ha => by cases k <;> exact ⟨ha.history, ha.marks⟩) ⟨i, k, r⟩ st
  unfold State.settleAs
  dsimp only
  split
  · exact kept_handVehicle (kept_evaluateLoad (kept_onAxle h2 _ _) _) _
  · split
    · exact kept_evaluateImpact h2 _ _ _
    · exact h2
  · split
    · exact kept_evaluateDiff (kept_evaluateWarm h2 _ _ _) _
    · exact h2

theorem kept_settlePart (h : Kept x s) (i : Nat) (c : Settling) (p : PartKind × Rail) : Kept x (s.settlePart i c p) := by
  unfold State.settlePart
  split
  · split
    · exact kept_settleAs h _ _ _ _ _
    · exact h
  · exact h

theorem kept_settleAxle (h : Kept x s) (i : Nat) (c : Settling) : Kept x (s.settleAxle i c) :=
  kept_forEach _ (fun p _ ht => kept_settlePart ht i c p) h

theorem kept_finalisePart (h : Kept x s) (i : Nat) (p : PartKind × Rail) : Kept x (s.finalisePart i p) := by
  unfold State.finalisePart
  split
  · split
    · exact kept_settleAs h _ _ _ _ _
    · exact h
  · exact h

theorem kept_finalise (h : Kept x s) : Kept x s.finalise :=
  kept_forEach _ (fun i _ ht => kept_forEach _ (fun p _ hu => kept_finalisePart hu i p) ht) h

theorem kept_storePart (h : Kept x s) (c : Context) (t : LoopTime) (k : PartKind) : Kept x (s.storePart c t k) := by
  unfold State.storePart
  split
  · exact kept_recomputeImpactPart (kept_onAxle h _ _) _ _
  · exact kept_evaluateImpactCrit (kept_onAxle (kept_unlink h _) _ _) _ _ _
  · exact kept_evaluateHot (kept_onAxle (kept_unlink h _) _ _) _ _ _

/-! ### Contexts (R52 to R60) -/

/-- A change of the context table that makes it no longer keeps everything. -/
theorem kept_contexts (h : Kept x s) {f : List Context → List Context} (hf : ∀ l, (f l).length ≤ l.length) :
    Kept x (s.onPassage fun p => { p with contexts := f p.contexts }) :=
  kept_onPassage h fun p hp => { h.passage p hp with contexts := Nat.le_trans (hf _) (h.passage p hp).contexts }

theorem kept_dropContext (h : Kept x s) (i n : Nat) : Kept x (s.dropContext i n) :=
  kept_contexts h fun l => List.length_filter_le _ l

theorem kept_dropContexts (h : Kept x s) (i : Nat) : Kept x (s.dropContexts i) :=
  kept_contexts h fun l => List.length_filter_le _ l

theorem kept_closeComplete (h : Kept x s) (c : Context) (t : LoopTime) : Kept x (s.closeComplete c t) := by
  have h1 := kept_dropContext h c.axle c.window
  unfold State.closeComplete
  dsimp only
  split
  · exact h1
  · split
    · exact h1
    · split
      · exact kept_settlePart (kept_storePart h1 _ _ _) _ _ _
      · exact kept_storePart h1 _ _ _

theorem kept_openContext (h : Kept x s) (n : Nat) (w : Window) (t : LoopTime) (i : Nat) : Kept x (s.openContext n w t i) := by
  unfold State.openContext
  split
  · exact h
  · next p hp =>
    split
    · exact h
    · split
      · next hl =>
        refine kept_onPassage h fun q hq => ?_
        obtain rfl : p = q := by rw [hp] at hq; exact Option.some.inj hq
        exact { h.passage p hp with contexts := by simp; omega }
      · have h1 := kept_onAxle h i (loseContext n w) fun a ha => by
          unfold loseContext
          dsimp only
          split <;> exact ⟨ha.history, ha.marks⟩
        exact kept_onPassage h1 fun q hq => { h1.passage q hq with }

theorem kept_closeBeyond (h : Kept x s) (n : Nat) (w : Window) (t : LoopTime) (i : Nat) : Kept x (s.closeBeyond n w t i) := by
  unfold State.closeBeyond
  split
  · split
    · exact kept_closeComplete h _ _
    · exact h
  · exact h

theorem kept_paceWindow (h : Kept x s) (t : LoopTime) (w : Nat × Window) : Kept x (s.paceWindow t w) :=
  kept_forEach _ (fun i _ ht => kept_openContext ht _ _ _ i) (kept_forEach _ (fun i _ ht => kept_closeBeyond ht _ _ _ i) h)

theorem kept_pace (h : Kept x s) (l : List Nat) (c : Nat) (t : LoopTime) : Kept x (s.pace l c t) := by
  unfold State.pace
  split
  · exact h
  · exact kept_forEach _ (fun w _ ht => kept_paceWindow ht t w) h

theorem kept_giveSample (h : Kept x s) (e : ChannelEntry) (y : LineSample) (l : List Nat) (f : Context → Bool) :
    Kept x (s.giveSample e y l f) := by
  unfold State.giveSample
  split
  · exact h
  · exact kept_contexts h fun l => by simp
  · exact kept_onPassage h fun p hp => { h.passage p hp with }

theorem kept_attributeSample (h : Kept x s) (y : LineSample) : Kept x (s.attributeSample y) := by
  unfold State.attributeSample
  split
  · split
    · exact kept_giveSample h _ _ _ _
    · split
      · split
        · exact kept_giveSample h _ _ _ _
        · exact h
      · exact h
    · exact h
  · exact h

theorem kept_winSample (h : Kept x s) (l : List LineSample) (y : LineSample) : Kept x (s.winSample l y) := by
  unfold State.winSample
  split
  · exact kept_attributeSample (kept_pace h _ _ _) y
  · exact h

theorem kept_gapFlag (h : Kept x s) (n : Nat) : Kept x (s.gapFlag n) :=
  kept_contexts (f := fun l => l.map fun c => if listsNode s.tables n c then { c with flags := { c.flags with gap := true } } else c)
    h fun l => by simp

theorem kept_winCrossing (h : Kept x s) (i : Nat) (e : HistEntry) : Kept x (s.winCrossing i e) := by
  unfold State.winCrossing
  split
  · exact h
  · dsimp only
    refine kept_onAxle (kept_settleAxle ?_ _ _) _ _
    split
    · exact kept_onAxle (kept_dropContexts h i) _ _
    · split
      · exact kept_contexts h fun l => by simp
      · exact kept_dropContexts h i

end Sys2Proof.Machine
end

