-- ==== Sys2Proof/Laws/KeptLoop.lean ====
section
/-! SUPPORT. The loop interface, the report store and sample intake keep everything: transmission, answers, slots, event notices and the delay line. -/

namespace Sys2Proof.Machine

set_option Elab.async false

variable {x : Fixed} {s : State}

/-! ### LIF on its own (R189, R191, R192) -/

theorem waitingOf_append (k : OwnKind) (l : List OwnFrame) (f : OwnFrame) :
    waitingOf k (l ++ [f]) = waitingOf k l + (if f.kind = k then 1 else 0) := by
  unfold waitingOf
  rw [List.filter_append, List.length_append]
  by_cases hk : f.kind = k <;> simp [hk]

theorem plainAnswers_append (l : List OwnFrame) (f : OwnFrame) :
    plainAnswers (l ++ [f]) = plainAnswers l + (if f.kind = .ans ∧ f.busy = false then 1 else 0) := by
  unfold plainAnswers
  rw [List.filter_append, List.length_append]
  by_cases hk : f.kind = .ans <;> cases hb : f.busy <;> simp [hk, hb]

theorem busy_append (l : List OwnFrame) (f : OwnFrame) :
    ((l ++ [f]).filter fun g => g.busy).length = (l.filter fun g => g.busy).length + (if f.busy then 1 else 0) := by
  rw [List.filter_append, List.length_append]
  cases hb : f.busy <;> simp [hb]

/-- LIF may take a command exactly when none is in progress and no plain answer waits (R192). -/
theorem free_iff (l : Lif) : l.free = true ↔ l.inProgress = none ∧ plainAnswers l.own = 0 := by
  unfold Lif.free plainAnswers
  rw [Bool.and_eq_true, Option.isNone_iff_eq_none, List.length_eq_zero_iff, List.filter_eq_nil_iff, List.all_eq_true]
  refine and_congr_right fun _ => forall₂_congr fun f _ => ?_
  cases f.kind <;> cases f.busy <;> simp

/-- LIF with the first own frame gone is within its capacities, with the same freedom or more. -/
theorem within_tail {l : Lif} {f : OwnFrame} {rest : List OwnFrame} (h : l.Within) (ho : l.own = f :: rest)
    {m : Lif} (hq : m.queue = l.queue) (hf : m.forward = l.forward) (hr : m.own = rest) (hi : m.inProgress = l.inProgress) :
    m.Within ∧ (l.free = true → m.free = true) := by
  have sub : ∀ p : OwnFrame → Bool, (rest.filter p).length ≤ (l.own.filter p).length := fun p => by
    rw [ho]
    exact ((List.sublist_cons_self f rest).filter p).length_le
  refine ⟨⟨by rw [hq]; exact h.queue, by rw [hf]; exact h.forward, ?_, ?_, ?_, ?_, ?_⟩, ?_⟩
  · rw [hr]; exact Nat.le_trans (sub _) h.evt
  · rw [hr]; exact Nat.le_trans (sub _) h.rpt
  · have := h.busy
    unfold busyWaiting at *
    rw [hr]; exact Nat.le_trans (sub _) this
  · rw [hr]; exact Nat.le_trans (sub _) h.plain
  · rw [hr, hi]
    intro hp
    exact Nat.le_zero.mp (Nat.le_trans (sub _) (Nat.le_of_eq (h.waits hp)))
  · rw [free_iff, free_iff, hi, hr]
    rintro ⟨h1, h2⟩
    exact ⟨h1, Nat.le_zero.mp (Nat.le_trans (sub _) (Nat.le_of_eq h2))⟩

/-! ### The transmitter (R189, R190) -/

theorem kept_beginTim (h : Kept x s) : Kept x s.beginTim := kept_onLif h { h.lif with } id

theorem kept_startHoldOff (h : Kept x s) (k : OwnKind) : Kept x (s.startHoldOff k) := by
  unfold State.startHoldOff
  split
  · exact kept_onRps h h.ring
  · exact h
  · exact h

theorem kept_sendOwn (h : Kept x s) {f : OwnFrame} {rest : List OwnFrame} (ho : s.lif.own = f :: rest) :
    Kept x (s.onLif (sendOwn f rest)) := by
  obtain ⟨a, b⟩ := within_tail (m := sendOwn f rest s.lif) h.lif ho (by unfold sendOwn; split <;> rfl)
    (by unfold sendOwn; split <;> rfl) rfl (by unfold sendOwn; split <;> rfl)
  exact kept_onLif h a b

/-- The transmitter takes a waiting frame or none: everything is kept. -/
theorem kept_transmit (h : Kept x s) : Kept x s.transmit := by
  unfold State.transmit
  split
  · split
    · exact kept_beginTim h
    · split
      · next f rest _ ho => exact kept_startHoldOff (kept_sendOwn h ho) _
      · next g more _ hf =>
        refine kept_onLif h { h.lif with forward := ?_ } id
        have := h.lif.forward
        rw [hf] at this
        simp [sendForward] at this ⊢
        omega
      · exact h
  · exact h

/-- An EVT frame is handed over where none waits (R189). -/
theorem kept_handEvt (h : Kept x s) (f : OwnFrame) (hk : f.kind = .evt) (hb : f.busy = false) (he : waitingOf .evt s.lif.own = 0) :
    Kept x (s.handOwn f) := by
  refine kept_transmit (kept_onLif h { h.lif with evt := ?_, rpt := ?_, busy := ?_, plain := ?_, waits := ?_ } ?_)
  · rw [waitingOf_append, he]; split <;> omega
  · rw [waitingOf_append, if_neg (by simp [hk])]; exact h.lif.rpt
  · have := h.lif.busy
    unfold busyWaiting at this ⊢
    rw [busy_append, hb]; exact this
  · rw [plainAnswers_append, if_neg (by simp [hk])]; exact h.lif.plain
  · rw [plainAnswers_append, if_neg (by simp [hk])]; exact h.lif.waits
  · rw [free_iff, free_iff, plainAnswers_append, if_neg (by simp [hk])]; exact id

/-- An RPT frame is handed over where none waits (R160, R189). -/
theorem kept_handRpt (h : Kept x s) (f : OwnFrame) (hk : f.kind = .rpt) (hb : f.busy = false) (he : waitingOf .rpt s.lif.own = 0) :
    Kept x (s.handOwn f) := by
  refine kept_transmit (kept_onLif h { h.lif with evt := ?_, rpt := ?_, busy := ?_, plain := ?_, waits := ?_ } ?_)
  · rw [waitingOf_append, if_neg (by simp [hk])]; exact h.lif.evt
  · rw [waitingOf_append, he]; split <;> omega
  · have := h.lif.busy
    unfold busyWaiting at this ⊢
    rw [busy_append, hb]; exact this
  · rw [plainAnswers_append, if_neg (by simp [hk])]; exact h.lif.plain
  · rw [plainAnswers_append, if_neg (by simp [hk])]; exact h.lif.waits
  · rw [free_iff, free_iff, plainAnswers_append, if_neg (by simp [hk])]; exact id

/-- A REFUSED_BUSY answer is handed over where fewer than three wait (R189). -/
theorem kept_handBusy (h : Kept x s) (f : OwnFrame) (hk : f.kind = .ans) (hb : f.busy = true)
    (hl : busyWaiting s.lif < Config.busyAnswers) : Kept x (s.handOwn f) := by
  refine kept_transmit (kept_onLif h { h.lif with evt := ?_, rpt := ?_, busy := ?_, plain := ?_, waits := ?_ } ?_)
  · rw [waitingOf_append, if_neg (by simp [hk])]; exact h.lif.evt
  · rw [waitingOf_append, if_neg (by simp [hk])]; exact h.lif.rpt
  · unfold busyWaiting at hl ⊢
    rw [busy_append, hb]; exact hl
  · rw [plainAnswers_append, if_neg (by simp [hb])]; exact h.lif.plain
  · rw [plainAnswers_append, if_neg (by simp [hb])]; exact h.lif.waits
  · rw [free_iff, free_iff, plainAnswers_append, if_neg (by simp [hb])]; exact id

/-- The answer of a command taken is handed over while LIF is free, which it then is no longer (R192). -/
theorem kept_handAnswer (h : Kept x s) (f : OwnFrame) (hk : f.kind = .ans) (hb : f.busy = false) (hf : s.lif.free = true) :
    Kept { x with free := false } (s.handOwn f) := by
  obtain ⟨hi, hp⟩ := (free_iff s.lif).mp hf
  refine kept_transmit (kept_onLif' h.drop rfl
    { h.lif with evt := ?_, rpt := ?_, busy := ?_, plain := ?_, waits := ?_ })
  · rw [waitingOf_append, if_neg (by simp [hk])]; exact h.lif.evt
  · rw [waitingOf_append, if_neg (by simp [hk])]; exact h.lif.rpt
  · have := h.lif.busy
    unfold busyWaiting at this ⊢
    rw [busy_append, hb]; exact this
  · rw [plainAnswers_append, hp]; split <;> omega
  · simp [hi]

/-- A frame to forward waits, goes out or is counted: everything is kept (R189). -/
theorem kept_forwardFrame (h : Kept x s) (o : List Byte) : Kept x (s.forwardFrame o) := by
  unfold State.forwardFrame
  split
  · next hl => exact kept_transmit (kept_onLif h { h.lif with forward := by simp; omega } id)
  · exact kept_onLif h { h.lif with } id

/-! ### Answers and the taking of commands (R191, R192) -/

theorem kept_loseAnswer (h : Kept x s) : Kept x (s.onLif loseAnswer) := kept_onLif h { h.lif with } id

/-- A command ends with its answer: LIF gives no more promise (R192). -/
theorem kept_answer (h : Kept x s) (hp : plainAnswers s.lif.own = 0) (c : Nat) (t : Byte) (a : AnswerCode) (d : List Byte) :
    Kept { x with free := false } (s.answer c t a d) := by
  have h1 : Kept { x with free := true } (s.onLif fun l => { l with inProgress := none }) :=
    { h with
      lif := { h.lif with waits := nofun }
      free := fun _ => (free_iff _).mpr ⟨rfl, hp⟩ }
  unfold State.answer
  dsimp only
  split
  · exact kept_handAnswer h1 _ rfl rfl (h1.free rfl)
  · exact (kept_loseAnswer h1).drop

theorem kept_answer_free (h : Kept x s) (hx : x.free = true) (c : Nat) (t : Byte) (a : AnswerCode) (d : List Byte) :
    Kept { x with free := false } (s.answer c t a d) :=
  kept_answer h ((free_iff _).mp (h.free hx)).2 c t a d

theorem kept_answerProgress (h : Kept x s) (c : Nat) (a : AnswerCode) (d : List Byte) :
    Kept { x with free := false } (s.answerProgress c a d) := by
  unfold State.answerProgress
  split
  · exact h.drop
  · next p hp =>
    split
    · exact kept_onLif' h.drop rfl { h.lif with waits := nofun }
    · exact kept_answer h (h.lif.waits (by rw [hp]; rfl)) _ _ _ _

theorem kept_answerBusy (h : Kept x s) (c : Nat) (t : Byte) : Kept x (s.answerBusy c t) := by
  have h1 : Kept x (s.onLif fun l => { l with counters := { l.counters with refusedBusy := bump l.counters.refusedBusy } }) :=
    kept_onLif h { h.lif with } id
  unfold State.answerBusy
  dsimp only
  split
  · next hl => exact kept_handBusy h1 _ rfl rfl hl
  · exact kept_loseAnswer h1

theorem kept_drainOne (h : Kept x s) : Kept { x with free := false } s.drainOne := by
  unfold State.drainOne
  split
  · exact h.drop
  · next c rest hq =>
    split
    · next hf =>
      split
      · have h1 : Kept { x with free := true } (s.onLif fun l => { l with queue := rest }) :=
          kept_onLif (h.give true fun _ => hf)
            { h.lif with queue := by have := h.lif.queue; rw [hq] at this; simp at this ⊢; omega } id
        exact kept_answer_free h1 rfl _ _ _ _
      · exact h.drop
    · exact h.drop

theorem kept_drain (h : Kept x s) : Kept { x with free := false } s.drain :=
  kept_forEach _ (fun _ _ ht => by have hu := kept_drainOne ht; exact hu) h.drop

/-- A command that LIF takes leaves it free (R192). -/
theorem kept_takeCommand (h : Kept x s) (c : Nat) (t : Byte) (a : List Byte) {u : State}
    (hu : s.takeCommand c t a = some u) : Kept { x with free := true } u := by
  unfold State.takeCommand at hu
  split at hu
  · next hf =>
    split at hu
    · cases hu; exact h.give true fun _ => hf
    · next d rest hq =>
      split at hu
      · cases hu
        exact kept_onLif (h.give true fun _ => hf)
          { h.lif with queue := by have := h.lif.queue; rw [hq] at this; simp at this ⊢; omega } id
      · cases hu
  · cases hu

/-! ### The report store (R150 to R165) -/

theorem kept_noteSlot (h : Kept x s) (n : Option Nat) : Kept x (s.noteSlot n) :=
  kept_onPassage h fun p hp => { h.passage p hp with }

theorem kept_cutRead (h : Kept x s) (n : Nat) : Kept x (s.onLif (cutRead n)) :=
  kept_onLif h { h.lif with waits := fun e => h.lif.waits (by simpa [cutRead] using e) } fun e => by
    rw [free_iff] at e ⊢
    exact ⟨by simp [cutRead, e.1], e.2⟩

/-- A slot replaced leaves the number of slots. -/
theorem length_setSlot (r : Rps) (n : Nat) (y : Slot) : (r.setSlot n y).slots.length = r.slots.length := by
  simp [Rps.setSlot]

/-- A report changed leaves the number of slots. -/
theorem length_onReport (r : Rps) (n : Nat) (f : Report → Report) : (r.onReport n f).slots.length = r.slots.length := by
  unfold Rps.onReport
  split
  · exact length_setSlot ..
  · rfl
  · rfl

/-- A sealing leaves the number of slots (R150, R155). -/
theorem length_sealReport (r : Rps) (n : Nat) (p : Passage) (a : AlarmList) : (r.sealReport n p a).slots.length = r.slots.length := by
  unfold Rps.sealReport
  simp only [length_setSlot]
  unfold Rps.nextSeal
  split <;> simp [renumber]

theorem kept_takeSlot (h : Kept x s) (n : Nat) : Kept x (s.takeSlot n) := by
  have h1 := kept_raise h .passageStarted
  unfold State.takeSlot
  dsimp only
  split
  · exact kept_noteSlot (kept_onRps h1 h1.ring (length_setSlot ..)) _
  · next m _ =>
    have h2 : Kept x ((s.raise .passageStarted).onRps fun r => (r.setDetail m .takenOver).setSlot m (.filling n)) :=
      kept_onRps h1 (by simpa [Rps.setSlot, Rps.setDetail] using h1.ring) (length_setSlot ..)
    exact kept_raise (kept_noteSlot (kept_cutRead h2 _) _) _
  · exact kept_raise (kept_noteSlot h1 _) _

theorem length_joinRing (y : Summary) (l : List Summary) : (joinRing y l).length ≤ Config.summaryRingDepth := by
  simp [joinRing]; omega

theorem kept_sealPassage (h : Kept x s) : Kept x s.sealPassage := by
  unfold State.sealPassage
  split
  · exact h
  · dsimp only
    refine kept_raise (kept_onRps ?_ (length_joinRing _ _)) _
    split
    · refine kept_onRps h ?_ (length_sealReport ..)
      simp only [Rps.sealReport, Rps.setSlot, Rps.nextSeal]
      split <;> exact h.ring
    · exact h

theorem ring_onReport (r : Rps) (n : Nat) (f : Report → Report) : (r.onReport n f).ring = r.ring := by
  unfold Rps.onReport; split <;> rfl

theorem kept_endRead (h : Kept x s) (j : ReadJob) : Kept { x with free := false } (s.endRead j) := by
  unfold State.endRead
  split
  · exact kept_answerProgress h _ _ _
  · exact kept_answerProgress (kept_onRps h (by rw [ring_onReport]; exact h.ring) (length_onReport ..)) _ _ _

theorem kept_advanceRead (h : Kept x s) (n : Nat) : Kept x (s.onLif (advanceRead n)) :=
  kept_onLif h { h.lif with waits := fun e => h.lif.waits (by simpa [advanceRead] using e) } fun e => by
    rw [free_iff] at e ⊢
    exact ⟨by simp [advanceRead, e.1], e.2⟩

/-- The next RPT frame goes where none waits (R160, R189). -/
theorem kept_sendRpt (h : Kept x s) (j : ReadJob) (hw : waitingOf .rpt s.lif.own = 0) : Kept { x with free := false } (s.sendRpt j) := by
  unfold State.sendRpt
  split
  · exact kept_endRead h j
  · split
    · exact (kept_advanceRead (kept_handRpt h _ rfl rfl hw) _).drop
    · exact kept_endRead h _
    · exact kept_endRead h _

/-- A read whose next frame may be handed over has no RPT frame waiting (R160). -/
theorem rpt_of_ready {j : ReadJob} (h : s.readReady = some j) : waitingOf .rpt s.lif.own = 0 := by
  have hc : s.lif.rptClear = true := by
    unfold State.readReady at h
    split at h
    · split at h
      · split at h
        · assumption
        · cases h
      · cases h
      · cases h
    · cases h
  unfold waitingOf
  rw [List.length_eq_zero_iff, List.filter_eq_nil_iff]
  intro f hf
  have := List.all_eq_true.mp (Bool.and_eq_true _ _ ▸ hc : _ ∧ _).1 f hf
  simpa using this

/-- An EVT frame may be formed only while none waits (R189). -/
theorem evt_of_ready (h : s.evtReady = true) : waitingOf .evt s.lif.own = 0 := by
  unfold State.evtReady at h
  simp only [Bool.and_eq_true] at h
  unfold waitingOf
  rw [List.length_eq_zero_iff, List.filter_eq_nil_iff]
  intro f hf
  have := List.all_eq_true.mp h.2 f hf
  simpa using this

theorem kept_formEvt (h : Kept x s) (hw : waitingOf .evt s.lif.own = 0) : Kept x s.formEvt := by
  unfold State.formEvt
  dsimp only
  split
  · exact kept_onRps h h.ring
  · exact kept_handEvt (kept_onRps h h.ring) _ rfl rfl hw

/-! ### Sample intake (R6, R10 to R20) -/

theorem kept_onSinCounters (h : Kept x s) (f : SinCounters → SinCounters) : Kept x (s.onSinCounters f) := kept_onSin h h.history

theorem kept_takeNst (h : Kept x s) (n : Nat) : Kept x (s.takeNst n) := by
  unfold State.takeNst
  split
  · exact h
  · split
    · exact h
    · split
      · exact kept_equipmentChanged (kept_onNode h _ _)
      · exact kept_onNode h _ _

theorem length_joinHistory (v : Int) (l : List Int) : (joinHistory v l).length ≤ Config.ambientDepth := by
  simp [joinHistory]; omega

theorem kept_takeConversion (h : Kept x s) (c : Converted) : Kept x (s.takeConversion c) := by
  unfold State.takeConversion
  extract_lets t
  have h1 : Kept x t := by
    unfold t
    split
    · exact kept_onSin h (length_joinHistory _ _)
    · exact kept_onSin h h.history
  split
  · exact h1
  · exact kept_equipmentChanged h1

theorem kept_endGate (h : Kept x s) : Kept x s.endGate := by
  unfold State.endGate
  extract_lets t
  have h1 : Kept x t := by
    unfold t
    split
    · exact kept_takeConversion h _
    · exact h
  exact kept_onSin h1 h1.history

theorem kept_cribRelease (h : Kept x s) (e : ChannelEntry) (y : LineSample) : Kept x (s.cribRelease e y) := by
  unfold State.cribRelease
  split
  · split
    · exact kept_onChannel h _ _
    · exact h
  · split
    · exact kept_onChannel h _ _
    · exact h

theorem kept_scannerRelease (h : Kept x s) (y : LineSample) : Kept x (s.scannerRelease y) := by
  unfold State.scannerRelease
  split
  · split
    · exact kept_onChannel h _ _
    · exact h
  · exact h

theorem kept_releaseSample (h : Kept x s) (l : List LineSample) (y : LineSample) : Kept x (s.releaseSample l y) := by
  refine kept_winSample ?_ l y
  split
  · split
    · exact kept_cribRelease h _ _
    · exact kept_scannerRelease h _
    · exact h
  · exact h

theorem kept_deliver (h : Kept x s) (f : LineFrame) : Kept x (s.deliver f) := by
  refine kept_forEach _ (fun y _ ht => kept_releaseSample ht _ y) ?_
  split
  · exact kept_gapFlag h _
  · exact h

/-- A sample of a released frame leaves the delay line alone. -/
theorem line_releaseSample (l : List LineSample) (y : LineSample) : (s.releaseSample l y).sin.line = s.sin.line := by
  unfold State.releaseSample
  dsimp only
  rw [(measured_winSample (measured_self _) l y).sin]
  split
  · split
    · unfold State.cribRelease
      split
      · split <;> rfl
      · split <;> rfl
    · unfold State.scannerRelease
      split
      · split <;> rfl
      · rfl
    · rfl
  · rfl

/-- Handing a frame to WIN leaves the delay line alone (R19). -/
theorem line_deliver (f : LineFrame) : (s.deliver f).sin.line = s.sin.line := by
  have key : ∀ (l : List LineSample) (t : State), (forEach l (State.releaseSample f.samples) t).sin.line = t.sin.line := by
    intro l
    induction l with
    | nil => exact fun t => rfl
    | cons y l ih => exact fun t => (ih _).trans (line_releaseSample _ y)
  unfold State.deliver
  rw [key]
  split <;> rfl

/-- The head alone leaves the line (R19). -/
theorem line_releaseHead : s.releaseHead.sin.line = s.sin.line.tail := by
  unfold State.releaseHead
  split
  · next hl => rw [hl]; rfl
  · next f rest hl => rw [line_deliver, hl]; rfl

theorem kept_releaseHead (h : Kept x s) : Kept x s.releaseHead := by
  unfold State.releaseHead
  split
  · exact h
  · next f rest hl => exact kept_deliver (kept_onSin h h.history (by rw [hl]; simp)) _

theorem kept_releaseHeads (n : Nat) (h : Kept x s) : Kept x (s.releaseHeads n) := by
  induction n generalizing s with
  | zero => exact h
  | succ n ih => exact ih (kept_releaseHead h)

theorem length_placeFrame (f : LineFrame) (l : List LineFrame) : (placeFrame f l).length = l.length + 1 := by
  induction l with
  | nil => rfl
  | cons g l ih =>
    unfold placeFrame
    split
    · rfl
    · simp [ih]

/-- A frame is placed where the line has room (R18). -/
theorem kept_putFrame (h : Kept x s) (f : LineFrame) (hl : s.sin.line.length < Config.delayLineDepth) : Kept x (s.putFrame f) :=
  { h with line := by show (placeFrame f s.sin.line).length ≤ _; rw [length_placeFrame]; omega }

/-- An early release makes room (R20). -/
theorem line_releaseEarly : s.releaseEarly.sin.line = s.sin.line.tail := by
  unfold State.releaseEarly
  dsimp only
  rw [line_releaseHead]
  split <;> rfl

theorem kept_releaseDueHeads (n : Nat) (h : Kept x s) : Kept x (s.releaseDueHeads n) := by
  induction n generalizing s with
  | zero => exact h
  | succ n ih =>
    unfold State.releaseDueHeads
    split
    · exact h
    · split
      · exact ih (kept_releaseHead h)
      · exact h

theorem kept_releaseDue (h : Kept x s) : Kept x s.releaseDue := kept_releaseDueHeads _ h

theorem kept_releaseEarly (h : Kept x s) : Kept x s.releaseEarly := by
  have h1 := kept_onSinCounters h fun c => { c with early := bump c.early }
  unfold State.releaseEarly
  dsimp only
  refine kept_releaseHead ?_
  split
  · exact kept_onPassage h1 fun p hp => { h1.passage p hp with }
  · exact h1

theorem kept_offerFrame (h : Kept x s) (f : LineFrame) : Kept x (s.offerFrame f) := by
  unfold State.offerFrame
  split
  · exact kept_onSinCounters h _
  · split
    · exact kept_releaseDue (kept_deliver (kept_onSin (kept_releaseHeads _ h) (kept_releaseHeads _ h).history) _)
    · split
      · next hl => exact kept_putFrame h f hl
      · dsimp only
        have h1 := kept_releaseEarly h
        split
        · exact kept_onSinCounters h1 _
        · exact kept_putFrame h1 f (by
            rw [line_releaseEarly, List.length_tail]
            have := h.line
            simp [Config.delayLineDepth] at this ⊢
            omega)

theorem kept_acceptSmp (h : Kept x s) (n : Nat) (e : NodeEntry) (k : Nat) (p : List Byte) : Kept x (s.acceptSmp n e k p) := by
  unfold State.acceptSmp
  dsimp only
  split
  · exact kept_onSinCounters h _
  · exact kept_offerFrame (kept_onNode h _ _) _

theorem kept_takeSmp (h : Kept x s) (n : Nat) (p : List Byte) : Kept x (s.takeSmp n p) := by
  unfold State.takeSmp
  split
  · exact h
  · split
    · exact kept_onSinCounters h _
    · split
      · exact kept_onSinCounters h _
      · dsimp only
        split
        · exact kept_acceptSmp h _ _ _ _
        · exact kept_onSinCounters h _

end Sys2Proof.Machine
end

