-- ==== Sys2Proof/Laws/KeptControl.lean ====
section
/-! SUPPORT. Site Control and the Axle Tracker: what changes of the site state, the channel check and crossings do to the fixed fields, and that they keep every capacity. -/

namespace Sys2Proof.Machine

set_option Elab.async false

variable {x : Fixed} {s : State}

/-! ### Changes of the site state (R169) -/

theorem kept_changeSite (h : Kept x s) (y : SiteState) : Kept { x with site := y } (s.changeSite y) := by
  have h1 : Kept { x with site := y } (s.onScu fun u =>
      { u with
        site := y
        siteFresh := true
        loss := match y with
          | .passage => u.loss
          | .offline | .checking | .armed | .closing => none }) :=
    { h with site := rfl, running := h.running, free := h.free }
  exact kept_raise h1 _

theorem kept_discardPending (h : Kept x s) : Kept x s.discardPending := kept_onSin h h.history

theorem kept_enterOffline (h : Kept x s) : Kept { x with site := .offline } s.enterOffline := by
  have a := kept_discardPending (kept_changeSite h .offline)
  have b := kept_onSin (kept_onLif (kept_onScu a (f := stopChecks) rfl rfl) (f := suspendLink) { a.lif with } id)
    (f := fun y => suspendNodes (emptyLine y)) a.history (Nat.zero_le _)
  have c := kept_contexts (kept_onAxt b (f := emptyQueue) (Nat.zero_le _)) (f := fun _ => []) fun _ => Nat.zero_le _
  have d := kept_closeShutters (kept_onAou c (f := fun y => { y with lines := y.lines.map offlineLine }) c.alarms)
  exact kept_equipmentSince (kept_judgeLines d) s

theorem kept_enterChecking (h : Kept x s) (n : Nat) :
    Kept { x with site := .checking, running := true } (s.enterChecking n) := by
  have a := kept_onCheck (kept_changeSite h .checking) (f := beginCheck n) (b := true) rfl rfl
  exact kept_judgeLines (kept_closeShutters (kept_discardPending a))

theorem kept_startSupervision (h : Kept x s) : Kept x s.startSupervision := by
  unfold State.startSupervision
  split
  · exact kept_onLif h { h.lif with } id
  · exact h

theorem kept_leaveOffline (h : Kept x s) : Kept x s.leaveOffline := by
  have a := kept_startSupervision (kept_onSin h (f := superviseNodes s.tables) h.history)
  exact kept_onAou a a.alarms

theorem kept_enterArmed (h : Kept x s) : Kept { x with site := .armed } s.enterArmed :=
  kept_judgeLines (kept_shuttersAtArmed (kept_changeSite h .armed))

theorem kept_commitTables (h : Kept x s) : Kept x s.commitTables := { h with }

theorem kept_startSite (h : Kept x s) (n : Nat) : Kept { x with site := .checking, running := true } (s.startSite n) :=
  kept_enterChecking (kept_leaveOffline (kept_commitTables
    (kept_onScu h (f := fun u => { u with validation := .passed }) rfl rfl))) n

/-- Auto-arm leaves the site state or starts the site (R175, R183). -/
theorem kept_autoArm (h : Kept x s) (n : Nat) :
    Kept x (s.autoArm n) ∨ Kept { x with site := .checking, running := true } (s.autoArm n) := by
  unfold State.autoArm
  split
  · split
    · exact .inl (kept_onScu h rfl rfl)
    · exact .inr (kept_startSite h n)
  · exact .inl h

/-! ### The channel check (R178 to R181) -/

theorem kept_startInterval (h : Kept x s) : Kept x s.startInterval := kept_onScu h rfl rfl

theorem kept_abortCheck (h : Kept x s) (r : AbortReason) : Kept { x with running := false } (s.abortCheck r) := by
  have a : Kept { x with running := false } (s.onScu fun u =>
      { u with check := .aborted r, checkTime := some s.now, settle := none, phaseTimer := none, endTimer := none }) :=
    kept_onCheck h rfl rfl
  exact kept_startInterval (kept_raise (kept_discardPending a) _)

theorem kept_endChannels (h : Kept x s) : Kept x s.endChannels := by
  have a := kept_onSin h (f := fun n => { n with channels := n.channels.zipIdx.map fun (y, c) => s.endChannel c y }) h.history
  exact kept_equipmentSince (kept_discardPending a) s

theorem kept_endCheck (h : Kept x s) : Kept { x with site := .armed, running := false } s.endCheck := by
  have a : Kept { x with running := false } (s.endChannels.onScu fun u =>
      { u with check := .ended, checkTime := some s.now, settle := none, phaseTimer := none, endTimer := none }) :=
    kept_onCheck (kept_endChannels h) rfl rfl
  exact kept_enterArmed (kept_startInterval (kept_raise a _))

/-- The end of the settle wait leaves the running check or aborts it into ARMED (R178). -/
theorem kept_endSettle (h : Kept x s) (hx : x.running = true) :
    Kept x s.endSettle ∨ Kept { x with site := .armed, running := false } s.endSettle := by
  unfold State.endSettle
  split
  · exact .inr (kept_enterArmed (kept_abortCheck h _))
  · split
    · exact .inl (kept_onScu h rfl (by rw [h.running, hx]; rfl))
    · exact .inr (kept_enterArmed (kept_abortCheck h _))

/-! ### The loop and the controller (R187, R198) -/

theorem within_loseLock {l : Lif} (h : l.Within) : (loseLock l).Within where
  queue := Nat.zero_le _
  forward := Nat.zero_le _
  evt := Nat.le_trans (((List.filter_sublist (l := l.own)).filter _).length_le) h.evt
  rpt := Nat.le_trans (((List.filter_sublist (l := l.own)).filter _).length_le) h.rpt
  busy := by
    have := h.busy
    unfold busyWaiting at this ⊢
    exact Nat.le_trans (((List.filter_sublist (l := l.own)).filter _).length_le) this
  plain := Nat.le_trans (((List.filter_sublist (l := l.own)).filter _).length_le) h.plain
  waits := fun e => by
    refine Nat.le_zero.mp (Nat.le_trans (((List.filter_sublist (l := l.own)).filter _).length_le) (Nat.le_of_eq (h.waits ?_)))
    cases hp : l.inProgress with
    | none => simp [loseLock, hp] at e
    | some p => rfl

theorem free_loseLock {l : Lif} (h : l.free = true) : (loseLock l).free = true := by
  rw [free_iff] at h ⊢
  refine ⟨by simp [loseLock, h.1], ?_⟩
  exact Nat.le_zero.mp (Nat.le_trans (((List.filter_sublist (l := l.own)).filter _).length_le) (Nat.le_of_eq h.2))

theorem kept_startLoss (h : Kept x s) : Kept x s.startLoss := by
  unfold State.startLoss
  split
  · exact kept_onScu h rfl rfl
  · exact h

theorem running_of_sampling (h : s.checkSampling = true) : runningStatus s.scu.check = true := by
  unfold State.checkSampling at h
  cases hc : s.scu.check <;> simp_all [runningStatus]

/-- The loss of the loop leaves the site state, or aborts a running check into ARMED (R180, R187). -/
theorem kept_loseLoop (h : Kept x s) :
    Kept x s.loseLoop ∨ (x.running = true ∧ Kept { x with site := .armed, running := false } s.loseLoop) := by
  have a := kept_startLoss (kept_equipmentChanged (kept_onLif h (within_loseLock h.lif) free_loseLock))
  unfold State.loseLoop
  dsimp only
  split
  · next hc => exact .inr ⟨a.running ▸ running_of_sampling hc, kept_enterArmed (kept_abortCheck a _)⟩
  · exact .inl a

theorem kept_lockLoop (h : Kept x s) : Kept x s.lockLoop := by
  unfold State.lockLoop
  extract_lets t
  have a : Kept x t := kept_transmit (kept_onScu (kept_onLif h (f := gainLock s.quietLimit) { h.lif with } id) rfl rfl)
  split
  · exact kept_raise (kept_equipmentChanged a) _
  · exact a

theorem kept_hearController (h : Kept x s) : Kept x s.hearController := by
  unfold State.hearController
  split
  · exact kept_judgeLines (kept_raise (kept_onLif h { h.lif with } id) _)
  · split
    · exact kept_onLif h { h.lif with } id
    · exact h

theorem kept_loseController (h : Kept x s) : Kept x s.loseController :=
  kept_judgeLines (kept_onLif h { h.lif with } id)

/-! ### Crossing intake (R25, R26) -/

theorem kept_onAxtCounters (h : Kept x s) (f : AxtCounters → AxtCounters) : Kept x (s.onAxtCounters f) :=
  kept_onAxt h h.crossings

theorem kept_onPassageCounters (h : Kept x s) (f : PassageCounters → PassageCounters) : Kept x (s.onPassageCounters f) :=
  kept_onPassage h fun p hp => { h.passage p hp with }

theorem kept_suspectPassage (h : Kept x s) : Kept x s.suspectPassage := by
  unfold State.suspectPassage
  split
  · exact h
  · have a : Kept x (s.onPassage fun p => { p with flags := { p.flags with suspect := true } }) :=
      kept_onPassage h fun p hp => { h.passage p hp with }
    exact kept_equipmentSince a _

theorem kept_overflowCrossing (h : Kept x s) : Kept x s.overflowCrossing := by
  have a := kept_onAxtCounters h fun c => { c with overflow := bump c.overflow }
  unfold State.overflowCrossing
  dsimp only
  split
  · exact kept_suspectPassage a
  · exact kept_onAxt a a.crossings
  · exact a
  · exact a
  · exact a

theorem kept_offerCrossing (h : Kept x s) (c : Crossing) : Kept x (s.offerCrossing c) := by
  unfold State.offerCrossing
  split
  · next hl => exact kept_onAxt h (by simp; omega)
  · exact kept_overflowCrossing h

theorem kept_takeRecord (h : Kept x s) (p : List Byte) (i : Nat) : Kept x (s.takeRecord p i) := by
  unfold State.takeRecord
  split
  · exact kept_onAxtCounters h _
  · split
    · exact kept_onAxtCounters h _
    · exact kept_offerCrossing h _

theorem kept_takeCrs (h : Kept x s) (n : Nat) (p : List Byte) : Kept x (s.takeCrs n p) := by
  unfold State.takeCrs
  split
  · exact kept_forEach _ (fun i _ ht => kept_takeRecord ht p i) h
  · exact kept_onAxtCounters h _

/-! ### The crossing rule (R33, R34) -/

/-- A place of entry order is one of the four (R29). -/
theorem place_of_four (d : Direction) (w : Transducer) :
    entryPlace d w = 1 ∨ entryPlace d w = 2 ∨ entryPlace d w = 3 ∨ entryPlace d w = 4 := by
  cases d <;> cases w <;> decide

/-- A forward crossing that is applied keeps the first law (R32, R33). -/
theorem ordered_forward {c : Counts} {n k i : Nat} (h : c.Ordered n) (hk : k = 1 ∨ k = 2 ∨ k = 3 ∨ k = 4)
    (hr : forwardRule c n k = .forward i) : (c.put k (c.at k + 1)).Ordered n := by
  obtain ⟨h1, h2, h3, h4, h5⟩ := h
  obtain rfl | rfl | rfl | rfl := hk
  · simp only [forwardRule, if_pos] at hr
    split at hr
    · constructor <;> (try simp only [Counts.put, Counts.at]) <;> omega
    · split at hr <;> cases hr
  all_goals
    simp only [forwardRule, Counts.at] at hr
    split at hr
    · omega
    · split at hr
      · constructor <;> (try simp only [Counts.put, Counts.at]) <;> omega
      · cases hr

/-- A new axle keeps the first law with the axle total one higher (R32, R33). -/
theorem ordered_entered {c : Counts} {n k i : Nat} (h : c.Ordered n) (hk : k = 1 ∨ k = 2 ∨ k = 3 ∨ k = 4)
    (hr : forwardRule c n k = .entered i) : i = n + 1 ∧ (c.put k (c.at k + 1)).Ordered (n + 1) := by
  obtain ⟨h1, h2, h3, h4, h5⟩ := h
  obtain rfl | rfl | rfl | rfl := hk
  · simp only [forwardRule, if_pos] at hr
    split at hr
    · cases hr
    · split at hr
      · cases hr
        refine ⟨rfl, ?_⟩
        constructor <;> (try simp only [Counts.put, Counts.at]) <;> omega
      · cases hr
  all_goals
    simp only [forwardRule, Counts.at] at hr
    split at hr
    · omega
    · split at hr <;> cases hr

/-- A backward crossing that is applied keeps the first law (R32, R34). -/
theorem ordered_backward {c : Counts} {n k i : Nat} (h : c.Ordered n) (hk : k = 1 ∨ k = 2 ∨ k = 3 ∨ k = 4)
    (hr : backwardRule c k = .backward i) : (c.put k (c.at k - 1)).Ordered n := by
  obtain ⟨h1, h2, h3, h4, h5⟩ := h
  obtain rfl | rfl | rfl | rfl := hk
  all_goals
    simp only [backwardRule, Counts.at] at hr
    split at hr
    · cases hr
    · split at hr
      · cases hr
      · constructor <;> (try simp only [Counts.put, Counts.at]) <;> omega

end Sys2Proof.Machine
end

