-- ==== Sys2Proof/Laws/KeptTracker.lean ====
section
/-! SUPPORT. The Axle Tracker and CLOSING: a crossing taken, a passage started, a passage ended and closed, and what each leaves of the site state. -/

namespace Sys2Proof.Machine

set_option Elab.async false

variable {x : Fixed} {s : State}

/-! ### Marks (R45 to R47) -/

theorem length_insertMark (m : MarkEntry) (l : List MarkEntry) : (insertMark m l).length = l.length + 1 := by
  induction l with
  | nil => rfl
  | cons a l ih =>
    unfold insertMark
    split
    · rfl
    · simp [ih]

/-- A mark taken leaves at most one entry per window and bound (R47). -/
theorem nodup_noteMark (m : MarkEntry) (l : List MarkRecord) (h : (l.map fun y => (y.window, y.bound)).Nodup) :
    ((noteMark m l).map fun y => (y.window, y.bound)).Nodup := by
  unfold noteMark
  split
  · rw [List.map_map]
    refine (congrArg List.Nodup (List.map_congr_left fun y _ => ?_)).mpr h
    dsimp only [Function.comp]
    split <;> rfl
  · next hn =>
    rw [List.map_append, List.nodup_append]
    refine ⟨h, List.nodup_cons.mpr ⟨List.not_mem_nil, List.nodup_nil⟩, fun a ha b hb hab => hn ?_⟩
    obtain ⟨y, hy, rfl⟩ := List.mem_map.mp ha
    rw [List.map_singleton, List.mem_singleton] at hb
    rw [hb, Prod.mk.injEq] at hab
    exact List.any_eq_true.mpr ⟨y, hy, by simp [hab.1, hab.2]⟩

theorem kept_takeMark (h : Kept x s) : Kept x s.takeMark := by
  unfold State.takeMark
  split
  · exact h
  · next p hp =>
    split
    · exact h
    · next m rest hm =>
      refine kept_pulseLines (kept_onAxle (kept_onPassage h fun q hq => ?_) m.axle
        (fun a => { a with marks := noteMark m a.marks }) fun a ha => ⟨ha.history, nodup_noteMark m _ ha.marks⟩) _
      obtain rfl : p = q := by rw [hp] at hq; exact Option.some.inj hq
      have hw := h.passage p hp
      exact { hw with marks := by have := hw.marks; rw [hm] at this; simp at this ⊢; omega }

theorem kept_takeDueMarks (n : Nat) (h : Kept x s) : Kept x (s.takeDueMarks n) := by
  induction n generalizing s with
  | zero => exact h
  | succ n ih =>
    unfold State.takeDueMarks
    split
    · exact ih (kept_takeMark h)
    · exact h

theorem kept_enterMark (h : Kept x s) (i : Nat) (t : LoopTime) (m : NewMark) : Kept x (s.enterMark i t m) := by
  unfold State.enterMark
  split
  · exact h
  · next p hp =>
    split
    · next hl =>
      refine kept_takeDueMarks _ (kept_onPassage h fun q hq => ?_)
      obtain rfl : p = q := by rw [hp] at hq; exact Option.some.inj hq
      exact { h.passage p hp with marks := by rw [length_insertMark]; omega }
    · exact kept_onPassageCounters h _

theorem kept_scheduleMarks (h : Kept x s) (i : Nat) (e : HistEntry) : Kept x (s.scheduleMarks i e) := by
  unfold State.scheduleMarks
  split
  · exact h
  · extract_lets t
    have a : Kept x t := kept_onPassage h fun p hp =>
      { h.passage p hp with marks := Nat.le_trans (List.length_filter_le _ _) (h.passage p hp).marks }
    split
    · exact a
    · exact kept_forEach _ (fun m _ ht => kept_enterMark ht _ _ m) a

/-! ### Axles (R36 to R42) -/

theorem kept_setAxleSpeed (h : Kept x s) (i : Nat) (t : LoopTime) (v : Option Nat) : Kept x (s.setAxleSpeed i t v) := by
  have a := kept_onAxle h i fun y => { y with reference := some ⟨t, timeDiff s.now t⟩, speed := v }
  exact kept_onAxt a a.crossings

theorem kept_resolveSpacing (h : Kept x s) (i : Nat) : Kept x (s.resolveSpacing i) := by
  unfold State.resolveSpacing
  split
  · split
    · exact kept_segmentAttempt (kept_onAxle h _ _) _
    · exact h
  · exact h

theorem kept_referenceCrossing (h : Kept x s) (i : Nat) (e : HistEntry) : Kept x (s.referenceCrossing i e) := by
  unfold State.referenceCrossing
  split
  · split
    · exact kept_resolveSpacing (kept_setAxleSpeed h _ _ _) _
    · exact h
  · exact h

theorem kept_handOn (h : Kept x s) (i : Nat) (e : HistEntry) : Kept x (s.handOn i e) :=
  kept_scheduleMarks (kept_winCrossing h _ _) _ _

/-- A crossing joins a history of two at most (R38). -/
theorem length_joinCrossing (e : HistEntry) (l : List HistEntry) : (joinCrossing e l).length ≤ 2 := by
  simp [joinCrossing]
  omega

theorem kept_moveAxle (h : Kept x s) (i : Nat) (c : Crossing) (b : Bool) : Kept x (s.moveAxle i c b) := by
  unfold State.moveAxle
  split
  · exact h
  · exact kept_handOn (kept_referenceCrossing (kept_onAxle h i (recordCrossing (s.entryFor i c) b)
      fun a ha => ⟨length_joinCrossing _ _, ha.marks⟩) _ _) _ _

theorem kept_refuseCrossing (h : Kept x s) : Kept x s.refuseCrossing := kept_suspectPassage (kept_onPassageCounters h _)

/-- A count that keeps the first law keeps everything. -/
theorem kept_count (h : Kept x s) (a : Applied) (k : Nat) (hc : ∀ p, s.passage = some p → (countCrossing a k p).Within) :
    Kept x (s.count a k) := by
  have b := kept_onPassage h (f := countCrossing a k) hc
  exact kept_onAxt b b.crossings

/-- The rule and the counts of a crossing agree: what the rule decides keeps the first law (R32 to R34). -/
theorem within_forward {p : Passage} {c : Crossing} {i : Nat} (h : p.Within) (hr : crossingRule p c = .forward i) :
    (countCrossing (.forward i) (entryPlace p.dir c.wt) p).Within := by
  have hk := place_of_four p.dir c.wt
  unfold crossingRule at hr
  dsimp only at hr
  split at hr
  · exact { h with counts := ordered_forward h.counts hk hr }
  · unfold backwardRule at hr
    split at hr
    · cases hr
    · split at hr <;> cases hr

theorem within_backward {p : Passage} {c : Crossing} {i : Nat} (h : p.Within) (hr : crossingRule p c = .backward i) :
    (countCrossing (.backward i) (entryPlace p.dir c.wt) p).Within := by
  have hk := place_of_four p.dir c.wt
  unfold crossingRule at hr
  dsimp only at hr
  split at hr
  · unfold forwardRule at hr
    split at hr
    · split at hr
      · cases hr
      · split at hr <;> cases hr
    · split at hr <;> cases hr
  · exact { h with counts := ordered_backward h.counts hk hr }

theorem within_entered {p : Passage} {c : Crossing} {n : Nat} (h : p.Within) (hr : crossingRule p c = .entered n) :
    (createAxle n c (countCrossing (.entered n) (entryPlace p.dir c.wt) p)).Within := by
  have hk := place_of_four p.dir c.wt
  unfold crossingRule at hr
  dsimp only at hr
  split at hr
  · obtain ⟨rfl, ho⟩ := ordered_entered h.counts hk hr
    have ha := h.axles
    unfold createAxle
    split
    · next hn =>
      exact { h with
        counts := ho
        axles := by simp only [countCrossing, List.length_append, List.length_cons, List.length_nil]; omega
        records := fun a ha => by
          rcases List.mem_append.mp ha with ha | ha
          · exact h.records a ha
          · rw [List.mem_singleton.mp ha]
            exact ⟨by simp [AxleRecord.created], List.nodup_nil⟩ }
    · next hn =>
      exact { h with
        counts := ho
        axles := by simp only [countCrossing]; omega }
  · unfold backwardRule at hr
    split at hr
    · cases hr
    · split at hr <;> cases hr

theorem kept_applyCrossing (h : Kept x s) (c : Crossing) : Kept x (s.applyCrossing c) := by
  unfold State.applyCrossing
  split
  · exact h
  · next p hp =>
    have hw := h.passage p hp
    have only : ∀ q, s.passage = some q → p = q := fun q hq => by rw [hp] at hq; exact Option.some.inj hq
    dsimp only
    split
    · exact kept_refuseCrossing h
    · next n hr =>
      have a : Kept x ((s.onPassage fun q => createAxle n c (countCrossing (.entered n) (entryPlace p.dir c.wt) q)).onAxt
          fun y => { y with countsFresh := true }) :=
        let b := kept_onPassage h (f := fun q => createAxle n c (countCrossing (.entered n) (entryPlace p.dir c.wt) q))
          fun q hq => only q hq ▸ within_entered hw hr
        kept_onAxt b b.crossings
      have e : (s.count (crossingRule p c) (entryPlace p.dir c.wt)).onPassage (createAxle n c)
          = (s.onPassage fun q => createAxle n c (countCrossing (.entered n) (entryPlace p.dir c.wt) q)).onAxt
            fun y => { y with countsFresh := true } := by
        rw [hr]
        simp [State.count, State.onPassage, State.onAxt, hp]
      rw [e]
      exact a
    · next i hr =>
      exact kept_moveAxle (kept_count h _ _ fun q hq => only q hq ▸ hr ▸ within_forward hw hr) _ _ _
    · next i hr =>
      exact kept_moveAxle (kept_count h _ _ fun q hq => only q hq ▸ hr ▸ within_backward hw hr) _ _ _

/-! ### Filters and the crossing taken (R25, R30, R31, R43, R44) -/

theorem kept_countLate (h : Kept x s) (c : Crossing) : Kept x (s.countLate c) := by
  unfold State.countLate
  split
  · exact kept_onPassageCounters h _
  · exact h

theorem kept_noteOrder (h : Kept x s) (t : LoopTime) : Kept x (s.noteOrder t) :=
  kept_onPassage h fun p hp => { h.passage p hp with }

theorem kept_setPulse (h : Kept x s) (w : Transducer) (d : Direction) (f : Passage → Option LoopTime) :
    Kept x (s.onPassage fun p => setPulseRecord w d (f p) p) :=
  kept_onPassage h fun p hp => { h.passage p hp with }

theorem kept_passFilters (h : Kept x s) (c : Crossing) : Kept x (s.passFilters c) :=
  kept_setPulse (kept_noteOrder h _) c.wt c.dir fun _ => some c.time

theorem kept_filterCrossing (h : Kept x s) (c : Crossing) : Kept x (s.filterCrossing c) := by
  unfold State.filterCrossing
  split
  · exact h
  · split
    · exact kept_refuseCrossing h
    · split
      · exact kept_onPassageCounters (kept_noteOrder h _) _
      · exact kept_applyCrossing (kept_passFilters h c) c

theorem kept_endTimers (h : Kept x s) (a b : Nat) : Kept x (s.onPassage (endTimers a b)) :=
  kept_onPassage h fun p hp => { h.passage p hp with }

theorem kept_trackCrossing (h : Kept x s) (c : Crossing) : Kept x (s.trackCrossing c) :=
  kept_endTimers (kept_filterCrossing (kept_countLate h c) c) _ _

/-! ### A passage starts (R27, R28) -/

theorem within_begun (n : Nat) (c : Crossing) (b : Bool) : (Passage.begun n c b).Within where
  counts := ⟨Nat.le_refl _, Nat.le_refl _, Nat.le_refl _, Nat.le_refl _, Nat.zero_le _⟩
  axles := rfl
  records := fun _ ha => nomatch ha
  marks := Nat.zero_le _
  contexts := Nat.zero_le _
  vehicles := Nat.zero_le _

theorem kept_openPassage (h : Kept x s) (c : Crossing) : Kept { x with current := true } (s.openPassage c) :=
  { h with
    current := rfl
    passage := fun p hp => by cases hp; exact within_begun _ _ _
    alarms := Nat.zero_le _ }

theorem kept_markPassage (h : Kept x s) : Kept x s.markPassage :=
  kept_onPassage h fun p hp => { h.passage p hp with }

theorem kept_lossAtStart (h : Kept x s) : Kept x s.lossAtStart := by
  unfold State.lossAtStart
  split
  · exact h
  · exact kept_startLoss h

/-- A passage starts: PASSAGE with a passage context (R28). -/
theorem kept_startPassage (h : Kept x s) (c : Crossing) :
    Kept { x with site := .passage, current := true } (s.startPassage c) := by
  have a := kept_equipmentSince (kept_openPassage h c) s
  have b := kept_applyCrossing (kept_passFilters (kept_countLate a c) c) c
  have d := kept_markPassage (kept_lossAtStart (kept_changeSite b .passage))
  exact kept_judgeLines (kept_endTimers (kept_takeSlot (kept_openShutters d) _) _ _)

theorem kept_strayCrossing (h : Kept x s) : Kept x s.strayCrossing := by
  have a := kept_onAxtCounters h fun c => { c with stray := bump c.stray }
  unfold State.strayCrossing
  dsimp only
  split
  · exact kept_onAxt a a.crossings
  · exact a

/-- The site state after a step, with whether a check runs and a passage is current as the site state decides (R48, R169, R178). -/
def Fixed.at (x : Fixed) (y : SiteState) : Fixed := { x with site := y, running := y == .checking, current := passageSite y }

/-- Coupled fixed fields are those of their own site state. -/
theorem Fixed.Fits.at_site (hx : x.Fits) : x.at x.site = x := by
  obtain ⟨h1, h2⟩ := hx
  cases x
  simp only [Fixed.at] at *
  subst h1 h2
  rfl

/-- Fixed fields of a site state are coupled. -/
theorem fits_at (x : Fixed) (y : SiteState) : (x.at y).Fits := ⟨rfl, rfl⟩

/-- A crossing that starts a passage or is stray (R27). -/
theorem kept_takeCrossing (h : Kept x s) (hx : x.Fits) (c : Crossing) :
    Kept x (s.takeCrossing c) ∨ ((x.site = .armed ∨ x.site = .checking) ∧ Kept (x.at .passage) (s.takeCrossing c)) := by
  unfold State.takeCrossing
  split
  · next hs =>
    have e := h.site.symm.trans hs
    split
    · have a := kept_startPassage h c
      have hr : x.running = false := hx.2.trans (by rw [e]; rfl)
      have ea : ({ x with site := .passage, current := true } : Fixed) = x.at .passage := by
        simp only [Fixed.at, hr]; rfl
      exact .inr ⟨.inl e, ea ▸ a⟩
    · exact .inl (kept_strayCrossing h)
  · next hs =>
    have e := h.site.symm.trans hs
    split
    · exact .inr ⟨.inr e, kept_startPassage (kept_abortCheck h _) c⟩
    · exact .inl (kept_strayCrossing h)
  · exact .inl (kept_trackCrossing h c)
  · exact .inl (kept_onAxtCounters h _)
  · exact .inl h

theorem kept_takeHeadCrossing (h : Kept x s) (hx : x.Fits) :
    Kept x s.takeHeadCrossing ∨ ((x.site = .armed ∨ x.site = .checking) ∧ Kept (x.at .passage) s.takeHeadCrossing) := by
  unfold State.takeHeadCrossing
  split
  · exact .inl h
  · next c rest hq =>
    split
    · exact .inl h
    · have a : Kept x (s.onAxt fun a => { a with queue := rest }) :=
        kept_onAxt h (by have := h.crossings; rw [hq] at this; simp at this ⊢; omega)
      exact kept_takeCrossing a hx c

/-! ### The end of a passage and CLOSING (R44, R177) -/

/-- A passage ends: CLOSING (R44). -/
theorem kept_endPassage (h : Kept x s) (d : Disposition) : Kept { x with site := .closing } (s.endPassage d) := by
  have a : Kept x (s.onPassage (endedPassage s.now d)) := kept_onPassage h fun p hp =>
    { h.passage p hp with
      axles := by simpa [endedPassage] using (h.passage p hp).axles
      records := forall_map (fun a ha => ⟨ha.history, ha.marks⟩) _ (h.passage p hp).records
      marks := Nat.zero_le _
      contexts := Nat.zero_le _ }
  exact kept_judgeLines (kept_closeWaitClosing (kept_changeSite a .closing))

theorem kept_closingWork (h : Kept x s) : Kept x s.closingWork :=
  kept_sealPassage (kept_closingEvaluation (kept_finalise (kept_segmentAttempt (kept_outlierCheck h) _)))

theorem kept_clearPassage (h : Kept x s) : Kept { x with current := false } s.clearPassage := by
  unfold State.clearPassage
  split
  · next hp => exact { h with current := by rw [hp]; rfl }
  · exact { h with current := rfl, passage := fun p hp => absurd hp.symm (Option.some_ne_none p) }

theorem kept_closeToArmed (h : Kept x s) : Kept { x with site := .armed, current := false } s.closeToArmed := by
  have a := kept_enterArmed (kept_holdLines (kept_clearPassage h))
  exact kept_equipmentSince a s

theorem kept_closeToOffline (h : Kept x s) :
    Kept { x with site := .offline, current := false, free := false } s.closeToOffline :=
  kept_answerProgress (kept_equipmentSince (kept_enterOffline (kept_clearPassage h)) s) _ _ _

/-- CLOSING runs its steps and ends into ARMED or OFFLINE (R177). -/
theorem kept_runClosing (h : Kept x s) :
    Kept { x with site := .armed, current := false } s.runClosing
      ∨ Kept { x with site := .offline, current := false, free := false } s.runClosing := by
  have a := kept_closingWork h
  unfold State.runClosing
  dsimp only
  split
  · exact .inr (kept_closeToOffline a)
  · exact .inl (kept_closeToArmed a)

end Sys2Proof.Machine
end

