-- ==== Sys2Proof/Laws/KeptRows.lean ====
section
/-! SUPPORT. Every command and event: the site states it can land in, the fields it leaves alone, and that it keeps every capacity. -/

namespace Sys2Proof.Machine

set_option Elab.async false

variable {x : Fixed} {s : State}

/-! ### Landing in a site state -/

/-- The state is within every capacity, shows the fixed fields but for the site state, and its site state is one of those listed. -/
def Lands (x : Fixed) (p : SiteState → Prop) (t : State) : Prop :=
  ∃ y, p y ∧ Kept (({ x with free := false } : Fixed).at y) t

/-- A coupled state that keeps everything lands where it stands. -/
theorem Kept.lands (h : Kept x s) (hx : x.Fits) {p : SiteState → Prop} (hp : p x.site) : Lands x p s := by
  refine ⟨x.site, hp, ?_⟩
  have e : ({ x with free := false } : Fixed).at x.site = { x with free := false } :=
    Fixed.Fits.at_site (x := { x with free := false }) ⟨hx.1, hx.2⟩
  rw [e]
  exact h.drop

/-- A state kept with the fields of another site state lands there. -/
theorem Kept.landsAt {z : Fixed} (h : Kept z s) {p : SiteState → Prop} (y : SiteState) (hp : p y)
    (hz : ({ z with free := false } : Fixed) = ({ x with free := false } : Fixed).at y) : Lands x p s :=
  ⟨y, hp, hz ▸ h.drop⟩

/-- Landing follows a change that keeps everything. -/
theorem Lands.then {p : SiteState → Prop} (h : Lands x p s) {f : State → State}
    (hf : ∀ z : Fixed, z.free = false → Kept z s → Kept z (f s)) : Lands x p (f s) := by
  obtain ⟨y, hy, hk⟩ := h
  exact ⟨y, hy, hf _ rfl hk⟩

/-- Landing in fewer states is landing in more. -/
theorem Lands.mono {p q : SiteState → Prop} (h : Lands x p s) (hpq : ∀ y, p y → q y) : Lands x q s := by
  obtain ⟨y, hy, hk⟩ := h
  exact ⟨y, hpq y hy, hk⟩

/-- Answers change nothing that is fixed. -/
theorem Lands.answerProgress {p : SiteState → Prop} (h : Lands x p s) (c : Nat) (a : AnswerCode) (d : List Byte) :
    Lands x p (s.answerProgress c a d) := by
  obtain ⟨y, hy, hk⟩ := h
  exact ⟨y, hy, kept_answerProgress hk c a d⟩

/-- The commands that LIF answers by itself change nothing that is fixed. -/
theorem Lands.drain {p : SiteState → Prop} (h : Lands x p s) : Lands x p s.drain := by
  obtain ⟨y, hy, hk⟩ := h
  exact ⟨y, hy, kept_drain hk⟩

/-- The fixed fields of a state that has landed are coupled. -/
theorem Lands.within {p : SiteState → Prop} (h : Lands x p s) : s.Within := by
  obtain ⟨y, _, hk⟩ := h
  exact within_of_kept hk (fits_at _ y)

/-! ### The passing of loop time -/

/-- Loop time runs: only the loop time of the fixed fields changes (R1). -/
theorem kept_elapse (h : Kept x s) (dt : Nat) : Kept { x with now := later x.now dt } (s.elapse dt) where
  pending := h.pending
  powered := h.powered
  pins := h.pins
  store := h.store
  conds := h.conds
  now := congrArg (later · dt) h.now
  tables := h.tables
  invalid := h.invalid
  site := h.site
  running := h.running
  current := by rw [← h.current]; exact Option.isSome_map
  free := h.free
  lif := { h.lif with }
  crossings := h.crossings
  passage := fun p hp => by
    obtain ⟨q, hq, rfl⟩ := Option.map_eq_some_iff.mp hp
    exact { h.passage q hq with
      axles := by simpa [tickPassage] using (h.passage q hq).axles
      records := forall_map (fun a ha => ⟨by simpa [ageAxle] using ha.history, ha.marks⟩) _ (h.passage q hq).records }
  alarms := h.alarms
  slots := h.slots
  ring := h.ring
  line := h.line
  history := h.history
  leftRecord := by
    show (ageFeedback _ _ _).changes.length ≤ _
    unfold ageFeedback; split <;> exact h.leftRecord
  rightRecord := by
    show (ageFeedback _ _ _).changes.length ≤ _
    unfold ageFeedback; split <;> exact h.rightRecord

/-! ### Commands (R192) -/

/-- A command without arguments lands where it stands, or where its effect lands. -/
theorem lands_plain {p : SiteState → Prop} (h : Kept x s) (hx : x.Fits) (hf : x.free = true) (hp : p x.site)
    (c : Nat) (t : Byte) (a : List Byte) {f : State → State} (he : s.refusal c = none → Lands x p (f s)) :
    Lands x p (plainCommand c t a f s) := by
  have r : ∀ b, Lands x p (s.reply c t b) := fun b =>
    (kept_answer_free h hf c t b []).landsAt x.site hp (Fixed.Fits.at_site (x := { x with free := false }) hx).symm
  unfold plainCommand
  split
  · exact r _
  · next hn =>
    split
    · exact he hn
    · exact r _

/-- A command with arguments lands where it stands, or where its effect lands. -/
theorem lands_arg {α : Type} {p : SiteState → Prop} (h : Kept x s) (hx : x.Fits) (hf : x.free = true) (hp : p x.site)
    (c : Nat) (t : Byte) (g : Field α) (a : List Byte) {f : α → State → State}
    (he : s.refusal c = none → ∀ b, Lands x p (f b s)) : Lands x p (argCommand c t g a f s) := by
  have r : ∀ b, Lands x p (s.reply c t b) := fun b =>
    (kept_answer_free h hf c t b []).landsAt x.site hp (Fixed.Fits.at_site (x := { x with free := false }) hx).symm
  unfold argCommand
  split
  · exact r _
  · next hn =>
    split
    · exact he hn _
    · exact r _

/-- A command row lands where it stands, or where the command's effect lands from a free LIF. -/
theorem lands_command {p : SiteState → Prop} (h : Kept x s) (hx : x.Fits) (hp : p x.site) (c : Nat) (t : Byte) (a : List Byte)
    {f : State → State} (he : ∀ u, Kept { x with free := true } u → Lands x p (f u)) : Lands x p (command c t a f s) := by
  unfold command
  split
  · next u hu => exact (he u (kept_takeCommand h c t a hu)).drain
  · exact h.lands hx hp

/-- An answer lands where the state stands. -/
theorem lands_answer {p : SiteState → Prop} (h : Kept x s) (hx : x.Fits) (hf : x.free = true) (hp : p x.site)
    (c : Nat) (t : Byte) (b : AnswerCode) (d : List Byte) : Lands x p (s.answer c t b d) :=
  (kept_answer_free h hf c t b d).landsAt x.site hp (Fixed.Fits.at_site (x := { x with free := false }) hx).symm

/-- An answer given while LIF is free lands where the state landed. -/
theorem Kept.answerAt {z : Fixed} (h : Kept z s) (hf : z.free = true) {p : SiteState → Prop} (y : SiteState) (hp : p y)
    (hz : ({ z with free := false } : Fixed) = ({ x with free := false } : Fixed).at y)
    (c : Nat) (t : Byte) (b : AnswerCode) (d : List Byte) : Lands x p (s.answer c t b d) :=
  (kept_answer_free h hf c t b d).landsAt y hp hz

/-! ### Reads -/

variable {p : SiteState → Prop} {tag : Byte} {args : List Byte}

theorem lands_readIdentity (h : Kept x s) (hx : x.Fits) (hf : x.free = true) (hp : p x.site) :
    Lands x p (readIdentity tag args s) :=
  lands_plain h hx hf hp _ _ _ fun _ => lands_answer h hx hf hp _ _ _ _

theorem lands_readStatus (h : Kept x s) (hx : x.Fits) (hf : x.free = true) (hp : p x.site) :
    Lands x p (readStatus tag args s) := by
  refine lands_arg h hx hf hp _ _ _ _ fun _ b => ?_
  split
  · exact lands_answer h hx hf hp _ _ _ _
  · exact lands_answer h hx hf hp _ _ _ _

theorem kept_clearFresh (h : Kept x s) : Kept x s.clearFresh := { h with }

theorem lands_readLive (h : Kept x s) (hx : x.Fits) (hf : x.free = true) (hp : p x.site) : Lands x p (readLive tag args s) :=
  lands_plain h hx hf hp _ _ _ fun _ => lands_answer (kept_clearFresh h) hx hf hp _ _ _ _

theorem lands_readTable (h : Kept x s) (hx : x.Fits) (hf : x.free = true) (hp : p x.site) :
    Lands x p (readTable tag args s) := by
  refine lands_arg h hx hf hp _ _ _ _ fun _ b => ?_
  split
  · exact lands_answer h hx hf hp _ _ _ _
  · split
    · exact lands_answer h hx hf hp _ _ _ _
    · exact lands_answer h hx hf hp _ _ _ _

theorem lands_readAlarms (h : Kept x s) (hx : x.Fits) (hf : x.free = true) (hp : p x.site) :
    Lands x p (readAlarms tag args s) := by
  refine lands_arg h hx hf hp _ _ _ _ fun _ b => ?_
  split
  · exact lands_answer h hx hf hp _ _ _ _
  · exact lands_answer h hx hf hp _ _ _ _

theorem lands_readSummaries (h : Kept x s) (hx : x.Fits) (hf : x.free = true) (hp : p x.site) :
    Lands x p (readSummaries tag args s) :=
  lands_plain h hx hf hp _ _ _ fun _ => lands_answer h hx hf hp _ _ _ _

/-! ### Reports and events -/

/-- A command that LIF held free stays in progress (R192). -/
theorem kept_holdCommand (h : Kept x s) (hf : x.free = true) (t : Byte) (j : Job) :
    Kept { x with free := false } (s.holdCommand t j) :=
  kept_onLif' h.drop rfl { h.lif with waits := fun _ => ((free_iff _).mp (h.free hf)).2 }

theorem lands_drop {t : State} (h : Kept { x with free := false } t) (hx : x.Fits) (hp : p x.site) : Lands x p t :=
  h.landsAt x.site hp (Fixed.Fits.at_site (x := { x with free := false }) hx).symm

theorem lands_readReport (h : Kept x s) (hx : x.Fits) (hf : x.free = true) (hp : p x.site) :
    Lands x p (readReport tag args s) := by
  refine lands_arg h hx hf hp _ _ _ _ fun _ b => ?_
  split
  · split
    · exact lands_answer h hx hf hp _ _ _ _
    · exact lands_answer h hx hf hp _ _ _ _
    · unfold State.beginRead
      dsimp only
      split
      · exact lands_answer (kept_onRps h (by rw [ring_onReport]; exact h.ring) (length_onReport ..)) hx hf hp _ _ _ _
      · split
        · exact lands_drop (kept_holdCommand h hf _ _) hx hp
        · exact (kept_loseAnswer h).lands hx hp
  · exact lands_answer h hx hf hp _ _ _ _

theorem kept_release (h : Kept x s) (n : Nat) : Kept x (s.onRps (Rps.release n)) :=
  kept_onRps h (by simpa [Rps.release, Rps.setSlot, Rps.setDetail] using h.ring)
    (by simp [Rps.release, Rps.setSlot, Rps.setDetail])

theorem lands_releaseReport (h : Kept x s) (hx : x.Fits) (hf : x.free = true) (hp : p x.site) :
    Lands x p (releaseReport tag args s) := by
  refine lands_arg h hx hf hp _ _ _ _ fun _ b => ?_
  split
  · exact lands_answer h hx hf hp _ _ _ _
  · split
    · exact lands_answer h hx hf hp _ _ _ _
    · exact lands_answer h hx hf hp _ _ _ _
    · split
      · exact lands_answer (kept_release h _) hx hf hp _ _ _ _
      · exact lands_answer h hx hf hp _ _ _ _

theorem lands_ackEvents (h : Kept x s) (hx : x.Fits) (hf : x.free = true) (hp : p x.site) :
    Lands x p (ackEvents tag args s) :=
  lands_arg h hx hf hp _ _ _ _ fun _ b => lands_answer (kept_onRps h (f := Rps.acknowledge b) h.ring) hx hf hp _ _ _ _

theorem lands_setEventMask (h : Kept x s) (hx : x.Fits) (hf : x.free = true) (hp : p x.site) :
    Lands x p (setEventMask tag args s) :=
  lands_arg h hx hf hp _ _ _ _ fun _ b =>
    lands_answer (kept_onRps h (f := Rps.setMask (BitVec.ofNat 13 b)) h.ring) hx hf hp _ _ _ _

theorem lands_clearOutputs (h : Kept x s) (hx : x.Fits) (hf : x.free = true) (hp : p x.site) :
    Lands x p (clearOutputs tag args s) :=
  lands_plain h hx hf hp _ _ _ fun _ => lands_answer (kept_clearOutputs h) hx hf hp _ _ _ _

theorem kept_testLines (h : Kept x s) (l : List (Option Bool)) : Kept x (s.testLines l) :=
  kept_judgeLines (kept_forEach _ (fun n _ ht => kept_onLine ht n _) h)

theorem lands_testOutputs (h : Kept x s) (hx : x.Fits) (hf : x.free = true) (hp : p x.site) :
    Lands x p (testOutputs tag args s) :=
  lands_arg h hx hf hp _ _ _ _ fun _ b => lands_answer (kept_testLines h b) hx hf hp _ _ _ _

/-! ### The store and the station -/

theorem lands_storeTables (h : Kept x s) (hx : x.Fits) (hf : x.free = true) (hp : p x.site) :
    Lands x p (storeTables tag args s) := by
  refine lands_arg h hx hf hp _ _ _ _ fun _ b => ?_
  have a : Kept x (s.onScu fun u => { u with store := some ⟨s.tables, s.identityToStore b.1 b.2⟩ }) := kept_onScu h rfl rfl
  exact lands_drop (kept_holdCommand a hf _ _) hx hp

theorem lands_changeStation (h : Kept x s) (hx : x.Fits) (hf : x.free = true) (hp : p x.site) (t : Byte) (n : Nat) :
    Lands x p (s.changeStation t n) := by
  unfold State.changeStation
  split
  · exact lands_drop (kept_handAnswer h _ rfl rfl (h.free hf)) hx hp
  · exact (kept_onLif h { h.lif with } id).lands hx hp

theorem lands_setStation (h : Kept x s) (hx : x.Fits) (hf : x.free = true) (hp : p x.site) :
    Lands x p (setStation tag args s) := by
  refine lands_arg h hx hf hp _ _ _ _ fun _ b => ?_
  split
  · exact lands_answer h hx hf hp _ _ _ _
  · exact lands_changeStation (kept_onLif h { h.lif with } id) hx hf hp _ _

/-! ### Site commands (R170, R174 to R176, R181) -/

/-- The site state a refusal of R170, R176 or R181 leaves when it does not come. -/
theorem site_of_refusal (h : Kept x s) :
    (s.refusal 6 = none → x.site = .offline) ∧ (s.refusal 9 = none → x.site = .armed)
      ∧ (s.refusal 10 = none → x.site = .passage) := by
  rw [← h.site]
  refine ⟨fun e => ?_, fun e => ?_, fun e => ?_⟩ <;>
    (simp only [State.refusal] at e; split at e <;> simp_all)

theorem at_checking (x : Fixed) (hx : x.Fits) (hs : passageSite x.site = false) :
    ({ x with site := .checking, running := true, free := false } : Fixed) = ({ x with free := false } : Fixed).at .checking := by
  have := hx.1.trans hs
  simp only [Fixed.at, this]
  rfl

theorem lands_start (h : Kept x s) (hx : x.Fits) (hf : x.free = true) :
    Lands x (fun y => y = x.site ∨ x.site = .offline ∧ y = .checking) (start tag args s) := by
  refine lands_plain h hx hf (.inl rfl) _ _ _ fun hr => ?_
  have hs := (site_of_refusal h).1 hr
  split
  · exact lands_answer (kept_onScu h rfl rfl) hx hf (.inl rfl) _ _ _ _
  · exact (kept_startSite h _).answerAt hf .checking (.inr ⟨hs, rfl⟩) (at_checking x hx (by rw [hs]; rfl)) _ _ _ _

theorem lands_runCheck (h : Kept x s) (hx : x.Fits) (hf : x.free = true) :
    Lands x (fun y => y = x.site ∨ x.site = .armed ∧ y = .checking) (runCheck tag args s) := by
  refine lands_plain h hx hf (.inl rfl) _ _ _ fun hr => ?_
  have hs := (site_of_refusal h).2.1 hr
  exact (kept_enterChecking h _).answerAt hf .checking (.inr ⟨hs, rfl⟩) (at_checking x hx (by rw [hs]; rfl)) _ _ _ _

/-- The fixed fields at CLOSING from PASSAGE. -/
theorem at_closing (x : Fixed) (hx : x.Fits) (hs : x.site = .passage) :
    ({ x with site := .closing, free := false } : Fixed) = ({ x with free := false } : Fixed).at .closing := by
  have h1 := hx.1; have h2 := hx.2
  rw [hs] at h1 h2
  simp only [Fixed.at, h1, h2]
  rfl

/-- The fixed fields at OFFLINE from a state in which no passage is current and no check runs. -/
theorem at_offline (x : Fixed) (hc : x.current = false) (hr : x.running = false) :
    ({ x with site := .offline, free := false } : Fixed) = ({ x with free := false } : Fixed).at .offline := by
  simp only [Fixed.at, hc, hr]
  rfl

theorem lands_forceClose (h : Kept x s) (hx : x.Fits) (hf : x.free = true) :
    Lands x (fun y => y = x.site ∨ x.site = .passage ∧ y = .closing) (forceClose tag args s) := by
  refine lands_plain h hx hf (.inl rfl) _ _ _ fun hr => ?_
  have hs := (site_of_refusal h).2.2 hr
  exact (kept_endPassage h _).answerAt hf .closing (.inr ⟨hs, rfl⟩) (at_closing x hx hs) _ _ _ _

theorem lands_stop (h : Kept x s) (hx : x.Fits) (hf : x.free = true) :
    Lands x (fun y => y = x.site ∨ (x.site = .checking ∨ x.site = .armed) ∧ y = .offline ∨ x.site = .passage ∧ y = .closing)
      (stop tag args s) := by
  refine lands_plain h hx hf (.inl rfl) _ _ _ fun _ => ?_
  have h1 := hx.1; have h2 := hx.2
  split
  · exact lands_answer h hx hf (.inl rfl) _ _ _ _
  · next hs =>
    have e := h.site.symm.trans hs
    rw [e] at h1 h2
    have a := kept_enterOffline (kept_abortCheck h .stop)
    exact a.answerAt hf .offline (.inr (.inl ⟨.inl e, rfl⟩)) (at_offline { x with running := false } h1 rfl) _ _ _ _
  · next hs =>
    have e := h.site.symm.trans hs
    rw [e] at h1 h2
    exact (kept_enterOffline h).answerAt hf .offline (.inr (.inl ⟨.inr e, rfl⟩)) (at_offline x h1 h2) _ _ _ _
  · next hs =>
    have e := h.site.symm.trans hs
    have a := kept_endPassage (kept_holdCommand h hf tag .stop) .aborted
    exact a.landsAt .closing (.inr (.inr ⟨e, rfl⟩)) (at_closing x hx e)
  · exact lands_drop (kept_holdCommand h hf _ _) hx (.inl rfl)

/-! ### Resets (R175, R182 to R184) -/

/-- RESTART's clearing ends the passage and the check (R175). -/
theorem kept_clearForRestart (h : Kept x s) : Kept { x with current := false, running := false } s.clearForRestart :=
  { h with
    running := rfl
    current := rfl
    lif := { h.lif with }
    crossings := Nat.zero_le _
    passage := fun q hq => absurd hq.symm (Option.some_ne_none q)
    alarms := Nat.zero_le _
    slots := rfl
    ring := Nat.zero_le _
    line := Nat.zero_le _ }

theorem lands_restart (h : Kept x s) (hx : x.Fits) (hf : x.free = true) :
    Lands x (fun y => y = x.site ∨ y = .offline ∨ y = .checking) (restart tag args s) := by
  refine lands_plain h hx hf (.inl rfl) _ _ _ fun _ => ?_
  have b := kept_enterOffline (kept_equipmentSince (kept_clearForRestart h) s)
  rcases kept_autoArm b Config.commandSettle with k | k
  · exact k.answerAt hf .offline (.inr (.inl rfl)) (at_offline { x with current := false, running := false } rfl rfl) _ _ _ _
  · exact k.answerAt hf .checking (.inr (.inr rfl))
      (at_checking { x with site := .offline, current := false, running := false } ⟨rfl, rfl⟩ rfl) _ _ _ _

/-- A fresh LIF is within its capacities. -/
theorem within_lifReset (n : Nat) (b : Bool) : ({ Lif.reset with station := n, fixed := b } : Lif).Within where
  queue := Nat.zero_le _
  forward := Nat.zero_le _
  evt := Nat.zero_le _
  rpt := Nat.zero_le _
  busy := Nat.zero_le _
  plain := Nat.zero_le _
  waits := nofun

/-- The power-on load leaves every collection empty in OFFLINE, whatever stood before (R182). -/
theorem kept_loaded (s : State) : Kept { s.loaded.fixed with free := false } s.loaded where
  pending := rfl
  powered := rfl
  pins := rfl
  store := rfl
  conds := rfl
  now := rfl
  tables := rfl
  invalid := rfl
  site := rfl
  running := rfl
  current := rfl
  free := fun e => absurd e Bool.false_ne_true
  lif := within_lifReset _ _
  crossings := Nat.zero_le _
  passage := fun q hq => absurd hq.symm (Option.some_ne_none q)
  alarms := Nat.zero_le _
  slots := rfl
  ring := Nat.zero_le _
  line := Nat.zero_le _
  history := Nat.zero_le _
  leftRecord := Nat.zero_le _
  rightRecord := Nat.zero_le _

theorem lands_powerUp (s : State) : Lands s.loaded.fixed (fun y => y = .offline ∨ y = .checking) s.powerUp := by
  have a := kept_raiseIf (kept_loaded s) (anyBad s.store) .equipmentChanged
  rcases kept_autoArm a 0 with k | k
  · exact k.landsAt .offline (.inl rfl) rfl
  · exact k.landsAt .checking (.inr rfl) rfl

/-- The part without supply rests in OFFLINE with every collection empty (R182, R184). -/
theorem kept_powerDown (s : State) (n : Nat) : Kept (s.powerDown n).fixed (s.powerDown n) where
  pending := rfl
  powered := rfl
  pins := rfl
  store := rfl
  conds := rfl
  now := rfl
  tables := rfl
  invalid := rfl
  site := rfl
  running := rfl
  current := rfl
  free := fun e => absurd e Bool.false_ne_true
  lif := within_lifReset _ _
  crossings := Nat.zero_le _
  passage := fun q hq => absurd hq.symm (Option.some_ne_none q)
  alarms := Nat.zero_le _
  slots := rfl
  ring := Nat.zero_le _
  line := Nat.zero_le _
  history := Nat.zero_le _
  leftRecord := Nat.zero_le _
  rightRecord := Nat.zero_le _

/-- A completed store changes the stored image alone of the fixed fields (R184). -/
theorem lands_completeStore (h : Kept x s) (hx : x.Fits) (hp : p x.site) (failed : Option Nat) :
    Lands { x with store := (s.completeStore failed).store } p (s.completeStore failed) := by
  have key : ∀ (y : SettingsStore), (s.completeStore failed).store = y →
      Kept { x with store := y, free := false } (s.completeStore failed) → Lands { x with store := y } p (s.completeStore failed) :=
    fun y _ k => k.landsAt x.site hp (Fixed.Fits.at_site (x := { x with store := y, free := false }) hx).symm
  refine key _ rfl ?_
  unfold State.completeStore
  split
  · exact { h.drop with store := rfl }
  · next j hj =>
    extract_lets _ t
    have a : Kept { x with store := completedStore failed j s.store } t :=
      { h with store := rfl, site := h.site, running := h.running, free := h.free }
    have b : Kept { x with store := completedStore failed j s.store } (t.takeFlags failed j.identity) := by
      unfold State.takeFlags
      split
      · have c := kept_onScu a (f := fun u => { u with autoArm := j.identity.autoArm }) rfl rfl
        exact kept_onLif c { c.lif with } id
      · exact a
    have c := kept_raise b .storeEnded
    have d : Kept { x with store := completedStore failed j s.store, free := false }
        (((t.takeFlags failed j.identity).raise .storeEnded).answerStore failed) := by
      unfold State.answerStore
      split
      · exact kept_answerProgress c _ _ _
      · exact kept_answerProgress c _ _ _
    rw [d.store]
    exact d

/-! ### WRITE_TABLE (R193) -/

theorem kept_write (h : Kept x s) (table first count : Nat) (t : Tables) :
    Kept { x with tables := t, invalid := s.invalid.set (table - 1) false } (s.write table first count t) := by
  have a : Kept { x with tables := t, invalid := s.invalid.set (table - 1) false } (s.putTables table t) :=
    { h with tables := rfl, invalid := rfl }
  have b : Kept { x with tables := t, invalid := s.invalid.set (table - 1) false }
      ((s.putTables table t).afterWrite table first count) := by
    unfold State.afterWrite
    dsimp only
    split
    · exact kept_forEach _ (fun n _ hu => kept_onNode hu n _) a
    · exact kept_forEach _ (fun n _ hu => kept_onChannel hu n _) a
    · refine kept_forEach _ (fun n u hu => ?_) a
      unfold State.restartPhase
      split
      · exact kept_onLine hu _ _
      · exact hu
    · exact a
  exact kept_equipmentSince (kept_judgeLines b) s

/-- WRITE_TABLE changes the tables and their INVALID marks alone of the fixed fields (R172, R193). -/
theorem lands_writeTable (h : Kept x s) (hx : x.Fits) (hf : x.free = true) (hp : p x.site) :
    ∃ a b, Lands { x with tables := a, invalid := b } p (writeTable tag args s) := by
  unfold writeTable
  dsimp only
  split
  · next t _ =>
    exact ⟨t, s.invalid.set ((s.judgeWrite args).table - 1) false, lands_answer (kept_write h _ _ _ t) hx hf hp _ _ _ _⟩
  · exact ⟨x.tables, x.invalid, lands_answer h hx hf hp _ _ _ _⟩

/-! ### Frames (R187 to R191) -/

theorem kept_onLifCounters (h : Kept x s) (f : LifCounters → LifCounters) : Kept x (s.onLifCounters f) :=
  kept_onLif h { h.lif with } id

theorem kept_takeTraffic (h : Kept x s) (f : Frame) : Kept x (s.takeTraffic f) := by
  unfold State.takeTraffic
  split
  · exact kept_takeSmp h _ _
  · exact kept_takeCrs h _ _
  · exact kept_takeNst h _
  · exact h

theorem kept_offerCommand (h : Kept x s) (c : Cmd) : Kept { x with free := false } (s.offerCommand c) := by
  unfold State.offerCommand
  split
  · next hl => exact kept_drain (kept_onLif h { h.lif with queue := by simp; omega } id)
  · exact (kept_answerBusy h _ _).drop

theorem kept_takeCmd (h : Kept x s) (n : Nat) (l : List Byte) : Kept { x with free := false } (s.takeCmd n l) := by
  unfold State.takeCmd
  split
  · have a := kept_hearController h
    dsimp only
    split
    · exact (kept_onLifCounters a _).drop
    · exact kept_offerCommand a _
  · exact (kept_onLifCounters h _).drop

theorem kept_takeAddressed (h : Kept x s) (f : Frame) : Kept { x with free := false } (s.takeAddressed f) := by
  unfold State.takeAddressed
  split
  · exact (kept_takeTraffic h f).drop
  · exact (kept_takeTraffic h f).drop
  · exact (kept_takeTraffic h f).drop
  · exact kept_takeCmd h _ _
  · exact (kept_onLifCounters h _).drop

theorem kept_stripFrame (h : Kept x s) (octets : List Byte) : Kept x (s.onLif (stripFrame octets)) := by
  refine kept_onLif h ?_ ?_ <;> unfold stripFrame <;> split
  · exact { h.lif with }
  · exact h.lif
  · exact id
  · exact id

theorem kept_handleFrame (h : Kept x s) (f : Frame) : Kept { x with free := false } (s.handleFrame f) := by
  unfold State.handleFrame
  split
  · exact (kept_stripFrame h _).drop
  · split
    · exact kept_takeAddressed h f
    · split
      · exact (kept_takeTraffic (kept_forwardFrame h _) f).drop
      · exact (kept_forwardFrame h _).drop

theorem kept_receive (h : Kept x s) (r : Rate) (l : List Byte) : Kept { x with free := false } (s.receive r l) := by
  unfold State.receive
  split
  · unfold State.frameLocked
    split
    · exact kept_handleFrame (kept_onLif h (f := fun l => { l with quiet := some s.quietLimit }) { h.lif with } id) _
    · exact (kept_onLifCounters h _).drop
  · unfold State.frameSearching
    split
    · exact kept_handleFrame (kept_lockLoop h) _
    · exact h.drop

/-! ### Transmission (R160, R165, R189) -/

theorem kept_endSending (h : Kept x s) : Kept { x with free := false } s.endSending := by
  unfold State.endSending
  split
  · exact kept_drain (kept_transmit (kept_onLif h { h.lif with } id))
  · exact h.drop

theorem kept_timDue (h : Kept x s) : Kept x s.timDue := by
  unfold State.timDue
  split
  · exact kept_transmit (kept_onLif h { h.lif with } id)
  · exact h

theorem kept_nextRpt (h : Kept x s) : Kept { x with free := false } s.nextRpt := by
  unfold State.nextRpt
  split
  · next j hj =>
    have a := kept_sendRpt h j (rpt_of_ready hj)
    have b := kept_drain a
    exact b
  · exact h.drop

theorem kept_nextEvt (h : Kept x s) : Kept x s.nextEvt := by
  unfold State.nextEvt
  split
  · next he => exact kept_formEvt h (evt_of_ready he)
  · exact h

/-! ### Shutters and feedback (R117 to R121) -/

theorem length_joinFeedback (c : FeedbackChange) (r : FeedbackRecord) (h : r.changes.length ≤ Config.feedbackDepth) :
    (joinFeedback c r).changes.length ≤ Config.feedbackDepth := by
  unfold joinFeedback
  split
  · exact Nat.le_of_ble_eq_true rfl
  · next o rest hr =>
    split
    · next hl => simp; omega
    · rw [hr] at h; simpa using h

theorem length_ageFeedbackChange (t : LoopTime) (r : FeedbackRecord) (h : r.changes.length ≤ Config.feedbackDepth) :
    (ageFeedbackChange t r).changes.length ≤ Config.feedbackDepth := by
  unfold ageFeedbackChange
  split
  · next c rest hr =>
    split
    · unfold ageOldest
      rw [hr] at h ⊢
      simp at h ⊢
      omega
    · exact h
  · exact h

theorem kept_changeFeedback (h : Kept x s) (t : LoopTime) (r : Rail) (o : Bool) : Kept x (s.withBrg (changeFeedback t r o)) := by
  refine kept_withBrg h ?_ ?_ <;> cases r
  · exact length_joinFeedback _ _ h.leftRecord
  · exact h.leftRecord
  · exact h.rightRecord
  · exact length_joinFeedback _ _ h.rightRecord

theorem kept_ageFeedback (h : Kept x s) (r : Rail) :
    Kept x (s.onBrg fun b => { b with records := b.records.set r (ageFeedbackChange s.now (b.records.get r)) }) := by
  refine kept_onBrg h ?_ ?_ <;> cases r
  · exact length_ageFeedbackChange _ _ h.leftRecord
  · exact h.leftRecord
  · exact h.rightRecord
  · exact length_ageFeedbackChange _ _ h.rightRecord

theorem kept_openTimerExpired (h : Kept x s) (r : Rail) : Kept x (s.openTimerExpired r) := by
  unfold State.openTimerExpired
  extract_lets t
  have a : Kept x t := kept_equipmentChanged (kept_onBrg h h.leftRecord h.rightRecord)
  split
  · exact kept_onPassage a fun q hq => { a.passage q hq with
      axles := by simpa [Passage.setNotOpen] using (a.passage q hq).axles
      records := forall_map (fun b hb => ⟨hb.history, hb.marks⟩) _ (a.passage q hq).records }
  · exact a

theorem kept_closeTimerFault (h : Kept x s) (r : Rail) : Kept x (s.closeTimerFault r) :=
  kept_equipmentChanged (kept_onBrg h h.leftRecord h.rightRecord)

/-- An assertion of the approach input lands where it stands, or aborts a check into ARMED (R117, R180). -/
theorem lands_approachAsserted (h : Kept x s) (hx : x.Fits) :
    Lands x (fun y => y = x.site ∨ x.site = .checking ∧ y = .armed) s.approachAsserted := by
  unfold State.approachAsserted
  split
  · exact (kept_openShutters h).lands hx (.inl rfl)
  · exact (kept_openShutters h).lands hx (.inl rfl)
  · next hs =>
    have e := h.site.symm.trans hs
    split
    · refine (kept_enterArmed (kept_abortCheck h .approach)).landsAt .armed (.inr ⟨e, rfl⟩) ?_
      have h1 := hx.1
      rw [e] at h1
      simp only [Fixed.at, h1]
      rfl
    · exact h.lands hx (.inl rfl)
  · exact h.lands hx (.inl rfl)
  · exact h.lands hx (.inl rfl)

theorem kept_approachReleased (h : Kept x s) : Kept x s.approachReleased := by
  unfold State.approachReleased
  split
  · exact kept_closeWaitApproach h
  all_goals exact h

/-! ### Timers of the passage and of Site Control -/

theorem lands_clearHoldEnd (h : Kept x s) (hx : x.Fits) :
    Lands x (fun y => y = x.site ∨ x.site = .passage ∧ y = .closing) s.clearHoldEnd := by
  unfold State.clearHoldEnd
  split
  · split
    · next hc =>
      have e := h.site.symm.trans hc.1
      exact (kept_endPassage h _).landsAt .closing (.inr ⟨e, rfl⟩) (at_closing x hx e)
    · exact h.lands hx (.inl rfl)
  · exact h.lands hx (.inl rfl)

theorem armed_of_mayCheck (h : Kept x s) (hm : s.mayCheck = true) : x.site = .armed := by
  rw [← h.site]
  unfold State.mayCheck at hm
  simp_all

theorem lands_enterChecking (h : Kept x s) (hx : x.Fits) (hs : x.site = .armed) (n : Nat) :
    Lands x (fun y => y = x.site ∨ x.site = .armed ∧ y = .checking) (s.enterChecking n) :=
  (kept_enterChecking h n).landsAt .checking (.inr ⟨hs, rfl⟩) (at_checking x hx (by rw [hs]; rfl))

theorem lands_intervalEnd (h : Kept x s) (hx : x.Fits) :
    Lands x (fun y => y = x.site ∨ x.site = .armed ∧ y = .checking) s.intervalEnd := by
  have a : Kept x (s.onScu fun u => { u with interval := none, due := true }) := kept_onScu h rfl rfl
  unfold State.intervalEnd
  dsimp only
  split
  · next hm => exact lands_enterChecking a hx (armed_of_mayCheck a hm) 0
  · exact a.lands hx (.inl rfl)

end Sys2Proof.Machine
end

