-- ==== Sys2Proof/Laws/KeptExec.lean ====
section
/-! SUPPORT. What exec can do to the fixed fields: where the site state goes, and that every row keeps the capacities. -/

namespace Sys2Proof.Machine

set_option Elab.async false

variable {s t : State} {dt : Nat}

/-- The rows that change a fixed field beside the loop time and the site state. -/
def special (i : Instr) : Bool :=
  match i with
  | .powerOn | .powerLoss _ _ | .writeTable _ _ _ | .storeComplete _ _ | .readbackInputChange _ _ _ | .approachAssertion _
  | .approachRelease _ | .shutterFeedbackChange _ _ _ => true
  | _ => false

/-- The site states a row may end in (R169, R175). -/
def endsIn (i : Instr) (a b : SiteState) : Prop :=
  b = a ∨ mayMove a b = true ∨ ((∃ d g r, i = .restart d g r) ∧ (b = .offline ∨ b = .checking))

/-- A row that acts on a condition lands where it stands, or where the action lands. -/
theorem lands_whenever {x : Fixed} {p : SiteState → Prop} (hx : x.Fits) (hp : p x.site) {u : State} (h : Kept x u)
    (b : Bool) {f : State → State} (hf : b = true → Lands x p (f u)) : Lands x p (whenever b f u) := by
  unfold whenever
  split
  · next hb => exact hf hb
  · exact h.lands hx hp

/-- The outcome of a timed row of the powered part. -/
theorem timed_next {f : State → State} (h : timed dt f s = .next t) (hp : s.powered = true) : f (s.elapse dt) = t := by
  unfold timed at h
  rw [if_pos hp] at h
  cases h
  rfl

/-- What a non-special row of the powered part can do: it lands in a site state that R169 or R175 allows, with every capacity kept, and changes no other fixed field than the loop time. -/
def RowLands (i : Instr) : Prop :=
  ∀ s t : State, s.Within → s.powered = true → exec i s = .next t →
    Lands { s.fixed with now := later s.now (runTime i) } (endsIn i s.scu.site) t

/-- A timed row lands by what its action does after the loop time that ran. -/
theorem rowLands_of {i : Instr} {f : State → State} (he : ∀ s, exec i s = timed (runTime i) f s)
    (hf : ∀ (x : Fixed) (u : State), Kept x u → x.Fits → Lands x (endsIn i x.site) (f u)) : RowLands i := by
  intro s t hw hp h
  rw [he] at h
  rw [← timed_next h hp]
  exact hf _ _ (kept_elapse (kept_self hw) _) (fits_fixed hw)

/-- A timed row whose action keeps everything lands where it stands. -/
theorem rowLands_kept {i : Instr} {f : State → State} (he : ∀ s, exec i s = timed (runTime i) f s)
    (hf : ∀ (x : Fixed) (u : State), Kept x u → Kept { x with free := false } (f u)) : RowLands i :=
  rowLands_of he fun _ _ hk hx => lands_drop (hf _ _ hk) hx (.inl rfl)

/-- A row that acts on a condition and keeps everything lands where it stands. -/
theorem rowLands_when {i : Instr} {b : State → Bool} {f : State → State}
    (he : ∀ s, exec i s = timed (runTime i) (fun t => whenever (b t) f t) s)
    (hf : ∀ (x : Fixed) (u : State), Kept x u → b u = true → Kept { x with free := false } (f u)) : RowLands i :=
  rowLands_of he fun _ _ hk hx => lands_whenever hx (.inl rfl) hk _ fun hb => lands_drop (hf _ _ hk hb) hx (.inl rfl)

/-- A command row lands by what the command does from a free LIF. -/
theorem rowLands_command {i : Instr} {c : Nat} {g : Byte} {r : List Byte} {f : State → State}
    (he : ∀ s, exec i s = timed (runTime i) (command c g r f) s)
    (hf : ∀ (x : Fixed) (u : State), Kept x u → x.Fits → x.free = true → Lands x (endsIn i x.site) (f u)) : RowLands i :=
  rowLands_of he fun x _ hk hx => lands_command hk hx (.inl rfl) _ _ _ fun v hv => hf { x with free := true } v hv hx rfl

theorem rowLands_readIdentity (dt : Nat) (g : Byte) (r : List Byte) : RowLands (.readIdentity dt g r) :=
  rowLands_command (fun _ => rfl) fun _ _ h hx hf => lands_readIdentity h hx hf (.inl rfl)

theorem rowLands_readStatus (dt : Nat) (g : Byte) (r : List Byte) : RowLands (.readStatus dt g r) :=
  rowLands_command (fun _ => rfl) fun _ _ h hx hf => lands_readStatus h hx hf (.inl rfl)

theorem rowLands_readLive (dt : Nat) (g : Byte) (r : List Byte) : RowLands (.readLive dt g r) :=
  rowLands_command (fun _ => rfl) fun _ _ h hx hf => lands_readLive h hx hf (.inl rfl)

theorem rowLands_readTable (dt : Nat) (g : Byte) (r : List Byte) : RowLands (.readTable dt g r) :=
  rowLands_command (fun _ => rfl) fun _ _ h hx hf => lands_readTable h hx hf (.inl rfl)

theorem rowLands_readAlarms (dt : Nat) (g : Byte) (r : List Byte) : RowLands (.readAlarms dt g r) :=
  rowLands_command (fun _ => rfl) fun _ _ h hx hf => lands_readAlarms h hx hf (.inl rfl)

theorem rowLands_readReport (dt : Nat) (g : Byte) (r : List Byte) : RowLands (.readReport dt g r) :=
  rowLands_command (fun _ => rfl) fun _ _ h hx hf => lands_readReport h hx hf (.inl rfl)

theorem rowLands_releaseReport (dt : Nat) (g : Byte) (r : List Byte) : RowLands (.releaseReport dt g r) :=
  rowLands_command (fun _ => rfl) fun _ _ h hx hf => lands_releaseReport h hx hf (.inl rfl)

theorem rowLands_readSummaries (dt : Nat) (g : Byte) (r : List Byte) : RowLands (.readSummaries dt g r) :=
  rowLands_command (fun _ => rfl) fun _ _ h hx hf => lands_readSummaries h hx hf (.inl rfl)

theorem rowLands_ackEvents (dt : Nat) (g : Byte) (r : List Byte) : RowLands (.ackEvents dt g r) :=
  rowLands_command (fun _ => rfl) fun _ _ h hx hf => lands_ackEvents h hx hf (.inl rfl)

theorem rowLands_setEventMask (dt : Nat) (g : Byte) (r : List Byte) : RowLands (.setEventMask dt g r) :=
  rowLands_command (fun _ => rfl) fun _ _ h hx hf => lands_setEventMask h hx hf (.inl rfl)

theorem rowLands_clearOutputs (dt : Nat) (g : Byte) (r : List Byte) : RowLands (.clearOutputs dt g r) :=
  rowLands_command (fun _ => rfl) fun _ _ h hx hf => lands_clearOutputs h hx hf (.inl rfl)

theorem rowLands_testOutputs (dt : Nat) (g : Byte) (r : List Byte) : RowLands (.testOutputs dt g r) :=
  rowLands_command (fun _ => rfl) fun _ _ h hx hf => lands_testOutputs h hx hf (.inl rfl)

theorem rowLands_storeTables (dt : Nat) (g : Byte) (r : List Byte) : RowLands (.storeTables dt g r) :=
  rowLands_command (fun _ => rfl) fun _ _ h hx hf => lands_storeTables h hx hf (.inl rfl)

theorem rowLands_setStation (dt : Nat) (g : Byte) (r : List Byte) : RowLands (.setStation dt g r) :=
  rowLands_command (fun _ => rfl) fun _ _ h hx hf => lands_setStation h hx hf (.inl rfl)

theorem rowLands_start (dt : Nat) (g : Byte) (r : List Byte) : RowLands (.start dt g r) :=
  rowLands_command (fun _ => rfl) fun _ _ h hx hf => (lands_start h hx hf).mono fun _ hy => by
    rcases hy with hy | ⟨e, rfl⟩
    · exact .inl hy
    · exact .inr (.inl (by rw [e]; rfl))

theorem rowLands_stop (dt : Nat) (g : Byte) (r : List Byte) : RowLands (.stop dt g r) :=
  rowLands_command (fun _ => rfl) fun _ _ h hx hf => (lands_stop h hx hf).mono fun _ hy => by
    rcases hy with hy | ⟨e | e, rfl⟩ | ⟨e, rfl⟩
    · exact .inl hy
    all_goals exact .inr (.inl (by rw [e]; rfl))

theorem rowLands_restart (dt : Nat) (g : Byte) (r : List Byte) : RowLands (.restart dt g r) :=
  rowLands_command (fun _ => rfl) fun _ _ h hx hf => (lands_restart h hx hf).mono fun _ hy => by
    rcases hy with hy | hy
    · exact .inl hy
    · exact .inr (.inr ⟨⟨dt, g, r, rfl⟩, hy⟩)

theorem rowLands_runCheck (dt : Nat) (g : Byte) (r : List Byte) : RowLands (.runCheck dt g r) :=
  rowLands_command (fun _ => rfl) fun _ _ h hx hf => (lands_runCheck h hx hf).mono fun _ hy => by
    rcases hy with hy | ⟨e, rfl⟩
    · exact .inl hy
    · exact .inr (.inl (by rw [e]; rfl))

theorem rowLands_forceClose (dt : Nat) (g : Byte) (r : List Byte) : RowLands (.forceClose dt g r) :=
  rowLands_command (fun _ => rfl) fun _ _ h hx hf => (lands_forceClose h hx hf).mono fun _ hy => by
    rcases hy with hy | ⟨e, rfl⟩
    · exact .inl hy
    · exact .inr (.inl (by rw [e]; rfl))

theorem rowLands_frameReceived (dt : Nat) (r : Rate) (l : List Byte) : RowLands (.frameReceived dt r l) :=
  rowLands_kept (fun _ => rfl) fun _ _ h => kept_receive h r l

theorem rowLands_frameSendComplete (dt : Nat) : RowLands (.frameSendComplete dt) :=
  rowLands_kept (fun _ => rfl) fun _ _ h => kept_endSending h

theorem rowLands_timFrameDue (dt : Nat) : RowLands (.timFrameDue dt) :=
  rowLands_kept (fun _ => rfl) fun _ _ h => (kept_timDue h).drop

theorem rowLands_rptFrameSend (dt : Nat) : RowLands (.rptFrameSend dt) :=
  rowLands_kept (fun _ => rfl) fun _ _ h => kept_nextRpt h

theorem rowLands_evtFrameSend (dt : Nat) : RowLands (.evtFrameSend dt) :=
  rowLands_kept (fun _ => rfl) fun _ _ h => (kept_nextEvt h).drop

theorem rowLands_holdOffExpiry (dt : Nat) : RowLands (.holdOffExpiry dt) :=
  rowLands_when (b := fun u => expired u.rps.holdOff) (fun _ => rfl) fun _ _ h _ => (kept_onRps h h.ring).drop

theorem rowLands_quietTimerExpiry (dt : Nat) : RowLands (.quietTimerExpiry dt) :=
  rowLands_of (f := fun u => whenever (u.lif.locked && expired u.lif.quiet) State.loseLoop u) (fun _ => rfl) fun x _ hk hx =>
    lands_whenever hx (.inl rfl) hk _ fun _ => by
      rcases kept_loseLoop hk with h | ⟨hr, h⟩
      · exact h.lands hx (.inl rfl)
      · have e : x.site = .checking := by have := hx.2; rw [hr] at this; simpa using this.symm
        refine h.landsAt .armed (.inr (.inl (by rw [e]; rfl))) ?_
        have h1 := hx.1
        rw [e] at h1
        simp only [Fixed.at, h1]
        rfl

theorem rowLands_searchDwellExpiry (dt : Nat) : RowLands (.searchDwellExpiry dt) :=
  rowLands_when (b := fun u => !u.lif.locked && expired u.lif.dwell) (fun _ => rfl) fun _ _ h _ =>
    (kept_onLif h { h.lif with } id).drop

theorem rowLands_stripAddressTimeout (dt : Nat) : RowLands (.stripAddressTimeout dt) :=
  rowLands_when (b := fun u => u.lif.strip.any fun p => expired p.timer) (fun _ => rfl) fun _ _ h _ =>
    (kept_onLif h { h.lif with } id).drop

theorem rowLands_supervisionTimerExpiry (dt : Nat) : RowLands (.supervisionTimerExpiry dt) :=
  rowLands_when (b := fun u => expired u.lif.supTimer) (fun _ => rfl) fun _ _ h _ => (kept_loseController h).drop

theorem rowLands_nodeSilenceExpiry (dt n : Nat) : RowLands (.nodeSilenceExpiry dt n) :=
  rowLands_when (b := fun u => expired (u.node n).timer) (fun _ => rfl) fun _ _ h _ =>
    (kept_equipmentChanged (kept_onNode h n _)).drop

theorem rowLands_ambientGateEnd (dt : Nat) : RowLands (.ambientGateEnd dt) :=
  rowLands_when (b := fun u => u.sin.gateLeft == 0) (fun _ => rfl) fun _ _ h _ => (kept_endGate h).drop

theorem rowLands_orderRecordAged (dt n : Nat) : RowLands (.orderRecordAged dt n) :=
  rowLands_kept (f := fun u => u.onNode n (ageOrder u.now)) (fun _ => rfl) fun _ _ h => (kept_onNode h n _).drop

theorem rowLands_releaseRecordAged (dt : Nat) : RowLands (.releaseRecordAged dt) :=
  rowLands_kept (f := fun u => u.onSin fun y => { y with released := ageOut u.now y.released }) (fun _ => rfl)
    fun _ _ h => (kept_onSin h h.history).drop

theorem rowLands_timeOrderRecordAged (dt : Nat) : RowLands (.timeOrderRecordAged dt) :=
  rowLands_kept (f := fun u => u.onPassage fun p => { p with timeOrder := ageOut u.now p.timeOrder }) (fun _ => rfl)
    fun _ u h => (kept_onPassage h (f := fun p => { p with timeOrder := ageOut u.now p.timeOrder })
      fun p hp => { h.passage p hp with }).drop

theorem rowLands_doublePulseRecordAged (dt : Nat) (w : Transducer) (d : Direction) : RowLands (.doublePulseRecordAged dt w d) :=
  rowLands_kept (f := fun u => u.onPassage fun p => setPulseRecord w d (ageOut u.now (pulseRecord p w d)) p) (fun _ => rfl)
    fun _ u h => (kept_setPulse h w d fun p => ageOut u.now (pulseRecord p w d)).drop

theorem rowLands_feedbackRecordAged (dt : Nat) (r : Rail) : RowLands (.feedbackRecordAged dt r) :=
  rowLands_kept (f := fun u => u.onBrg fun b => { b with records := b.records.set r (ageFeedbackChange u.now (b.records.get r)) })
    (fun _ => rfl) fun _ _ h => (kept_ageFeedback h r).drop

theorem rowLands_delayLineRelease (dt : Nat) : RowLands (.delayLineRelease dt) :=
  rowLands_kept (fun _ => rfl) fun _ _ h => (kept_releaseDue h).drop

theorem rowLands_crossingTake (dt : Nat) : RowLands (.crossingTake dt) :=
  rowLands_of (f := State.takeHeadCrossing) (fun _ => rfl) fun x _ hk hx => by
    rcases kept_takeHeadCrossing hk hx with h | ⟨e, h⟩
    · exact h.lands hx (.inl rfl)
    · refine h.landsAt .passage (.inr (.inl ?_)) rfl
      rcases e with e | e <;> rw [e] <;> rfl

theorem rowLands_standingTimerExpiry (dt : Nat) : RowLands (.standingTimerExpiry dt) :=
  rowLands_when (b := fun u => u.passage.any fun p => expired p.standing) (f := State.onPassage standEpisode) (fun _ => rfl)
    fun _ _ h _ => (kept_onPassage h (f := standEpisode) fun p hp => { h.passage p hp with }).drop

theorem rowLands_clearHoldExpiry (dt : Nat) : RowLands (.clearHoldExpiry dt) :=
  rowLands_of (f := State.clearHoldEnd) (fun _ => rfl) fun _ _ hk hx => (lands_clearHoldEnd hk hx).mono fun _ hy => by
    rcases hy with hy | ⟨e, rfl⟩
    · exact .inl hy
    · exact .inr (.inl (by rw [e]; rfl))

theorem rowLands_lossTimerExpiry (dt : Nat) : RowLands (.lossTimerExpiry dt) :=
  rowLands_of (f := fun u => whenever (u.scu.site == .passage && expired u.scu.loss) (State.endPassage .aborted) u)
    (fun _ => rfl) fun x _ hk hx => lands_whenever hx (.inl rfl) hk _ fun hb => by
      have e : x.site = .passage := by rw [← hk.site]; simp_all
      exact (kept_endPassage hk _).landsAt .closing (.inr (.inl (by rw [e]; rfl))) (at_closing x hx e)

theorem rowLands_closingSteps (dt : Nat) : RowLands (.closingSteps dt) :=
  rowLands_of (f := fun u => whenever (u.scu.site == .closing) (fun v => v.runClosing.drain) u)
    (fun _ => rfl) fun x _ hk hx => lands_whenever hx (.inl rfl) hk _ fun hb => by
      have e : x.site = .closing := by rw [← hk.site]; simp_all
      have hr : x.running = false := hx.2.trans (by rw [e]; rfl)
      refine Lands.drain ?_
      rcases kept_runClosing hk with h | h
      · refine h.landsAt .armed (.inr (.inl (by rw [e]; rfl))) ?_
        simp only [Fixed.at, hr]; rfl
      · refine h.landsAt .offline (.inr (.inl (by rw [e]; rfl))) ?_
        simp only [Fixed.at, hr]; rfl

theorem rowLands_markTaken (dt : Nat) : RowLands (.markTaken dt) :=
  rowLands_when (b := State.markDue) (fun _ => rfl) fun _ _ h _ => (kept_takeMark h).drop

theorem rowLands_pulseEnd (dt : Nat) (l : Line) : RowLands (.pulseEnd dt l) :=
  rowLands_when (b := fun u => expired (u.aou.lines.get l).pulse) (fun _ => rfl) fun _ _ h _ =>
    (kept_judgeLine (kept_onLine h l _) l).drop

theorem rowLands_holdTimerExpiry (dt : Nat) (l : Line) : RowLands (.holdTimerExpiry dt l) :=
  rowLands_when (b := fun u => expired (u.aou.lines.get l).hold) (fun _ => rfl) fun _ _ h _ =>
    (kept_judgeLine (kept_onLine h l _) l).drop

theorem rowLands_envelopeEdge (dt : Nat) (l : Line) : RowLands (.envelopeEdge dt l) :=
  rowLands_kept (fun _ => rfl) fun _ _ h => (kept_judgeLine h l).drop

theorem rowLands_readbackTimerExpiry (dt : Nat) (l : Line) : RowLands (.readbackTimerExpiry dt l) :=
  rowLands_when (b := fun u => expired (u.aou.lines.get l).readback) (fun _ => rfl) fun _ _ h _ =>
    (kept_equipmentChanged (kept_onLine h l _)).drop

theorem rowLands_closeTimerExpiry (dt : Nat) : RowLands (.closeTimerExpiry dt) :=
  rowLands_when (b := fun u => expired u.brg.closeTimer) (fun _ => rfl) fun _ _ h _ => (kept_closeShutters h).drop

theorem rowLands_feedbackOpenTimerExpiry (dt : Nat) (r : Rail) : RowLands (.feedbackOpenTimerExpiry dt r) :=
  rowLands_when (b := fun u => expired (u.brg.openTimers.get r)) (fun _ => rfl) fun _ _ h _ => (kept_openTimerExpired h r).drop

theorem rowLands_feedbackCloseTimerExpiry (dt : Nat) (r : Rail) : RowLands (.feedbackCloseTimerExpiry dt r) :=
  rowLands_when (b := fun u => expired (u.brg.closeTimers.get r)) (fun _ => rfl) fun _ _ h _ => (kept_closeTimerFault h r).drop

theorem rowLands_powerSettleEnd (dt : Nat) : RowLands (.powerSettleEnd dt) :=
  rowLands_when (b := fun u => expired u.scu.powerTimer) (fun _ => rfl) fun _ _ h _ => (kept_onScu h rfl rfl).drop

/-- A phase of a running check is in CHECKING. -/
theorem checking_of_phase {x : Fixed} {u : State} (hk : Kept x u) (hx : x.Fits) {p : CheckPhase} (hp : u.scu.check = .run p) :
    x.running = true ∧ x.site = .checking := by
  have hr : x.running = true := by rw [← hk.running, hp]; rfl
  refine ⟨hr, ?_⟩
  have := hx.2
  rw [hr] at this
  simpa using this.symm

theorem rowLands_settleWaitEnd (dt : Nat) : RowLands (.settleWaitEnd dt) :=
  rowLands_of (f := fun u => whenever (u.scu.check == .run .settle && expired u.scu.settle && u.scu.powerMark) State.endSettle u)
    (fun _ => rfl) fun x _ hk hx => lands_whenever hx (.inl rfl) hk _ fun hb => by
      simp only [Bool.and_eq_true, beq_iff_eq] at hb
      obtain ⟨hr, e⟩ := checking_of_phase hk hx hb.1.1
      rcases kept_endSettle hk hr with h | h
      · exact h.lands hx (.inl rfl)
      · refine h.landsAt .armed (.inr (.inl (by rw [e]; rfl))) ?_
        have h1 := hx.1
        rw [e] at h1
        simp only [Fixed.at, h1]
        rfl

theorem rowLands_checkReferencePhase (dt : Nat) : RowLands (.checkReferencePhase dt) :=
  rowLands_of (f := fun u => whenever (u.scu.check == .run .capture && expired u.scu.phaseTimer)
      (State.onScu fun v => { v with check := .run .reference, phaseTimer := none }) u)
    (fun _ => rfl) fun x u hk hx => lands_whenever hx (.inl rfl) hk _ fun hb => by
      simp only [Bool.and_eq_true, beq_iff_eq] at hb
      exact (kept_onScu hk rfl (by rw [hb.1]; rfl)).lands hx (.inl rfl)

theorem rowLands_checkEnd (dt : Nat) : RowLands (.checkEnd dt) :=
  rowLands_of (f := fun u => whenever (u.scu.check == .run .reference && expired u.scu.endTimer) State.endCheck u)
    (fun _ => rfl) fun x _ hk hx => lands_whenever hx (.inl rfl) hk _ fun hb => by
      simp only [Bool.and_eq_true, beq_iff_eq] at hb
      obtain ⟨_, e⟩ := checking_of_phase hk hx hb.1
      refine (kept_endCheck hk).landsAt .armed (.inr (.inl (by rw [e]; rfl))) ?_
      have h1 := hx.1
      rw [e] at h1
      simp only [Fixed.at, h1]
      rfl

theorem endsIn_checking {i : Instr} {a b : SiteState} (h : b = a ∨ a = .armed ∧ b = .checking) : endsIn i a b := by
  rcases h with h | ⟨rfl, rfl⟩
  · exact .inl h
  · exact .inr (.inl rfl)

theorem rowLands_intervalTimerExpiry (dt : Nat) : RowLands (.intervalTimerExpiry dt) :=
  rowLands_of (f := fun u => whenever (expired u.scu.interval) State.intervalEnd u) (fun _ => rfl) fun _ _ hk hx =>
    lands_whenever hx (.inl rfl) hk _ fun _ => (lands_intervalEnd hk hx).mono fun _ => endsIn_checking

theorem rowLands_dueCheckStart (dt : Nat) : RowLands (.dueCheckStart dt) :=
  rowLands_of (f := fun u => whenever (u.scu.due && u.mayCheck) (State.enterChecking 0) u) (fun _ => rfl) fun _ _ hk hx =>
    lands_whenever hx (.inl rfl) hk _ fun hb =>
      (lands_enterChecking hk hx (armed_of_mayCheck hk (Bool.and_eq_true _ _ ▸ hb : _ ∧ _).2) 0).mono fun _ => endsIn_checking

theorem rowLands_ambientOscillatorCycle (dt : Nat) : RowLands (.ambientOscillatorCycle dt) :=
  rowLands_kept (fun _ => rfl) fun _ _ h => (kept_onSin h h.history).drop

/-- Every row that is not special lands as R169 and R175 allow. -/
theorem rowLands_all (i : Instr) (hs : special i = false) : RowLands i := by
  cases i
  · cases hs
  · exact rowLands_readIdentity _ _ _
  · exact rowLands_readStatus _ _ _
  · exact rowLands_readLive _ _ _
  · cases hs
  · exact rowLands_readTable _ _ _
  · exact rowLands_start _ _ _
  · exact rowLands_stop _ _ _
  · exact rowLands_restart _ _ _
  · exact rowLands_runCheck _ _ _
  · exact rowLands_forceClose _ _ _
  · exact rowLands_readAlarms _ _ _
  · exact rowLands_readReport _ _ _
  · exact rowLands_releaseReport _ _ _
  · exact rowLands_readSummaries _ _ _
  · exact rowLands_ackEvents _ _ _
  · exact rowLands_setEventMask _ _ _
  · exact rowLands_clearOutputs _ _ _
  · exact rowLands_testOutputs _ _ _
  · exact rowLands_storeTables _ _ _
  · exact rowLands_setStation _ _ _
  · cases hs
  · exact rowLands_frameReceived _ _ _
  · exact rowLands_frameSendComplete _
  · exact rowLands_timFrameDue _
  · exact rowLands_rptFrameSend _
  · exact rowLands_evtFrameSend _
  · exact rowLands_holdOffExpiry _
  · exact rowLands_quietTimerExpiry _
  · exact rowLands_searchDwellExpiry _
  · exact rowLands_stripAddressTimeout _
  · exact rowLands_supervisionTimerExpiry _
  · exact rowLands_nodeSilenceExpiry _ _
  · exact rowLands_ambientGateEnd _
  · exact rowLands_orderRecordAged _ _
  · exact rowLands_releaseRecordAged _
  · exact rowLands_timeOrderRecordAged _
  · exact rowLands_doublePulseRecordAged _ _ _
  · exact rowLands_feedbackRecordAged _ _
  · exact rowLands_delayLineRelease _
  · exact rowLands_crossingTake _
  · exact rowLands_standingTimerExpiry _
  · exact rowLands_clearHoldExpiry _
  · exact rowLands_lossTimerExpiry _
  · exact rowLands_closingSteps _
  · exact rowLands_markTaken _
  · exact rowLands_pulseEnd _ _
  · exact rowLands_holdTimerExpiry _ _
  · exact rowLands_envelopeEdge _ _
  · cases hs
  · exact rowLands_readbackTimerExpiry _ _
  · cases hs
  · cases hs
  · exact rowLands_closeTimerExpiry _
  · cases hs
  · exact rowLands_feedbackOpenTimerExpiry _ _
  · exact rowLands_feedbackCloseTimerExpiry _ _
  · exact rowLands_powerSettleEnd _
  · exact rowLands_settleWaitEnd _
  · exact rowLands_checkReferencePhase _
  · exact rowLands_checkEnd _
  · exact rowLands_intervalTimerExpiry _
  · exact rowLands_dueCheckStart _
  · cases hs
  · exact rowLands_ambientOscillatorCycle _

end Sys2Proof.Machine
end

