-- ==== Sys2Proof/Laws/KeptInputs.lean ====
section
/-! SUPPORT. Where the rows land that change a table, the store or an input. -/

namespace Sys2Proof.Machine

set_option Elab.async false

variable {s t : State} {dt : Nat}

/-- WRITE_TABLE lands where it stands, with the tables and their marks free (R193). -/
theorem rowLands_writeTable (g : Byte) (r : List Byte) (hw : s.Within) (hp : s.powered = true)
    (h : exec (.writeTable dt g r) s = .next t) :
    ∃ a b, Lands { s.fixed with now := later s.now dt, tables := a, invalid := b } (· = s.scu.site) t := by
  rw [exec_writeTable] at h
  rw [← timed_next h hp]
  have hk := kept_elapse (kept_self hw) dt
  have hx : ({ s.fixed with now := later s.now dt } : Fixed).Fits := fits_fixed hw
  unfold command
  split
  · next u hu =>
    obtain ⟨a, b, l⟩ := lands_writeTable (p := (· = s.scu.site)) (tag := g) (args := r)
      (kept_takeCommand hk _ _ _ hu) hx rfl rfl
    exact ⟨a, b, l.drain⟩
  · exact ⟨_, _, hk.lands hx rfl⟩

/-- STORE_COMPLETE lands where it stands, with the store free (R184). -/
theorem rowLands_storeComplete (failed : Option Nat) (hw : s.Within) (hp : s.powered = true)
    (h : exec (.storeComplete dt failed) s = .next t) :
    ∃ a, Lands { s.fixed with now := later s.now dt, store := a } (· = s.scu.site) t := by
  rw [exec_storeComplete] at h
  rw [← timed_next h hp]
  exact ⟨_, (lands_completeStore (p := (· = s.scu.site)) (kept_elapse (kept_self hw) dt) (fits_fixed hw) rfl failed).drain⟩

/-- An input's row lands where its action lands, with the input's new level. -/
theorem rowLands_pin {c : State → Bool} {f : State → State} {p : Pins → Pins} {q : SiteState → Prop} (hw : s.Within)
    (hp : s.powered = true) (h : pinRow dt c f p s = .next t) (hq : q s.scu.site)
    (hf : ∀ (x : Fixed) (u : State), Kept x u → x.Fits → x.site = s.scu.site → Lands x q (f u)) :
    Lands { s.fixed with now := later s.now dt, pins := p s.pins } q t := by
  unfold pinRow at h
  rw [if_pos hp] at h
  cases h
  have hk : Kept { s.fixed with now := later s.now dt, pins := p s.pins } { s.elapse dt with pins := p s.pins } :=
    { kept_elapse (kept_self hw) dt with pins := rfl }
  unfold whenever
  split
  · exact hf _ _ hk (fits_fixed hw) rfl
  · exact hk.lands (fits_fixed hw) hq

theorem rowLands_readbackInputChange (l : Line) (b : Bool) (hw : s.Within) (hp : s.powered = true)
    (h : exec (.readbackInputChange dt l b) s = .next t) :
    Lands { s.fixed with now := later s.now dt, pins := pinsAfter (.readbackInputChange dt l b) s.pins } (· = s.scu.site) t := by
  rw [exec_readbackInputChange] at h
  exact rowLands_pin hw hp h rfl fun x u hk hx e => by
    have k : Kept x (u.readbackChanged l b) := kept_onAou (s := u) (f := fun a => { a with lines := a.lines.set l _ }) hk hk.alarms
    exact k.lands hx e

theorem rowLands_approachAssertion (hw : s.Within) (hp : s.powered = true) (h : exec (.approachAssertion dt) s = .next t) :
    Lands { s.fixed with now := later s.now dt, pins := pinsAfter (.approachAssertion dt) s.pins }
      (endsIn (.approachAssertion dt) s.scu.site) t := by
  rw [exec_approachAssertion] at h
  refine rowLands_pin hw hp h (.inl rfl) fun x u hk hx e => (lands_approachAsserted hk hx).mono fun y hy => ?_
  rcases hy with hy | ⟨hy, rfl⟩
  · exact .inl (hy.trans e)
  · exact .inr (.inl (by rw [← e, hy]; rfl))

theorem rowLands_approachRelease (hw : s.Within) (hp : s.powered = true) (h : exec (.approachRelease dt) s = .next t) :
    Lands { s.fixed with now := later s.now dt, pins := pinsAfter (.approachRelease dt) s.pins } (· = s.scu.site) t := by
  rw [exec_approachRelease] at h
  exact rowLands_pin hw hp h rfl fun x u hk hx e => (kept_approachReleased hk).lands hx e

theorem rowLands_shutterFeedbackChange (r : Rail) (b : Bool) (hw : s.Within) (hp : s.powered = true)
    (h : exec (.shutterFeedbackChange dt r b) s = .next t) :
    Lands { s.fixed with now := later s.now dt, pins := pinsAfter (.shutterFeedbackChange dt r b) s.pins } (· = s.scu.site) t := by
  rw [exec_shutterFeedbackChange] at h
  exact rowLands_pin hw hp h rfl fun x u hk hx e => (kept_changeFeedback hk _ _ _).lands hx e

/-- The site state in which a state lands. -/
theorem Lands.site {x : Fixed} {p : SiteState → Prop} (h : Lands x p t) : p t.scu.site := by
  obtain ⟨y, hy, hk⟩ := h
  rw [hk.site]
  exact hy

end Sys2Proof.Machine
end

