-- ==== Sys2Proof/Laws/Lines.lean ====
section
/-! SUPPORT. What judging the lines does to each line and keeps of it, and what an entry into OFFLINE leaves. -/

namespace Sys2Proof.Machine

set_option Elab.async false

variable (s : State)

/-- The value of one rail after a change of the same rail. -/
@[simp] theorem PerRail.get_set_self {α : Type} (p : PerRail α) (r : Rail) (a : α) : (p.set r a).get r = a := by
  cases r <;> rfl

/-- The value of one rail after a change of the other. -/
theorem PerRail.get_set_of_ne {α : Type} (p : PerRail α) {r k : Rail} (a : α) (h : k ≠ r) : (p.set r a).get k = p.get k := by
  cases r <;> cases k <;> first | rfl | exact absurd rfl h

/-- A function applied on both rails. -/
@[simp] theorem PerRail.get_map {α β : Type} (f : α → β) (p : PerRail α) (r : Rail) : (p.map f).get r = f (p.get r) := by
  cases r <;> rfl

/-- The value of one line after a change of the same line. -/
@[simp] theorem PerLine.get_set_self {α : Type} (p : PerLine α) (l : Line) (a : α) : (p.set l a).get l = a := by
  cases l <;> rfl

/-- The value of one line after a change of another. -/
theorem PerLine.get_set_of_ne {α : Type} (p : PerLine α) {l k : Line} (a : α) (h : k ≠ l) : (p.set l a).get k = p.get k := by
  cases l <;> cases k <;> first | rfl | exact absurd rfl h

/-- A function applied on all lines. -/
@[simp] theorem PerLine.get_map {α β : Type} (f : α → β) (p : PerLine α) (l : Line) : (p.map f).get l = f (p.get l) := by
  cases l <;> rfl

@[simp] theorem hold_judgeLine (k l : Line) : ((s.judgeLine k).aou.lines.get l).hold = (s.aou.lines.get l).hold := by
  cases k <;> cases l <;> rfl

@[simp] theorem pulse_judgeLine (k l : Line) : ((s.judgeLine k).aou.lines.get l).pulse = (s.aou.lines.get l).pulse := by
  cases k <;> cases l <;> rfl

@[simp] theorem test_judgeLine (k l : Line) : ((s.judgeLine k).aou.lines.get l).test = (s.aou.lines.get l).test := by
  cases k <;> cases l <;> rfl

@[simp] theorem latched_judgeLine (k l : Line) : ((s.judgeLine k).aou.lines.get l).latched = (s.aou.lines.get l).latched := by
  cases k <;> cases l <;> rfl

@[simp] theorem faulty_judgeLine (k l : Line) : ((s.judgeLine k).aou.lines.get l).faulty = (s.aou.lines.get l).faulty := by
  cases k <;> cases l <;> rfl

@[simp] theorem phase_judgeLine (k l : Line) : ((s.judgeLine k).aou.lines.get l).phase = (s.aou.lines.get l).phase := by
  cases k <;> cases l <;> rfl

@[simp] theorem hold_judgeLines (l : Line) : (s.judgeLines.aou.lines.get l).hold = (s.aou.lines.get l).hold := by
  simp [State.judgeLines, forEach, allLines]

@[simp] theorem pulse_judgeLines (l : Line) : (s.judgeLines.aou.lines.get l).pulse = (s.aou.lines.get l).pulse := by
  simp [State.judgeLines, forEach, allLines]

@[simp] theorem test_judgeLines (l : Line) : (s.judgeLines.aou.lines.get l).test = (s.aou.lines.get l).test := by
  simp [State.judgeLines, forEach, allLines]

@[simp] theorem latched_judgeLines (l : Line) : (s.judgeLines.aou.lines.get l).latched = (s.aou.lines.get l).latched := by
  simp [State.judgeLines, forEach, allLines]

@[simp] theorem faulty_judgeLines (l : Line) : (s.judgeLines.aou.lines.get l).faulty = (s.aou.lines.get l).faulty := by
  simp [State.judgeLines, forEach, allLines]

@[simp] theorem phase_judgeLines (l : Line) : (s.judgeLines.aou.lines.get l).phase = (s.aou.lines.get l).phase := by
  simp [State.judgeLines, forEach, allLines]

@[simp] theorem hold_equipmentChanged (l : Line) : (s.equipmentChanged.aou.lines.get l).hold = (s.aou.lines.get l).hold := by
  simp [State.equipmentChanged]

@[simp] theorem pulse_equipmentChanged (l : Line) : (s.equipmentChanged.aou.lines.get l).pulse = (s.aou.lines.get l).pulse := by
  simp [State.equipmentChanged]

@[simp] theorem test_equipmentChanged (l : Line) : (s.equipmentChanged.aou.lines.get l).test = (s.aou.lines.get l).test := by
  simp [State.equipmentChanged]

@[simp] theorem latched_equipmentChanged (l : Line) : (s.equipmentChanged.aou.lines.get l).latched = (s.aou.lines.get l).latched := by
  simp [State.equipmentChanged]

@[simp] theorem faulty_equipmentChanged (l : Line) : (s.equipmentChanged.aou.lines.get l).faulty = (s.aou.lines.get l).faulty := by
  simp [State.equipmentChanged]

@[simp] theorem phase_equipmentChanged (l : Line) : (s.equipmentChanged.aou.lines.get l).phase = (s.aou.lines.get l).phase := by
  simp [State.equipmentChanged]

@[simp] theorem hold_equipmentSince (b : State) (l : Line) : ((State.equipmentSince b s).aou.lines.get l).hold = (s.aou.lines.get l).hold := by
  unfold State.equipmentSince
  split <;> simp

@[simp] theorem pulse_equipmentSince (b : State) (l : Line) : ((State.equipmentSince b s).aou.lines.get l).pulse = (s.aou.lines.get l).pulse := by
  unfold State.equipmentSince
  split <;> simp

@[simp] theorem test_equipmentSince (b : State) (l : Line) : ((State.equipmentSince b s).aou.lines.get l).test = (s.aou.lines.get l).test := by
  unfold State.equipmentSince
  split <;> simp

@[simp] theorem latched_equipmentSince (b : State) (l : Line) : ((State.equipmentSince b s).aou.lines.get l).latched = (s.aou.lines.get l).latched := by
  unfold State.equipmentSince
  split <;> simp

@[simp] theorem faulty_equipmentSince (b : State) (l : Line) : ((State.equipmentSince b s).aou.lines.get l).faulty = (s.aou.lines.get l).faulty := by
  unfold State.equipmentSince
  split <;> simp

@[simp] theorem phase_equipmentSince (b : State) (l : Line) : ((State.equipmentSince b s).aou.lines.get l).phase = (s.aou.lines.get l).phase := by
  unfold State.equipmentSince
  split <;> simp

@[simp] theorem hold_closeShutters (l : Line) : (s.closeShutters.aou.lines.get l).hold = (s.aou.lines.get l).hold := by
  unfold State.closeShutters State.withBrg
  dsimp only
  split <;> (try split) <;> simp

@[simp] theorem pulse_closeShutters (l : Line) : (s.closeShutters.aou.lines.get l).pulse = (s.aou.lines.get l).pulse := by
  unfold State.closeShutters State.withBrg
  dsimp only
  split <;> (try split) <;> simp

@[simp] theorem test_closeShutters (l : Line) : (s.closeShutters.aou.lines.get l).test = (s.aou.lines.get l).test := by
  unfold State.closeShutters State.withBrg
  dsimp only
  split <;> (try split) <;> simp

@[simp] theorem latched_closeShutters (l : Line) : (s.closeShutters.aou.lines.get l).latched = (s.aou.lines.get l).latched := by
  unfold State.closeShutters State.withBrg
  dsimp only
  split <;> (try split) <;> simp

@[simp] theorem faulty_closeShutters (l : Line) : (s.closeShutters.aou.lines.get l).faulty = (s.aou.lines.get l).faulty := by
  unfold State.closeShutters State.withBrg
  dsimp only
  split <;> (try split) <;> simp

@[simp] theorem phase_closeShutters (l : Line) : (s.closeShutters.aou.lines.get l).phase = (s.aou.lines.get l).phase := by
  unfold State.closeShutters State.withBrg
  dsimp only
  split <;> (try split) <;> simp

/-- The equipment fault set does not depend on how the lines are driven (R140). -/
@[simp] theorem faultSet_judgeLine (k : Line) : (s.judgeLine k).faultSet = s.faultSet := by
  unfold State.faultSet
  simp only [faulty_judgeLine]
  rfl

/-- A judged line leaves every line's assertion as it was decided (R142). -/
@[simp] theorem lineAsserted_judgeLine (k l : Line) : (s.judgeLine k).lineAsserted l = s.lineAsserted l := by
  unfold State.lineAsserted State.lineSource
  simp only [faultSet_judgeLine, test_judgeLine, latched_judgeLine, pulse_judgeLine, hold_judgeLine]
  rfl

/-- A judged line takes its assertion and driven level from its sources (R142, R145). -/
theorem line_judgeLine_self (l : Line) : (s.judgeLine l).aou.lines.get l
    = applyLine (s.outputEntry l) (s.lineAsserted l) (s.pins.readback.get l) (s.aou.lines.get l) := by
  simp [State.judgeLine, State.onLine]

/-- Judging one line changes no other. -/
theorem line_judgeLine_ne {k l : Line} (h : k ≠ l) : (s.judgeLine l).aou.lines.get k = s.aou.lines.get k := by
  simp [State.judgeLine, State.onLine, PerLine.get_set_of_ne _ _ h]

/-- Judging the lines gives each line what judging it alone gives (R142, R145). -/
theorem line_judgeLines (l : Line) : s.judgeLines.aou.lines.get l
    = applyLine (s.outputEntry l) (s.lineAsserted l) (s.pins.readback.get l) (s.aou.lines.get l) := by
  have oe : ∀ (t : State) (k : Line), (t.judgeLine k).outputEntry = t.outputEntry := fun _ _ => rfl
  have pe : ∀ (t : State) (k : Line), (t.judgeLine k).pins = t.pins := fun _ _ => rfl
  unfold State.judgeLines forEach allLines
  simp only [List.foldl]
  cases l
  · rw [line_judgeLine_ne _ (by decide), line_judgeLine_ne _ (by decide), line_judgeLine_ne _ (by decide), line_judgeLine_self]
  · rw [line_judgeLine_ne _ (by decide), line_judgeLine_ne _ (by decide), line_judgeLine_self]
    simp only [lineAsserted_judgeLine, oe, pe, line_judgeLine_ne _ (show Line.o2 ≠ .o1 by decide)]
  · rw [line_judgeLine_ne _ (by decide), line_judgeLine_self]
    simp only [lineAsserted_judgeLine, oe, pe, line_judgeLine_ne _ (show Line.o3 ≠ .o1 by decide),
      line_judgeLine_ne _ (show Line.o3 ≠ .o2 by decide)]
  · rw [line_judgeLine_self]
    simp only [lineAsserted_judgeLine, oe, pe, line_judgeLine_ne _ (show Line.o4 ≠ .o1 by decide),
      line_judgeLine_ne _ (show Line.o4 ≠ .o2 by decide), line_judgeLine_ne _ (show Line.o4 ≠ .o3 by decide)]

/-- Judging the lines leaves what they are judged by (R142). -/
@[simp] theorem lineAsserted_judgeLines (l : Line) : s.judgeLines.lineAsserted l = s.lineAsserted l := by
  simp [State.judgeLines, forEach, allLines]

/-- Two states that agree in all but AOU differ in AOU alone. -/
theorem eq_of_aou {x y : State} (h1 : x.pending = y.pending) (h2 : x.powered = y.powered) (h3 : x.now = y.now)
    (h4 : x.pins = y.pins) (h5 : x.store = y.store) (h6 : x.conds = y.conds) (h7 : x.tables = y.tables)
    (h8 : x.invalid = y.invalid) (h9 : x.commit = y.commit) (h10 : x.lif = y.lif) (h11 : x.sin = y.sin) (h12 : x.axt = y.axt)
    (h13 : x.passage = y.passage) (h14 : x.brg = y.brg) (h15 : x.rps = y.rps) (h16 : x.scu = y.scu) :
    x = { y with aou := x.aou } := by
  cases x
  cases y
  simp_all

/-- Every block is as its rules state for OFFLINE right after the entry (R169). -/
theorem rests_enterOffline : Rests s.enterOffline := by
  refine ⟨?_, raised_enterOffline_self s, ?_, ?_, ?_, ?_, ?_, ?_, ?_, ?_, ?_, ?_⟩
  · rw [scu_enterOffline]; rfl
  · rw [scu_enterOffline]; rfl
  · rw [scu_enterOffline]; rfl
  · rw [axt_enterOffline]; rfl
  · rw [sin_enterOffline]; rfl
  · rw [sin_enterOffline]; rfl
  · rw [sin_enterOffline]
    intro n h
    simp only [suspendNodes, List.mem_map] at h
    obtain ⟨m, _, rfl⟩ := h
    exact ⟨rfl, rfl⟩
  · rw [lif_enterOffline]; rfl
  · rw [lif_enterOffline]; rfl
  · unfold State.enterOffline
    simp
  · intro l
    unfold State.enterOffline
    simp [offlineLine]

end Sys2Proof.Machine
end

