-- ==== Sys2Proof/Laws/Octets.lean ====
section
/-! SUPPORT. Numbers as octets: how many octets a number takes and what they spell; the CRC as a fold. -/

namespace Sys2Proof.Machine

set_option Elab.async false

/-- A number in `n` octets takes `n` octets. -/
@[simp] theorem length_octets (n v : Nat) : (octets n v).length = n := by
  induction n generalizing v with
  | zero => rfl
  | succ k ih => simp [octets, ih]

/-- A further octet is the least significant. -/
theorem getNat_append (a : List Byte) (b : Byte) : getNat (a ++ [b]) = 256 * getNat a + b.toNat := by
  simp [getNat, List.foldl_append]

/-- The octets of a number spell its remainder by what they can hold. -/
theorem getNat_octets (n v : Nat) : getNat (octets n v) = v % 256 ^ n := by
  induction n generalizing v with
  | zero => simp [octets, getNat, Nat.mod_one]
  | succ k ih =>
    rw [octets, getNat_append, ih, Nat.pow_succ, Nat.mul_comm (256 ^ k), Nat.mod_mul]
    simp
    omega

/-- The CRC folds one octet after the other (R200). -/
theorem crcFrom_eq (c : BitVec 16) (l : List Byte) : crcFrom c l = l.foldl crcOctet c := by
  induction l generalizing c with
  | nil => rfl
  | cons b l ih =>
    have e : crcFrom c (b :: l) = crcFrom (crcOctet c b) l := by
      rw [crcFrom]
      split
      · next h => rw [show crcOctet c b = 0 from BitVec.eq_of_toNat_eq h]
      · next n h => rw [show n + 1 = (crcOctet c b).toNat from h.symm, BitVec.ofNat_toNat, BitVec.setWidth_eq]
    rw [e, ih]
    rfl

end Sys2Proof.Machine
end

