-- ==== Sys2Proof/WellFormed.lean ====
section
/-! DEFINITION. Which commands are well formed: the bounds R200 and R182 put on a command's operands. -/

namespace Sys2Proof

/-- Argument bytes fit one CMD payload beside the four bytes of the envelope (R200: a payload holds up to 4,096 bytes). -/
def argsFit (args : List Byte) : Bool := args.length ≤ 4092

/-- A frame's octets: header, at most 1,024 words of payload, CRC-16 (R200). -/
def frameFits (bytes : List Byte) : Bool := bytes.length ≤ 5 + 4096 + 2

/-- A node-table entry number (R5). -/
def nodeNumber (n : Nat) : Bool := 1 ≤ n && n ≤ 12

/-- A section of the settings store by its place in the order of R182: fourteen tables, then the identity. -/
def sectionNumber (n : Nat) : Bool := n < 15

/-- A command whose operands lie in the ranges the manual gives them. -/
def Instr.wellFormed (i : Instr) : Bool :=
  match i with
  | .powerOn => true
  | .readIdentity _ _ args | .readStatus _ _ args | .readLive _ _ args | .writeTable _ _ args
  | .readTable _ _ args | .start _ _ args | .stop _ _ args | .restart _ _ args
  | .runCheck _ _ args | .forceClose _ _ args | .readAlarms _ _ args | .readReport _ _ args
  | .releaseReport _ _ args | .readSummaries _ _ args | .ackEvents _ _ args
  | .setEventMask _ _ args | .clearOutputs _ _ args | .testOutputs _ _ args
  | .storeTables _ _ args | .setStation _ _ args => argsFit args
  | .storeComplete _ failed => failed.all sectionNumber
  | .frameReceived _ _ bytes => frameFits bytes
  | .nodeSilenceExpiry _ node | .orderRecordAged _ node => nodeNumber node
  | .powerLoss _ writing => sectionNumber writing
  | .frameSendComplete _ | .timFrameDue _ | .rptFrameSend _ | .evtFrameSend _
  | .holdOffExpiry _ | .quietTimerExpiry _ | .searchDwellExpiry _ | .stripAddressTimeout _
  | .supervisionTimerExpiry _ | .ambientGateEnd _ | .releaseRecordAged _
  | .timeOrderRecordAged _ | .doublePulseRecordAged _ _ _ | .feedbackRecordAged _ _
  | .delayLineRelease _ | .crossingTake _ | .standingTimerExpiry _ | .clearHoldExpiry _
  | .lossTimerExpiry _ | .closingSteps _ | .markTaken _ | .pulseEnd _ _
  | .holdTimerExpiry _ _ | .envelopeEdge _ _ | .readbackInputChange _ _ _
  | .readbackTimerExpiry _ _ | .approachAssertion _ | .approachRelease _
  | .closeTimerExpiry _ | .shutterFeedbackChange _ _ _ | .feedbackOpenTimerExpiry _ _
  | .feedbackCloseTimerExpiry _ _ | .powerSettleEnd _ | .settleWaitEnd _
  | .checkReferencePhase _ | .checkEnd _ | .intervalTimerExpiry _ | .dueCheckStart _
  | .ambientOscillatorCycle _ => true

end Sys2Proof
end

