-- ==== Sys2Proof/Laws/PerInstr.lean ====
section
/-! SUPPORT. The statements made for each command as syntax: a well-formed command carries no more octets than one frame of the site loop. -/

namespace Sys2Proof.Laws.Fits

set_option Elab.async false

/-- The octets a command carries: the arguments of a command frame, or a received frame. -/
def octets (i : Instr) : List Byte :=
  match i with
  | .powerOn => []
  | .readIdentity _ _ args => args
  | .readStatus _ _ args => args
  | .readLive _ _ args => args
  | .writeTable _ _ args => args
  | .readTable _ _ args => args
  | .start _ _ args => args
  | .stop _ _ args => args
  | .restart _ _ args => args
  | .runCheck _ _ args => args
  | .forceClose _ _ args => args
  | .readAlarms _ _ args => args
  | .readReport _ _ args => args
  | .releaseReport _ _ args => args
  | .readSummaries _ _ args => args
  | .ackEvents _ _ args => args
  | .setEventMask _ _ args => args
  | .clearOutputs _ _ args => args
  | .testOutputs _ _ args => args
  | .storeTables _ _ args => args
  | .setStation _ _ args => args
  | .storeComplete _ _ => []
  | .frameReceived _ _ bytes => bytes
  | .frameSendComplete _ => []
  | .timFrameDue _ => []
  | .rptFrameSend _ => []
  | .evtFrameSend _ => []
  | .holdOffExpiry _ => []
  | .quietTimerExpiry _ => []
  | .searchDwellExpiry _ => []
  | .stripAddressTimeout _ => []
  | .supervisionTimerExpiry _ => []
  | .nodeSilenceExpiry _ _ => []
  | .ambientGateEnd _ => []
  | .orderRecordAged _ _ => []
  | .releaseRecordAged _ => []
  | .timeOrderRecordAged _ => []
  | .doublePulseRecordAged _ _ _ => []
  | .feedbackRecordAged _ _ => []
  | .delayLineRelease _ => []
  | .crossingTake _ => []
  | .standingTimerExpiry _ => []
  | .clearHoldExpiry _ => []
  | .lossTimerExpiry _ => []
  | .closingSteps _ => []
  | .markTaken _ => []
  | .pulseEnd _ _ => []
  | .holdTimerExpiry _ _ => []
  | .envelopeEdge _ _ => []
  | .readbackInputChange _ _ _ => []
  | .readbackTimerExpiry _ _ => []
  | .approachAssertion _ => []
  | .approachRelease _ => []
  | .closeTimerExpiry _ => []
  | .shutterFeedbackChange _ _ _ => []
  | .feedbackOpenTimerExpiry _ _ => []
  | .feedbackCloseTimerExpiry _ _ => []
  | .powerSettleEnd _ => []
  | .settleWaitEnd _ => []
  | .checkReferencePhase _ => []
  | .checkEnd _ => []
  | .intervalTimerExpiry _ => []
  | .dueCheckStart _ => []
  | .powerLoss _ _ => []
  | .ambientOscillatorCycle _ => []

/-- A well-formed command's octets fit one frame of the site loop: header, 4,096 bytes of payload, CRC-16 (R200). -/
def Statement (i : Instr) : Prop := i.wellFormed = true → (octets i).length ≤ 5 + 4096 + 2

/-- Arguments that fit a CMD payload fit a frame. -/
theorem argsFit_frame {args : List Byte} (h : argsFit args = true) : args.length ≤ 5 + 4096 + 2 :=
  Nat.le_trans (of_decide_eq_true h) (by decide)

theorem powerOn : Statement (.powerOn) := fun _ => Nat.zero_le _
theorem readIdentity (dt : Nat) (tag : Byte) (args : List Byte) : Statement (.readIdentity dt tag args) := argsFit_frame
theorem readStatus (dt : Nat) (tag : Byte) (args : List Byte) : Statement (.readStatus dt tag args) := argsFit_frame
theorem readLive (dt : Nat) (tag : Byte) (args : List Byte) : Statement (.readLive dt tag args) := argsFit_frame
theorem writeTable (dt : Nat) (tag : Byte) (args : List Byte) : Statement (.writeTable dt tag args) := argsFit_frame
theorem readTable (dt : Nat) (tag : Byte) (args : List Byte) : Statement (.readTable dt tag args) := argsFit_frame
theorem start (dt : Nat) (tag : Byte) (args : List Byte) : Statement (.start dt tag args) := argsFit_frame
theorem stop (dt : Nat) (tag : Byte) (args : List Byte) : Statement (.stop dt tag args) := argsFit_frame
theorem restart (dt : Nat) (tag : Byte) (args : List Byte) : Statement (.restart dt tag args) := argsFit_frame
theorem runCheck (dt : Nat) (tag : Byte) (args : List Byte) : Statement (.runCheck dt tag args) := argsFit_frame
theorem forceClose (dt : Nat) (tag : Byte) (args : List Byte) : Statement (.forceClose dt tag args) := argsFit_frame
theorem readAlarms (dt : Nat) (tag : Byte) (args : List Byte) : Statement (.readAlarms dt tag args) := argsFit_frame
theorem readReport (dt : Nat) (tag : Byte) (args : List Byte) : Statement (.readReport dt tag args) := argsFit_frame
theorem releaseReport (dt : Nat) (tag : Byte) (args : List Byte) : Statement (.releaseReport dt tag args) := argsFit_frame
theorem readSummaries (dt : Nat) (tag : Byte) (args : List Byte) : Statement (.readSummaries dt tag args) := argsFit_frame
theorem ackEvents (dt : Nat) (tag : Byte) (args : List Byte) : Statement (.ackEvents dt tag args) := argsFit_frame
theorem setEventMask (dt : Nat) (tag : Byte) (args : List Byte) : Statement (.setEventMask dt tag args) := argsFit_frame
theorem clearOutputs (dt : Nat) (tag : Byte) (args : List Byte) : Statement (.clearOutputs dt tag args) := argsFit_frame
theorem testOutputs (dt : Nat) (tag : Byte) (args : List Byte) : Statement (.testOutputs dt tag args) := argsFit_frame
theorem storeTables (dt : Nat) (tag : Byte) (args : List Byte) : Statement (.storeTables dt tag args) := argsFit_frame
theorem setStation (dt : Nat) (tag : Byte) (args : List Byte) : Statement (.setStation dt tag args) := argsFit_frame
theorem storeComplete (dt : Nat) (failed : Option Nat) : Statement (.storeComplete dt failed) := fun _ => Nat.zero_le _
theorem frameReceived (dt : Nat) (rate : Rate) (bytes : List Byte) : Statement (.frameReceived dt rate bytes) := of_decide_eq_true
theorem frameSendComplete (dt : Nat) : Statement (.frameSendComplete dt) := fun _ => Nat.zero_le _
theorem timFrameDue (dt : Nat) : Statement (.timFrameDue dt) := fun _ => Nat.zero_le _
theorem rptFrameSend (dt : Nat) : Statement (.rptFrameSend dt) := fun _ => Nat.zero_le _
theorem evtFrameSend (dt : Nat) : Statement (.evtFrameSend dt) := fun _ => Nat.zero_le _
theorem holdOffExpiry (dt : Nat) : Statement (.holdOffExpiry dt) := fun _ => Nat.zero_le _
theorem quietTimerExpiry (dt : Nat) : Statement (.quietTimerExpiry dt) := fun _ => Nat.zero_le _
theorem searchDwellExpiry (dt : Nat) : Statement (.searchDwellExpiry dt) := fun _ => Nat.zero_le _
theorem stripAddressTimeout (dt : Nat) : Statement (.stripAddressTimeout dt) := fun _ => Nat.zero_le _
theorem supervisionTimerExpiry (dt : Nat) : Statement (.supervisionTimerExpiry dt) := fun _ => Nat.zero_le _
theorem nodeSilenceExpiry (dt : Nat) (node : Nat) : Statement (.nodeSilenceExpiry dt node) := fun _ => Nat.zero_le _
theorem ambientGateEnd (dt : Nat) : Statement (.ambientGateEnd dt) := fun _ => Nat.zero_le _
theorem orderRecordAged (dt : Nat) (node : Nat) : Statement (.orderRecordAged dt node) := fun _ => Nat.zero_le _
theorem releaseRecordAged (dt : Nat) : Statement (.releaseRecordAged dt) := fun _ => Nat.zero_le _
theorem timeOrderRecordAged (dt : Nat) : Statement (.timeOrderRecordAged dt) := fun _ => Nat.zero_le _
theorem doublePulseRecordAged (dt : Nat) (wt : Transducer) (dir : Direction) : Statement (.doublePulseRecordAged dt wt dir) := fun _ => Nat.zero_le _
theorem feedbackRecordAged (dt : Nat) (rail : Rail) : Statement (.feedbackRecordAged dt rail) := fun _ => Nat.zero_le _
theorem delayLineRelease (dt : Nat) : Statement (.delayLineRelease dt) := fun _ => Nat.zero_le _
theorem crossingTake (dt : Nat) : Statement (.crossingTake dt) := fun _ => Nat.zero_le _
theorem standingTimerExpiry (dt : Nat) : Statement (.standingTimerExpiry dt) := fun _ => Nat.zero_le _
theorem clearHoldExpiry (dt : Nat) : Statement (.clearHoldExpiry dt) := fun _ => Nat.zero_le _
theorem lossTimerExpiry (dt : Nat) : Statement (.lossTimerExpiry dt) := fun _ => Nat.zero_le _
theorem closingSteps (dt : Nat) : Statement (.closingSteps dt) := fun _ => Nat.zero_le _
theorem markTaken (dt : Nat) : Statement (.markTaken dt) := fun _ => Nat.zero_le _
theorem pulseEnd (dt : Nat) (line : Line) : Statement (.pulseEnd dt line) := fun _ => Nat.zero_le _
theorem holdTimerExpiry (dt : Nat) (line : Line) : Statement (.holdTimerExpiry dt line) := fun _ => Nat.zero_le _
theorem envelopeEdge (dt : Nat) (line : Line) : Statement (.envelopeEdge dt line) := fun _ => Nat.zero_le _
theorem readbackInputChange (dt : Nat) (line : Line) (high : Bool) : Statement (.readbackInputChange dt line high) := fun _ => Nat.zero_le _
theorem readbackTimerExpiry (dt : Nat) (line : Line) : Statement (.readbackTimerExpiry dt line) := fun _ => Nat.zero_le _
theorem approachAssertion (dt : Nat) : Statement (.approachAssertion dt) := fun _ => Nat.zero_le _
theorem approachRelease (dt : Nat) : Statement (.approachRelease dt) := fun _ => Nat.zero_le _
theorem closeTimerExpiry (dt : Nat) : Statement (.closeTimerExpiry dt) := fun _ => Nat.zero_le _
theorem shutterFeedbackChange (dt : Nat) (rail : Rail) (isOpen : Bool) : Statement (.shutterFeedbackChange dt rail isOpen) := fun _ => Nat.zero_le _
theorem feedbackOpenTimerExpiry (dt : Nat) (rail : Rail) : Statement (.feedbackOpenTimerExpiry dt rail) := fun _ => Nat.zero_le _
theorem feedbackCloseTimerExpiry (dt : Nat) (rail : Rail) : Statement (.feedbackCloseTimerExpiry dt rail) := fun _ => Nat.zero_le _
theorem powerSettleEnd (dt : Nat) : Statement (.powerSettleEnd dt) := fun _ => Nat.zero_le _
theorem settleWaitEnd (dt : Nat) : Statement (.settleWaitEnd dt) := fun _ => Nat.zero_le _
theorem checkReferencePhase (dt : Nat) : Statement (.checkReferencePhase dt) := fun _ => Nat.zero_le _
theorem checkEnd (dt : Nat) : Statement (.checkEnd dt) := fun _ => Nat.zero_le _
theorem intervalTimerExpiry (dt : Nat) : Statement (.intervalTimerExpiry dt) := fun _ => Nat.zero_le _
theorem dueCheckStart (dt : Nat) : Statement (.dueCheckStart dt) := fun _ => Nat.zero_le _
theorem powerLoss (dt : Nat) (writing : Nat) : Statement (.powerLoss dt writing) := fun _ => Nat.zero_le _
theorem ambientOscillatorCycle (dt : Nat) : Statement (.ambientOscillatorCycle dt) := fun _ => Nat.zero_le _

end Sys2Proof.Laws.Fits
end

