-- ==== Sys2Proof/Laws/Store.lean ====
section
/-! SUPPORT. The settings store: the condition and the octets of each section after a whole and after a broken writing. -/

namespace Sys2Proof.Machine

set_option Elab.async false

/-- A section without a check is blank (R182). -/
theorem condAt_blank {x : SettingsStore} {i : Nat} (h : x.checks.getD i none = none) : condAt x i = .blank := by
  unfold condAt
  rw [h]

/-- A section whose check holds is good (R182). -/
theorem condAt_good {x : SettingsStore} {i : Nat} (h : x.checks.getD i none = some (sectionCheck x.tables x.identity i)) :
    condAt x i = .good := by
  unfold condAt
  rw [h]
  exact if_pos rfl

/-- A section whose check fails is bad (R182). -/
theorem condAt_bad {x : SettingsStore} {i : Nat} {c : BitVec 16} (h : x.checks.getD i none = some c)
    (hc : c ≠ sectionCheck x.tables x.identity i) : condAt x i = .bad := by
  unfold condAt
  rw [h]
  exact if_neg hc

/-- No value of 16 bits is its own complement. -/
theorem complement_ne (c : BitVec 16) : ~~~c ≠ c := fun h => by
  have := congrArg (fun d => d.getLsbD 0) h
  simp at this

/-- Every section of a whole store is good (R184). -/
theorem condAt_wholeStore (j : StoreJob) {i : Nat} (h : i < 15) : condAt (wholeStore j) i = .good :=
  condAt_good (by simp [wholeStore, List.getD_eq_getElem?_getD, h])

/-- A section before the broken one holds the new octets (R184). -/
theorem sectionOctets_mix_lt {n i : Nat} (new old : Tables) (d e : Identity) (h : i < n) (hi : i ≠ 14) :
    sectionOctets (mixTables n new old) d i = sectionOctets new e i := by
  unfold sectionOctets
  rw [if_neg hi, if_neg hi]
  congr 1
  match i with
  | 0 | 1 | 2 | 3 | 8 | 9 | 10 | 11 | 12 | 13 => simp [tableEntries, mixTables, h]
  | 4 | 5 | 6 | 7 => simp [tableEntries, mixTables, h]
  | 14 => exact absurd rfl hi
  | k + 15 => rfl

/-- A section from the broken one on holds the old octets (R184). -/
theorem sectionOctets_mix_ge {n i : Nat} (new old : Tables) (d : Identity) (h : n ≤ i) :
    sectionOctets (mixTables n new old) d i = sectionOctets old d i := by
  unfold sectionOctets
  split
  · rfl
  · next hi =>
    congr 1
    match i with
    | 0 | 1 | 2 | 3 | 8 | 9 | 10 | 11 | 12 | 13 => simp [tableEntries, mixTables, Nat.not_lt.mpr h]
    | 4 | 5 | 6 | 7 => simp [tableEntries, mixTables, Nat.not_lt.mpr h]
    | 14 => exact absurd rfl hi
    | k + 15 => rfl

/-- The checks of a broken store before the broken section (R184). -/
theorem checks_broken_lt (n : Nat) (j : StoreJob) (x : SettingsStore) {i : Nat} (h : i < n) :
    (brokenStore n j x).checks.getD i none = some (sectionCheck j.tables j.identity i) := by
  simp [brokenStore, List.getD_eq_getElem?_getD, List.getElem?_append, h]

/-- The check of the broken section (R184). -/
theorem checks_broken_eq (n : Nat) (j : StoreJob) (x : SettingsStore) :
    (brokenStore n j x).checks.getD n none = some (~~~sectionCheck (mixTables n j.tables x.tables) x.identity n) := by
  simp [brokenStore, List.getD_eq_getElem?_getD]

/-- The checks of a broken store behind the broken section (R184). -/
theorem checks_broken_gt (n : Nat) (j : StoreJob) (x : SettingsStore) {i : Nat} (h : n < i) :
    (brokenStore n j x).checks.getD i none = x.checks.getD i none := by
  obtain ⟨k, rfl⟩ := Nat.exists_eq_add_of_lt h
  have e : n + k + 1 - n = k + 1 := by omega
  simp [brokenStore, List.getD_eq_getElem?_getD, List.getElem?_append, Nat.not_lt.mpr (Nat.le_of_lt h), e, Nat.add_right_comm]

/-- The sections before the broken one are good (R184). -/
theorem condAt_broken_lt {n i : Nat} (j : StoreJob) (x : SettingsStore) (h : i < n) (hn : n < 15) :
    condAt (brokenStore n j x) i = .good :=
  condAt_good ((checks_broken_lt n j x h).trans (congrArg (fun o => some (crc16 o))
    (sectionOctets_mix_lt j.tables x.tables x.identity j.identity h (by omega)).symm))

/-- The broken section is bad (R184). -/
theorem condAt_broken_eq (n : Nat) (j : StoreJob) (x : SettingsStore) : condAt (brokenStore n j x) n = .bad :=
  condAt_bad (checks_broken_eq n j x) (complement_ne _)

/-- The sections behind the broken one are as they were (R184). -/
theorem condAt_broken_gt {n i : Nat} (j : StoreJob) (x : SettingsStore) (h : n < i) :
    condAt (brokenStore n j x) i = condAt x i := by
  have e : sectionCheck (brokenStore n j x).tables (brokenStore n j x).identity i = sectionCheck x.tables x.identity i :=
    congrArg crc16 (sectionOctets_mix_ge j.tables x.tables x.identity (Nat.le_of_lt h))
  unfold condAt
  rw [checks_broken_gt n j x h, e]

end Sys2Proof.Machine
end

