-- ==== Sys2Proof/Tests/Slice0.lean ====
section
/-! SUPPORT. Tests: ill-formed commands are refused by the check, small worked cases, and for every statement states and operands that meet its hypotheses, at the boundaries of each clause. -/

namespace Sys2Proof.Tests

set_option Elab.async false

open Sys2Proof.Machine

/-! ### Small states -/

/-- Tables that pass every check: one transducer, the ambient channel with its conversion table, nine speed points. -/
def sound : Tables :=
  { Tables.blank with
    nodes := some ⟨10, .transducer, 0⟩ :: List.replicate 11 none
    channels := List.replicate 31 none ++ [some ⟨none, 0, .ambient, .left, 0, 0, 1, 1, 0⟩]
    conv := ((List.range 17).map fun (i : Nat) => some ⟨1000 * (i : Int), 100 * (i : Int) - 600⟩) :: List.replicate 3 (List.replicate 17 none)
    speed := (List.range 9).map fun i => some ⟨1000 * (i + 1), 32768⟩ }

/-- OFFLINE with sound tables, the loop LOCKED and LIF free. -/
def idle : State :=
  { State.reset with
    tables := sound
    lif := { Lif.reset with locked := true, dwell := none, quiet := some 1000000, timTimer := some 10000 } }

/-- The same in a site state. -/
def site (x : SiteState) : State := idle.onScu fun u => { u with site := x }

/-- The same with the loop in SEARCH. -/
def search (s : State) : State := s.onLif fun l => { l with locked := false, dwell := some 100000, quiet := none }

/-- The same with a forwarded frame being sent. -/
def sending (s : State) : State := s.onLif fun l => { l with sending := some ⟨.forwarded, []⟩ }

/-- The same with one waiting command. -/
def queued (c : Cmd) (s : State) : State := s.onLif fun l => { l with queue := [c] }

/-- The same with a channel check in a phase. -/
def phase (p : CheckPhase) : State := (site .checking).onScu fun u => { u with check := .run p }

/-- A crossing of WT1 in direction UP at time 0. -/
def entry : Crossing := ⟨.wt1, .up, 0, 0⟩

/-- A passage in direction UP with one axle over WT1. -/
def train : Passage :=
  { Passage.begun 1 entry false with
    counts := ⟨1, 0, 0, 0⟩
    total := 1
    axles := [AxleRecord.created 1 entry]
    timeOrder := some 0
    standing := some 0
    clear := some 0
    disposition := some .complete
    endTime := some 0 }

/-- PASSAGE with a passage context. -/
def running (p : Passage) : State := { site .passage with passage := some p }

/-- CLOSING with a passage context. -/
def closing : State := { site .closing with passage := some train }

/-- The report of that passage. -/
def report : Report := reportOf train AlarmList.reset 1

/-- A part whose slot 1 holds that report. -/
def reported : State := idle.onRps fun r => { r with slots := [.sealed report, .filling 2, .free, .free] }

/-- A state without supply. -/
def dark : State := { State.reset with powered := false }

/-- The state an outcome goes on with. -/
def after (o : Host.Outcome State Fault Refusal) : State :=
  match o with
  | .next t => t
  | .fault _ => State.reset
  | .refused _ => State.reset

/-- The outcome goes on. -/
def goesOn (o : Host.Outcome State Fault Refusal) : Bool :=
  match o with
  | .next _ => true
  | .fault _ => false
  | .refused _ => false

/-- An outcome that goes on is the next state it goes on with. -/
theorem next_of {o : Host.Outcome State Fault Refusal} (h : goesOn o = true) : o = .next (after o) := by
  cases o
  · rfl
  · cases h
  · cases h

/-- LIF is ready for a command handed over to an empty queue. -/
theorem ready_of {s : State} {code : Nat} {tag : Byte} {args : List Byte}
    (h : s.powered = true ∧ s.lif.free = true ∧ s.lif.queue = []) : s.Ready code tag args := ⟨h.1, h.2.1, .inl h.2.2⟩

/-- In every site state LIF is ready for any command. -/
theorem ready (x : SiteState) (code : Nat) (tag : Byte) (args : List Byte) : (site x).Ready code tag args := ready_of ⟨rfl, rfl, rfl⟩

/-- LIF is ready for the command at the head of its queue. -/
theorem ready_head (x : SiteState) (code : Nat) (tag : Byte) (args : List Byte) :
    (queued ⟨code, tag, args, false⟩ (site x)).Ready code tag args := ⟨rfl, rfl, .inr ⟨[], rfl⟩⟩

/-! ### A part with digitizers, and frames for it -/

/-- A crib channel and a scanner channel, each of its own node. -/
def cribEntry : ChannelEntry := ⟨some 2, 0, .crib, .left, -1000, 1000, 65535, 4, 0⟩

/-- A scanner channel on the LEFT rail with conversion table 0. -/
def scanEntry : ChannelEntry := ⟨some 3, 0, .scanner, .left, 0, 0, 1, 1, 0⟩

/-- A node of two crib channels. -/
def cribNode : NodeEntry := ⟨11, .cribDigitizer, 2⟩

/-- Sound tables with a crib digitizer at station 11 and a scanner digitizer at station 12. -/
def equipped : Tables :=
  { sound with
    nodes := [some ⟨10, .transducer, 0⟩, some cribNode, some ⟨12, .scannerDigitizer, 1⟩] ++ List.replicate 9 none
    channels := [some cribEntry, some scanEntry] ++ List.replicate 29 none ++ [some ⟨none, 0, .ambient, .left, 0, 0, 1, 1, 0⟩]
    zoneU := some ⟨-1000, 1000, .weigh, .left, [0], false, false⟩ :: some ⟨1000, 3000, .scan, .left, [1], false, false⟩ :: List.replicate 10 none }

/-- The part with those tables. -/
def fitted (s : State) : State := { s with tables := equipped }

/-- A frame with any kind number and a payload of whole words. -/
def message (dest source kind : Nat) (payload : List Byte) : Frame :=
  let h := putNat 1 dest ++ putNat 1 source ++ putNat 1 kind ++ putNat 2 (payload.length / 4) ++ payload
  ⟨dest, source, kind, payload, h ++ putNat 2 (crc16 h).toNat⟩

/-- An SMP payload of two channels and one sample each, first taken at a time. -/
def samples (t : LoopTime) : List Byte := [2, 1, 0, 0] ++ putTime t ++ [0, 0, 0, 0]

/-- An SMP frame of the crib digitizer. -/
def smp (t : LoopTime) : Frame := message 120 11 1 (samples t)

/-- The part hears a frame that is there in its octets. -/
theorem hears_of {s : State} {f : Frame}
    (h : s.powered = true ∧ s.lif.locked = true ∧ checkFrame f.octets = some f ∧ ownSource s.lif f.source = false
      ∧ (f.dest = s.lif.station ∨ f.dest = 255)) : s.Hears f.octets f := ⟨h.1, h.2.1, h.2.2.1, h.2.2.2.1, h.2.2.2.2⟩

/-- An SMP frame is of the form its node requires. -/
theorem samples_of {s : State} {f : Frame} {node : Nat} {e : NodeEntry}
    (h : f.kind = 1 ∧ s.scu.site ≠ .offline ∧ nodeAt s.tables f.source = some node ∧ nodeEntry s.tables node = some e ∧ e.kind ≠ .transducer
      ∧ byteAt f.payload 0 = e.channelCount ∧ 1 ≤ byteAt f.payload 1 ∧ byteAt f.payload 1 ≤ 32
      ∧ f.payload.length = smpLength e.channelCount (byteAt f.payload 1)) : s.Samples f node e :=
  ⟨h.1, h.2.1, h.2.2.1, h.2.2.2.1, h.2.2.2.2.1, h.2.2.2.2.2.1, h.2.2.2.2.2.2.1, h.2.2.2.2.2.2.2.1, h.2.2.2.2.2.2.2.2⟩

/-! ### Ill-formed commands -/

theorem test_illformed_args : (Instr.start 0 0 (List.replicate 4093 0)).wellFormed = false := by
  simp only [Instr.wellFormed, argsFit, List.length_replicate]
  decide

theorem test_illformed_section : (Instr.storeComplete 0 (some 15)).wellFormed = false ∧ (Instr.powerLoss 0 15).wellFormed = false := by decide

theorem test_illformed_frame : (Instr.frameReceived 0 .mbit16 (List.replicate 4104 0)).wellFormed = false := by
  simp only [Instr.wellFormed, frameFits, List.length_replicate]
  decide

theorem test_illformed_node : (Instr.nodeSilenceExpiry 0 0).wellFormed = false ∧ (Instr.orderRecordAged 0 13).wellFormed = false := by decide

theorem test_wellformed : (Instr.start 0 0 []).wellFormed = true ∧ (Instr.nodeSilenceExpiry 0 12).wellFormed = true
    ∧ (Instr.storeComplete 0 (some 14)).wellFormed = true ∧ (Instr.powerLoss 0 14).wellFormed = true := by decide

/-! ### Worked values -/

theorem test_crc_check_value : crc16 [0x31, 0x32, 0x33, 0x34, 0x35, 0x36, 0x37, 0x38, 0x39] = 0x29B1 := by decide +kernel

theorem test_no_word_spells_a_row : decodeTableWord 8 0 = none := rfl

theorem test_division_ties : divRound 5 2 = 3 ∧ divRound (-5) 2 = -3 ∧ divRound 4 3 = 1 := by decide

theorem test_frame_layout : frameOctets 5 120 .ans [] = [5, 120, 6, 0, 0, 0x47, 0x4D] := by
  decide +kernel

theorem test_sound_tables_pass : idle.validation = none := by decide +kernel

theorem test_blank_tables_fail : State.reset.validation = some ⟨3, none, 4, .checkFailed⟩ := by decide +kernel

/-! ### Hypotheses that are met: the step and every state -/

/-- `idle` is within every capacity. -/
theorem within_idle : idle.Within where
  lif := ⟨by decide, by decide, by decide, by decide, by decide, by decide, by decide⟩
  crossings := by decide
  passage := fun _ h => nomatch h
  alarms := by decide
  slots := rfl
  ring := by decide
  line := by decide
  history := by decide
  leftRecord := by decide
  rightRecord := by decide
  coupled := ⟨rfl, rfl⟩

/-- `closing` is within every capacity. -/
theorem within_closing : closing.Within where
  lif := ⟨by decide, by decide, by decide, by decide, by decide, by decide, by decide⟩
  crossings := by decide
  passage := fun _ h => Option.some.inj h ▸ ⟨⟨by decide, by decide, by decide, by decide, by decide⟩, by decide,
    fun a ha => List.mem_singleton.mp ha ▸ ⟨by decide, List.nodup_nil⟩, by decide, by decide, by decide⟩
  alarms := by decide
  slots := rfl
  ring := by decide
  line := by decide
  history := by decide
  leftRecord := by decide
  rightRecord := by decide
  coupled := ⟨rfl, rfl⟩

theorem test_StepOnEmptyQueue : State.reset.pending = [] ∧ State.reset.nextDue = some (.searchDwellExpiry 100000)
    ∧ dark.pending = [] ∧ dark.nextDue = none := by decide +kernel

theorem test_StepKeepsCapacities : idle.Within ∧ step idle = .next (after (step idle))
    ∧ closing.Within ∧ step closing = .next (after (step closing)) := ⟨within_idle, next_of (by decide +kernel), within_closing, next_of (by decide +kernel)⟩

theorem test_SiteStateMovesAsListed : idle.Within ∧ idle.powered = true ∧ suppliesPower (.start 0 0 []) = false
    ∧ exec (.start 0 0 []) idle = .next (after (exec (.start 0 0 []) idle))
    ∧ (after (exec (.start 0 0 []) idle)).scu.site = .checking
    ∧ exec (.restart 0 0 []) idle = .next (after (exec (.restart 0 0 []) idle)) :=
  ⟨within_idle, rfl, rfl, next_of (by decide +kernel), by decide +kernel, next_of (by decide +kernel)⟩

theorem test_FieldsChangeByTheirRowsAlone : idle.Within ∧ idle.powered = true
    ∧ exec (.timFrameDue 0) idle = .next (after (exec (.timFrameDue 0) idle))
    ∧ suppliesPower (.timFrameDue 0) = false ∧ writesTables (.timFrameDue 0) = false ∧ writesStore (.timFrameDue 0) = false
    ∧ ∀ dt n, Instr.timFrameDue 0 ≠ .powerLoss dt n :=
  ⟨within_idle, rfl, next_of (by decide +kernel), rfl, rfl, rfl, fun _ _ => nofun⟩

theorem test_RegistersChangeByTheirRowsAlone : suppliesPower (.start 0 0 []) = false
    ∧ exec (.start 0 0 []) idle = .next (after (exec (.start 0 0 []) idle))
    ∧ writesMask (.start 0 0 []) = false ∧ writesStore (.start 0 0 []) = false ∧ startsPassages (.start 0 0 []) = false
    ∧ writesReports (.start 0 0 []) = false ∧ writesAlarms (.start 0 0 []) = false
    ∧ exec (.setEventMask 0 0 [0, 0, 0, 0]) idle = .next (after (exec (.setEventMask 0 0 [0, 0, 0, 0]) idle))
    ∧ commitsTables (.setEventMask 0 0 [0, 0, 0, 0]) = false :=
  ⟨rfl, next_of (by decide +kernel), rfl, rfl, rfl, rfl, rfl, next_of (by decide +kernel), rfl⟩

/-! ### Hypotheses that are met: POWER_ON, POWER_LOSS and the store -/

/-- A store job of sound tables with auto-arm set. -/
def job : StoreJob := ⟨sound, ⟨9, true, true⟩⟩

/-- A store whose sections all have one condition, with sound tables and auto-arm set. -/
def stored (c : SectionCond) : State :=
  { idle with store :=
      match c with
      | .blank => { SettingsStore.blank with tables := sound, identity := job.identity }
      | .good => wholeStore job
      | .bad => { wholeStore job with checks := (wholeStore job).checks.map fun x => x.map fun y => ~~~y } }

/-- The same good store with tables that fail. -/
def storedBlankTables : State := { idle with store := wholeStore { job with tables := Tables.blank } }

theorem test_PowerOnLoadsTheStore :
    (∀ k, k < 15 → condAt (stored .good).store k = .good ∧ condAt (stored .bad).store k = .bad ∧ condAt (stored .blank).store k = .blank)
    ∧ anyBad (stored .bad).store = true
    ∧ (after (exec .powerOn (stored .bad))).scu.autoArm = false ∧ (after (exec .powerOn (stored .good))).scu.autoArm = true
    ∧ (stored .good).loaded.scu.autoArm = true ∧ (stored .good).loaded.validation = none
    ∧ storedBlankTables.loaded.scu.autoArm = true
    ∧ storedBlankTables.loaded.validation = some ⟨3, none, 4, .checkFailed⟩ := by decide +kernel

/-- A store in progress. -/
def storing : State := idle.onScu fun u => { u with store := some ⟨sound, ⟨9, true, true⟩⟩ }

theorem test_PowerLossKeepsTheStore : idle.powered = true ∧ 0 < 15 ∧ 14 < 15 ∧ idle.scu.store = none
    ∧ storing.powered = true ∧ storing.scu.store = some ⟨sound, ⟨9, true, true⟩⟩ ∧ 13 < 14
    ∧ dark.powered = false ∧ Instr.approachAssertion 0 ≠ .powerOn := by decide +kernel

theorem test_StoreWritesEverySection : (site .passage).Ready 19 0 [] ∧ (site .passage).scu.site ≠ .offline ∧ (site .passage).scu.site ≠ .armed
    ∧ (site .offline).Ready 19 0 [0, 2] ∧ (site .offline).scu.site = .offline ∧ (site .armed).Ready 19 0 [2, 1] ∧ (site .armed).scu.site = .armed
    ∧ whole (takePair (takeCode armSettings) (takeCode fixedSettings)) [0, 2] = none
    ∧ whole (takePair (takeCode armSettings) (takeCode fixedSettings)) [2, 1] = some (none, some false)
    ∧ storing.powered = true ∧ storing.scu.store = some ⟨sound, ⟨9, true, true⟩⟩ ∧ 0 < 15 ∧ 14 < 15 :=
  ⟨ready _ _ _ _, by decide, by decide, ready _ _ _ _, rfl, ready _ _ _ _, rfl, by decide +kernel⟩

/-! ### Hypotheses that are met: answers and reads -/

theorem test_AnswersGoToTheController : idle.lif.locked = true ∧ idle.lif.sending = none ∧ idle.lif.timWaiting = false ∧ idle.lif.own = []
    ∧ (sending idle).lif.locked = true ∧ (sending idle).lif.sending.isSome = true ∧ (search idle).lif.locked = false := by decide

theorem test_ReadsAnswerTheirContents : (site .offline).Ready 1 0 [] ∧ (site .passage).Ready 14 0 []
    ∧ (site .offline).Ready 2 0 (put4 1) ∧ whole take4 (put4 1) = some 1 ∧ whole take4 (put4 6) = some 6
    ∧ whole take4 (put4 0) = some 0 ∧ whole take4 (put4 7) = some 7 ∧ whole take4 [] = none
    ∧ (site .offline).Ready 5 0 (put4 4 ++ put4 0 ++ put4 32)
    ∧ whole (takePair take4 (takePair take4 take4)) (put4 4 ++ put4 0 ++ put4 32) = some (4, 0, 32)
    ∧ entryRange 4 = some ⟨0, 32⟩ ∧ entriesFit ⟨0, 32⟩ 0 32 = true ∧ entriesFit ⟨0, 32⟩ 0 33 = false ∧ entryRange 15 = none
    ∧ (site .offline).Ready 11 0 (put4 127 ++ put4 1)
    ∧ whole (takePair take4 take4) (put4 127 ++ put4 1) = some (127, 1) ∧ whole (takePair take4 take4) (put4 128 ++ put4 1) = some (128, 1) :=
  ⟨ready _ _ _ _, ready _ _ _ _, ready _ _ _ _, by decide, by decide, by decide, by decide, by decide, ready _ _ _ _, by decide, rfl, rfl, rfl,
    rfl, ready _ _ _ _, by decide, by decide⟩

theorem test_ReadLiveClearsFreshFlags : (site .armed).Ready 3 0 [] ∧ (queued ⟨3, 0, [], false⟩ (site .armed)).Ready 3 0 [] :=
  ⟨ready _ _ _ _, ready_head _ _ _ _⟩

/-- A waiting command with another before it, and one that finds a command in progress. -/
def behind : State := queued ⟨7, 0, [], false⟩ idle

theorem test_CommandsRefusedOrWaiting : (∀ c, (site .armed).Ready c 0 [1]) ∧ (site .armed).scu.site ≠ .offline
    ∧ (site .offline).Ready 9 0 [] ∧ (site .offline).scu.site ≠ .armed ∧ (site .armed).scu.site ≠ .passage
    ∧ ({ site .armed with pins := { Pins.reset with approach := true } } : State).Ready 9 0 []
    ∧ ((site .offline).onLif fun l => { l with fixed := true }).Ready 20 0 []
    ∧ ([1] : List Byte) ≠ [] ∧ (site .armed).pins.approach = false ∧ (site .passage).Ready 10 0 [1] ∧ (site .passage).scu.site = .passage
    ∧ (idle.onLif fun l => { l with inProgress := some ⟨.stop, 0, false⟩ }).lif.free = false
    ∧ behind.powered = true ∧ behind.lif.queue = [⟨7, 0, [], false⟩] ∧ (⟨7, 0, [], false⟩ : Cmd) ≠ ⟨6, 0, [], false⟩ :=
  ⟨fun _ => ready _ _ _ _, by decide, ready _ _ _ _, by decide, by decide, ready_of ⟨rfl, rfl, rfl⟩, ready_of ⟨rfl, rfl, rfl⟩, by decide, rfl,
    ready _ _ _ _, rfl, rfl, rfl, rfl, by decide⟩

/-! ### Hypotheses that are met: tables and frames -/

/-- Argument octets of WRITE_TABLE. -/
def writeArgs (table first count : Nat) (bytes : List Byte) : List Byte := put4 table ++ (put4 first ++ put4 count ++ bytes)

theorem test_WriteTableWritesEntries : (site .offline).Ready 4 0 (writeArgs 1 20 1 (1 :: put4 0))
    ∧ take4 (writeArgs 1 20 1 (1 :: put4 0)) = some (1, put4 20 ++ put4 1 ++ 1 :: put4 0) ∧ entryRange 1 = some ⟨1, 21⟩
    ∧ writable 1 .offline = true ∧ takePair take4 take4 (put4 20 ++ put4 1 ++ 1 :: put4 0) = some ((20, 1), 1 :: put4 0)
    ∧ entriesFit ⟨1, 21⟩ 20 1 = true ∧ (writeEntries idle.tables 1 20 1 (1 :: put4 0)).any (·.clamped) = true
    ∧ entryRange 4 = some ⟨0, 32⟩ ∧ entriesFit ⟨0, 32⟩ 31 1 = true ∧ (writeEntries idle.tables 4 31 1 [0]).any (fun w => !w.clamped) = true
    ∧ 31 < idle.sin.channels.length ∧ writable 14 .armed = true := by
  refine ⟨ready _ _ _ _, ?_⟩; decide +kernel

theorem test_WriteTableRefusals : (site .armed).Ready 4 0 [] ∧ take4 [] = none
    ∧ take4 (writeArgs 0 1 1 []) = some (0, put4 1 ++ put4 1) ∧ take4 (writeArgs 15 1 1 []) = some (15, put4 1 ++ put4 1)
    ∧ (site .armed).scu.site ≠ .offline ∧ ¬ ((site .armed).scu.site = .armed ∧ (12 = 13 ∨ 12 = 14))
    ∧ ¬ ((site .passage).scu.site = .armed ∧ (13 = 13 ∨ 13 = 14))
    ∧ entryRange 13 = some ⟨1, 16⟩ ∧ writable 13 .armed = true ∧ takePair take4 take4 [0] = none
    ∧ takePair take4 take4 (put4 1 ++ put4 0) = some ((1, 0), []) ∧ entriesFit ⟨1, 16⟩ 1 0 = false ∧ entriesFit ⟨1, 16⟩ 15 2 = false
    ∧ takePair take4 take4 (put4 15 ++ put4 1) = some ((15, 1), []) ∧ entriesFit ⟨1, 16⟩ 15 1 = true
    ∧ (writeEntries idle.tables 13 15 1 []).isNone = true
    ∧ (writtenSite 1 4).value = 5 ∧ (writtenSite 20 256).clamped = true ∧ (writtenThreshold 15 100).clamped = false := by
  refine ⟨ready _ _ _ _, ?_⟩; decide +kernel

theorem test_FramesAndFieldsReadBack : 255 < 256 ∧ (List.replicate 4096 (0 : Byte)).length ≤ 4096 ∧ 4294967295 < 2 ^ 32
    ∧ (-2147483648 : Int) ≤ -2147483648 ∧ (2147483647 : Int) ≤ 2147483647 ∧ take4s (put4s (-2147483648)) = some (-2147483648, [])
    ∧ checkFrame (frameOctets 255 0 .cmd [1]) = some ⟨255, 0, 5, [1, 0, 0, 0], frameOctets 255 0 .cmd [1]⟩ := by
  refine ⟨by decide, Nat.le_of_eq List.length_replicate, ?_⟩; decide +kernel

/-! ### Hypotheses that are met: Site Control -/

/-- `idle` with tables that fail. -/
def unsound : State := { idle with tables := Tables.blank }

theorem test_StartCommitsAndChecks : idle.Ready 6 0 [] ∧ idle.scu.site = .offline ∧ idle.validation = none
    ∧ unsound.Ready 6 0 [] ∧ unsound.scu.site = .offline ∧ unsound.validation = some ⟨3, none, 4, .checkFailed⟩ :=
  ⟨ready_of ⟨rfl, rfl, rfl⟩, rfl, by decide +kernel, ready_of ⟨rfl, rfl, rfl⟩, rfl, by decide +kernel⟩

theorem test_StopBySiteState : (∀ x, (site x).Ready 7 0 [] ∧ (site x).scu.site = x) := fun _ => ⟨ready _ _ _ _, rfl⟩

/-- `idle` with controller supervision enabled. -/
def supervised : State := { idle with tables := { sound with site := sound.site.set 16 1 } }

theorem test_StartStartsSupervision : siteParam idle.tables.site 17 = 0 ∧ idle.sin.nodes.length = 12
    ∧ (nodeEntry idle.tables 1).isSome = true ∧ (nodeEntry idle.tables 12).isSome = false
    ∧ siteParam supervised.tables.site 17 ≠ 0 ∧ supervised.validation = none ∧ supervised.Ready 6 0 []
    ∧ (after (exec (.start 0 0 []) supervised)).lif.supTimer = some 10000000
    ∧ ((after (exec (.start 0 0 []) supervised)).node 1).timer = some 1000000
    ∧ ((after (exec (.start 0 0 []) supervised)).node 12).timer = none :=
  ⟨by decide, by decide, by decide, by decide, by decide, by decide +kernel, ready_of ⟨rfl, rfl, rfl⟩, by decide +kernel⟩

/-- The auto-arm flag set. -/
def armed (s : State) : State := s.onScu fun u => { u with autoArm := true }

theorem test_RestartClearsAndRearms : idle.Ready 8 0 [] ∧ idle.scu.autoArm = false ∧ (armed idle).Ready 8 0 []
    ∧ (armed idle).scu.autoArm = true ∧ (armed idle).validation = none
    ∧ (armed unsound).Ready 8 0 [] ∧ (armed unsound).scu.autoArm = true ∧ (armed unsound).validation = some ⟨3, none, 4, .checkFailed⟩ :=
  ⟨ready_of ⟨rfl, rfl, rfl⟩, rfl, ready_of ⟨rfl, rfl, rfl⟩, rfl, by decide +kernel, ready_of ⟨rfl, rfl, rfl⟩, rfl, by decide +kernel⟩

/-- An interval timer at its end and a due check. -/
def waiting (x : SiteState) : State := (site x).onScu fun u => { u with interval := some 7, due := true }

theorem test_ChecksBeginInArmed : (waiting .armed).scu.site = .armed ∧ (waiting .armed).pins.approach = false ∧ (waiting .armed).powered = true
    ∧ (waiting .armed).scu.due = true ∧ (waiting .armed).scu.interval = some 7 ∧ 7 ≤ 7 ∧ (waiting .armed).Ready 9 0 []
    ∧ (waiting .passage).scu.site ≠ .armed ∧ (waiting .passage).scu.interval = some 7
    ∧ ({ waiting .armed with pins := { Pins.reset with approach := true } } : State).pins.approach = true := by
  refine ⟨rfl, rfl, rfl, rfl, rfl, by decide, ready_of ⟨rfl, rfl, rfl⟩, ?_⟩; decide

theorem test_PassageEndsByItsCause : (running train).scu.site = .passage ∧ (running train).Ready 10 0 []
    ∧ ((running train).onScu fun u => { u with loss := some 0 }).scu.loss = some 0 ∧ (running train).powered = true
    ∧ (running train).passage = some train ∧ train.clear = some 0 ∧ train.counts.c4 ≠ train.total ∧ train.counts.c4 = 0
    ∧ ({ train with counts := ⟨2, 2, 2, 2⟩, total := 2 } : Passage).counts.c4 = 2
    ∧ ({ train with counts := ⟨2, 2, 2, 1⟩, total := 2 } : Passage).counts.c4 ≠ 0 := by
  refine ⟨rfl, ready_of ⟨rfl, rfl, rfl⟩, ?_⟩; decide

theorem test_ClosingEndsInArmedOrOffline : closing.Within ∧ closing.powered = true ∧ closing.scu.site = .closing
    ∧ (closing.lif.inProgress.any fun p => p.job == .stop) = false
    ∧ ((closing.onLif fun l => { l with inProgress := some ⟨.stop, 0, false⟩ }).lif.inProgress.any fun p => p.job == .stop) = true :=
  ⟨within_closing, rfl, rfl, rfl, rfl⟩

/-- CLOSING of a passage in a slot, with a STOP in progress. -/
def stopping (slot : Nat) : State :=
  { closing with passage := some { train with slot := some slot }, lif := { closing.lif with inProgress := some ⟨.stop, 0, false⟩ } }

theorem test_ClosingSealsThePassage : closing.passage = some train ∧ train.disposition = some .complete ∧ train.endTime = some 0 ∧ train.slot = none
    ∧ (stopping 4).passage = some { train with slot := some 4 } ∧ (stopping 1).rps.sealCount < 4294967295
    ∧ (after (exec (.closingSteps 0) (stopping 4))).scu.site = .offline
    ∧ ((after (exec (.closingSteps 0) (stopping 4))).rps.ring.map (·.detail)) = [.inSlot 4]
    ∧ (after (exec (.closingSteps 0) (stopping 4))).lif.sending = some ⟨.own .ans, frameOctets 1 120 .ans (ansPayload 7 0 .done [])⟩ := by
  decide +kernel

/-- A channel check with its timers at their end. -/
def timed (p : CheckPhase) : State :=
  (phase p).onScu fun u => { u with settle := some 0, powerMark := true, phaseTimer := some 0, endTimer := some 0, powerTimer := some 0 }

theorem test_CheckPhasesFollow : (timed .settle).powered = true ∧ (timed .settle).scu.powerTimer = some 0
    ∧ (timed .settle).scu.check = .run .settle ∧ (timed .settle).scu.settle = some 0 ∧ (timed .settle).scu.powerMark = true
    ∧ (timed .settle).pins.approach = false ∧ (timed .settle).lif.locked = true ∧ (search (timed .settle)).lif.locked = false
    ∧ (timed .capture).scu.check = .run .capture ∧ (timed .capture).scu.phaseTimer = some 0
    ∧ (timed .reference).scu.check = .run .reference ∧ (timed .reference).scu.endTimer = some 0
    ∧ (ChannelState.reset .ok).health = .ok ∧ (ChannelState.reset .notReady).health = .notReady
    ∧ (ChannelState.reset .suspect).health = .suspect ∧ (ChannelState.reset .faulty).health = .faulty := by decide

/-- A channel with a pending capture or gathering. -/
def pendingChannel (p : Option Capture) (g : Option Gather) : ChannelState := { ChannelState.reset .ok with capture := p, gather := g }

/-- A fitted part whose crib node is silent. -/
def silenced : State := fitted (idle.onSin fun x => { x with nodes := x.nodes.map fun n => { n with silent := true } })

/-- A fitted part with an ambient value and a feedback that shows open from a time. -/
def warmed (t : LoopTime) : State :=
  fitted { idle with
    sin := { idle.sin with history := [100] }
    brg := { idle.brg with records := PerRail.same ⟨false, 0, [⟨t, true⟩]⟩ } }

theorem test_CheckEndJudgesChannels : channelEntry (fitted idle).tables 2 = none ∧ silenced.effHealth 0 = some .absent
    ∧ channelEntry (fitted idle).tables 0 = some cribEntry ∧ (fitted idle).effHealth 0 ≠ some .absent ∧ cribEntry.kind = .crib
    ∧ channelEntry (fitted idle).tables 1 = some scanEntry ∧ scanEntry.kind = .scanner ∧ (fitted idle).ambient = none
    ∧ (pendingChannel none none).capture = none ∧ (pendingChannel none none).gather = none
    ∧ ((fitted idle).endChannel 0 (pendingChannel (some ⟨2, 4000, 1900, 2100⟩) none)).baseline = some 512000
    ∧ ((fitted idle).endChannel 0 (pendingChannel (some ⟨2, 4000, 1900, 2100⟩) none)).health = .ok
    ∧ ((fitted idle).endChannel 0 (pendingChannel (some ⟨1, 2001, 2001, 2001⟩) none)).health = .suspect
    ∧ ((fitted idle).endChannel 1 (pendingChannel none (some ⟨1, 0⟩))).health = .suspect
    ∧ openWithin ((warmed 3000000).brg.records.get .left) 2000000 1000000 = false
    ∧ openWithin ((warmed 2999999).brg.records.get .left) 2000000 1000000 = true
    ∧ ((warmed 3000000).endChannel 1 (pendingChannel none (some ⟨1, 140⟩))).health = .ok
    ∧ ((warmed 3000000).endChannel 1 (pendingChannel none (some ⟨1, 141⟩))).health = .suspect
    ∧ (channelEntry (fitted idle).tables 31).any (fun e => e.kind == .ambient) = true := by decide +kernel

/-! ### Hypotheses that are met: reports and events -/

/-- Argument octets of READ_REPORT for the AXLES section. -/
def readArgs (slot first count : Nat) : List Byte := put4 slot ++ [1] ++ put4 first ++ put4 count

theorem test_ReadReportBySlot : reported.Ready 12 0 [] ∧ whole takeReadArgs [] = none
    ∧ whole takeReadArgs (readArgs 1 0 1024) = some ⟨1, .axles, 0, 1024⟩ ∧ readArgsFit ⟨1, .axles, 0, 1024⟩ = true
    ∧ readArgsFit ⟨0, .axles, 0, 1⟩ = false ∧ readArgsFit ⟨5, .axles, 0, 1⟩ = false ∧ readArgsFit ⟨1, .axles, 1024, 1⟩ = false
    ∧ readArgsFit ⟨1, .axles, 0, 0⟩ = false ∧ readArgsFit ⟨1, .axles, 0, 1025⟩ = false ∧ readArgsFit ⟨4, .axles, 1023, 1⟩ = true
    ∧ reported.rps.slot 3 = .free ∧ reported.rps.slot 2 = .filling 2 ∧ reported.rps.slot 1 = .sealed report
    ∧ servedCount report .axles 0 1024 ≠ 0 ∧ servedCount report .axles 1 1024 = 0 ∧ reported.lif.locked = true
    ∧ (search reported).lif.locked = false := by
  refine ⟨ready_of ⟨rfl, rfl, rfl⟩, ?_⟩; decide +kernel

/-- A report read in progress, one frame sent of `total` records. -/
def reading (total : Nat) : State :=
  sending (reported.onLif fun l => { l with inProgress := some ⟨.read ⟨1, 1, .axles, 0, total, 0, false⟩, 0, false⟩ })

theorem test_RptFramesCarryTheRecords : (reading 1).powered = true
    ∧ (reading 1).lif.inProgress = some ⟨.read ⟨1, 1, .axles, 0, 1, 0, false⟩, 0, false⟩ ∧ (reading 1).lif.rptClear = true
    ∧ 1 ≤ (reading 1).rps.slots.length ∧ (reading 1).rps.slot 1 = .sealed report ∧ 0 < 1 ∧ (reading 1).lif.locked = true
    ∧ (reading 1).lif.sending.isSome = true
    ∧ (reading 0).lif.inProgress = some ⟨.read ⟨1, 1, .axles, 0, 0, 0, false⟩, 0, false⟩ ∧ (reading 0).lif.rptClear = true
    ∧ (report.reads.get .axles).coverage < 1 ∧ 0 ≤ (report.reads.get .axles).coverage ∧ Section.header ≠ .axles := by decide +kernel

/-- That read with the transmitter free, and cut by a takeover. -/
def freeToSend (cut : Bool) : State :=
  reported.onLif fun l => { l with inProgress := some ⟨.read ⟨1, 1, .axles, 0, 1, 0, cut⟩, 0, false⟩ }

theorem test_ReadsSendOrAreCut : (freeToSend false).powered = true ∧ (freeToSend false).lif.rptClear = true
    ∧ (freeToSend false).lif.inProgress = some ⟨.read ⟨1, 1, .axles, 0, 1, 0, false⟩, 0, false⟩
    ∧ (freeToSend false).lif.sending = none ∧ (freeToSend false).lif.timWaiting = false ∧ (freeToSend false).lif.own = []
    ∧ ((after (exec (.rptFrameSend 0) (freeToSend false))).lif.sending.map (·.kind)) = some (.own .rpt)
    ∧ (freeToSend true).lif.inProgress = some ⟨.read ⟨1, 1, .axles, 0, 1, 0, true⟩, 0, false⟩ ∧ (freeToSend true).lif.rptClear = true
    ∧ (after (exec (.rptFrameSend 0) (freeToSend true))).lif.inProgress = none := by decide +kernel

theorem test_ReleaseReportFreesTheSlot : reported.Ready 13 0 [] ∧ whole (takePair take4 take4) [] = none
    ∧ whole (takePair take4 take4) (put4 4 ++ put4 1) = some (4, 1) ∧ whole (takePair take4 take4) (put4 5 ++ put4 1) = some (5, 1)
    ∧ whole (takePair take4 take4) (put4 0 ++ put4 1) = some (0, 1) ∧ whole (takePair take4 take4) (put4 1 ++ put4 0) = some (1, 0)
    ∧ reported.rps.slot 4 = .free ∧ reported.rps.slot 2 = .filling 2 ∧ 2 ≠ 1 ∧ reported.rps.slot 1 = .sealed report
    ∧ report.header.number = 1 ∧ report.header.number ≠ 2 := by
  refine ⟨ready_of ⟨rfl, rfl, rfl⟩, ?_⟩; decide +kernel

/-- Four slots in use, the first two sealed and clean. -/
def fullSlots : Rps := { Rps.reset with slots := [.sealed report, .sealed { report with sealOrder := 2 }, .filling 3, .filling 4] }

/-- Four slots in use, none sealed. -/
def fillingSlots : Rps := { Rps.reset with slots := [.filling 1, .filling 2, .filling 3, .filling 4] }

/-- A property of 1 to 4 case by case. -/
theorem four_cases {P : Nat → Prop} (h1 : P 1) (h2 : P 2) (h3 : P 3) (h4 : P 4) : ∀ k, 1 ≤ k → k ≤ 4 → P k := by
  intro k hk hk'
  rcases (show k = 1 ∨ k = 2 ∨ k = 3 ∨ k = 4 by omega) with h | h | h | h <;> subst h <;> assumption

theorem test_SlotsAreChosen : reported.rps.slots.length = 4 ∧ reported.rps.slot 3 = .free
    ∧ (∀ k, 1 ≤ k → k < 3 → reported.rps.slot k ≠ .free)
    ∧ fullSlots.slots.length = 4 ∧ (∀ k, 1 ≤ k → k ≤ 4 → fullSlots.slot k ≠ .free)
    ∧ fullSlots.slot 1 = .sealed report ∧ protectedReport report = false
    ∧ (∀ k y, 1 ≤ k → k ≤ 4 → k ≠ 1 → fullSlots.slot k = .sealed y → protectedReport y = false → report.sealOrder < y.sealOrder)
    ∧ (∀ k, 1 ≤ k → k ≤ 4 → fillingSlots.slot k ≠ .free)
    ∧ (∀ k y, 1 ≤ k → k ≤ 4 → fillingSlots.slot k = .sealed y → protectedReport y = true) := by
  refine ⟨rfl, rfl, fun k h1 h2 => ?_, rfl, four_cases (by decide) (by decide) (by decide) (by decide), rfl, by decide +kernel, fun k y h1 h2 => ?_,
    four_cases (by decide) (by decide) (by decide) (by decide), fun k y h1 h2 => ?_⟩
  · rcases (show k = 1 ∨ k = 2 by omega) with h | h <;> subst h <;> decide
  · revert k
    refine four_cases (fun h => absurd rfl h) (fun _ h _ => ?_) (fun _ h => nomatch h) (fun _ h => nomatch h)
    cases Slot.sealed.inj h
    decide +kernel
  · revert k
    exact four_cases (fun h => nomatch h) (fun h => nomatch h) (fun h => nomatch h) (fun h => nomatch h)

theorem test_SlotsAreSealed : (running train).passage = some train ∧ train.disposition = some .complete ∧ train.endTime = some 0 ∧ train.slot = none
    ∧ ({ train with slot := some 4 } : Passage).slot = some 4 ∧ 4 ≤ idle.rps.slots.length ∧ idle.rps.sealCount < 4294967295
    ∧ { idle.rps with sealCount := 4294967294 }.sealCount < 4294967295 := by decide

/-- A starting crossing waits in ARMED beside some report slots, with a read of slot 1 in progress. -/
def starting (r : Rps) : State :=
  { site .armed with
    rps := r, axt := { idle.axt with queue := [entry] }
    lif := { idle.lif with inProgress := some ⟨.read ⟨1, 1, .axles, 0, 1, 0, false⟩, 0, false⟩ } }

theorem test_PassageStartsTakeSlots : (starting reported.rps).axt.queue = [entry] ∧ (starting reported.rps).scu.site = .armed
    ∧ reported.rps.choose = .fresh 3 ∧ fullSlots.choose = .takeover 1 ∧ fillingSlots.choose = .noSlot
    ∧ (after (exec (.crossingTake 0) (starting reported.rps))).rps.slots = [.sealed report, .filling 2, .filling 1, .free]
    ∧ (after (exec (.crossingTake 0) (starting fullSlots))).rps.slot 1 = .filling 1
    ∧ (after (exec (.crossingTake 0) (starting fullSlots))).lif.inProgress = some ⟨.read ⟨1, 1, .axles, 0, 1, 0, true⟩, 0, false⟩
    ∧ (after (exec (.crossingTake 0) (starting fillingSlots))).rps.slots = fillingSlots.slots
    ∧ ((after (exec (.crossingTake 0) (starting fillingSlots))).passage.map (·.slot)) = some none := by decide +kernel

theorem test_EventsAreKeptUntilTold : idle.Ready 15 0 (putNat 2 1 ++ [13]) ∧ whole (takeList takeKind) (putNat 2 1 ++ [14]) = none
    ∧ whole (takeList takeKind) (putNat 2 2 ++ [1, 13]) = some [1, 4096] ∧ whole (takeList takeKind) (putNat 2 1 ++ [0]) = none
    ∧ idle.Ready 16 0 (put4 8191) ∧ whole takeSet [] = none ∧ whole takeSet (put4 8191) = some 8191
    ∧ idle.rps.mask.getLsbD (eventNumber .passageStarted - 1) = true
    ∧ { idle.rps with mask := 0 }.mask.getLsbD (eventNumber .passageStarted - 1) = false ∧ 12 ≠ eventNumber .passageStarted - 1 :=
  ⟨ready_of ⟨rfl, rfl, rfl⟩, by decide, by decide, by decide, ready_of ⟨rfl, rfl, rfl⟩, by decide, by decide, by decide, by decide, by decide⟩

/-- Pending kinds with send-due set, under a mask. -/
def telling (m : BitVec 13) : State := idle.onRps fun r => { r with pending := 4097, marks := 4097, sendDue := true, mask := m }

theorem test_EvtFramesListPendingKinds : (telling 0).powered = true ∧ (telling 0).rps.sendDue = true ∧ ((telling 0).elapse 0).rps.holdOff = none
    ∧ (telling 0).lif.locked = true ∧ (∀ f ∈ (telling 0).lif.own, f.kind ≠ .evt)
    ∧ (telling 0).rps.pending &&& ~~~(telling 0).rps.mask ≠ 0 ∧ (telling 4097).rps.pending &&& ~~~(telling 4097).rps.mask = 0
    ∧ (telling 0).lif.sending = none ∧ (telling 0).lif.timWaiting = false ∧ (telling 0).lif.own = [] ∧ (sending (telling 0)).lif.sending.isSome = true
    ∧ (idle.onRps fun r => { r with holdOff := some 5 }).rps.holdOff = some 5 ∧ 5 ≤ 5 := by decide

/-! ### Hypotheses that are met: the site loop -/

/-- The octets of a frame with any kind number and no payload. -/
def raw (dest source kind : Nat) : List Byte :=
  let h := putNat 1 dest ++ putNat 1 source ++ putNat 1 kind ++ putNat 2 0
  h ++ putNat 2 (crc16 h).toNat

/-- LOCKED with the forwarding queue full. -/
def fullForward : State := idle.onLif fun l => { l with forward := List.replicate 16 [] }

theorem test_LockedFramesByAddress : idle.powered = true ∧ Rate.mbit8 ≠ idle.lif.rate ∧ checkFrame [] = none ∧ idle.lif.locked = true
    ∧ (search idle).lif.locked = false
    ∧ (checkFrame (raw 3 120 1)).any (fun f => f.source == idle.lif.station) = true
    ∧ (checkFrame (raw 3 2 1)).any (fun f => !ownSource idle.lif f.source && f.dest != idle.lif.station && f.dest != 255) = true
    ∧ (sending idle).lif.sending.isSome = true ∧ idle.lif.forward.length < 16 ∧ 16 ≤ fullForward.lif.forward.length
    ∧ (checkFrame (raw 120 2 0)).any (fun f => !ownSource idle.lif f.source && f.dest == idle.lif.station && f.kind == 0) = true
    ∧ (checkFrame (raw 120 2 4)).any (fun f => f.kind == 4) = true ∧ (checkFrame (raw 120 2 6)).any (fun f => f.kind == 6) = true
    ∧ (checkFrame (raw 120 2 255)).any (fun f => f.kind == 255) = true := by decide +kernel

/-- LIF with a command in progress and `n` commands waiting. -/
def crowded (n : Nat) : State := idle.onLif fun l =>
  { l with inProgress := some ⟨.stop, 0, false⟩, queue := List.replicate n ⟨1, 0, [], false⟩, supTimer := some 0 }

theorem test_CommandFramesReachTheQueue : (crowded 3).powered = true ∧ (crowded 3).lif.locked = true
    ∧ (checkFrame (frameOctets 120 1 .cmd [1, 0, 0, 0])).any (fun f => !ownSource (crowded 3).lif f.source
        && f.dest == (crowded 3).lif.station && f.kind == 5 && f.source == (crowded 3).controller && f.payload.length == 4) = true
    ∧ (checkFrame (frameOctets 120 2 .cmd [])).any (fun f => f.kind == 5 && f.source != (crowded 3).controller) = true
    ∧ (crowded 3).lif.linkLost = false ∧ (crowded 3).lif.free = false ∧ (crowded 3).lif.queue.length < 4
    ∧ (crowded 3).lif.supTimer.isSome = true ∧ (crowded 4).lif.queue.length = 4 := by decide +kernel

theorem test_SearchFindsTheLoop : (search idle).powered = true ∧ (search idle).lif.locked = false ∧ (search idle).lif.sending = none
    ∧ (checkFrame (raw 255 120 4)).any (fun f => f.source == (search idle).lif.station) = true
    ∧ ((search idle).onLif fun l => { l with loopLost := true }).lif.loopLost = true ∧ (search idle).lif.loopLost = false
    ∧ (search idle).lif.dwell = some 100000 ∧ 100000 ≤ 100000
    ∧ checkFrame (message 255 2 1 []).octets = some (message 255 2 1 []) ∧ idle.powered = true ∧ idle.lif.locked = true := by decide +kernel

theorem test_QuietTimeLosesTheLoop : idle.powered = true ∧ idle.lif.locked = true ∧ idle.lif.quiet = some 1000000 ∧ 1000000 ≤ 1000000
    ∧ (site .passage).scu.site = .passage ∧ (site .passage).scu.check ≠ .run .capture ∧ (site .passage).scu.check ≠ .run .reference
    ∧ (site .passage).lif.quiet = some 1000000 ∧ (phase .capture).scu.check = .run .capture ∧ (phase .reference).scu.check = .run .reference
    ∧ (phase .reference).lif.quiet = some 1000000
    ∧ (stopping 1).lif.inProgress = some ⟨.stop, 0, false⟩ ∧ (stopping 1).lif.quiet = some 1000000 ∧ (stopping 1).lif.locked = true
    ∧ (idle.onLif fun l => { l with inProgress := some ⟨.store, 0, false⟩ }).lif.inProgress = some ⟨.store, 0, false⟩
    ∧ (starting fullSlots).lif.inProgress = some ⟨.read ⟨1, 1, .axles, 0, 1, 0, false⟩, 0, false⟩ ∧ (starting fullSlots).lif.locked = true
    ∧ (starting fullSlots).lif.quiet = some 1000000 := by decide

/-- A frame of the part's own that waits. -/
def waitingFrame (k : OwnKind) : OwnFrame := ⟨k, 1, [], false, none⟩

theorem test_TransmitterTakesTheNextFrame : (sending idle).powered = true ∧ (sending idle).lif.locked = true
    ∧ (sending idle).lif.sending = some ⟨.forwarded, []⟩ ∧ (sending idle).lif.queue = []
    ∧ ((sending idle).onLif fun l => { l with timWaiting := true }).lif.timWaiting = true ∧ (sending idle).lif.timWaiting = false
    ∧ ((sending idle).onLif fun l => { l with own := [waitingFrame .evt] }).lif.own = [waitingFrame .evt] ∧ (waitingFrame .evt).newStation = none
    ∧ (waitingFrame .ans).kind ≠ .evt ∧ (sending idle).lif.own = [] ∧ ((sending idle).onLif fun l => { l with forward := [[]] }).lif.forward = [[]]
    ∧ (sending idle).lif.forward = [] ∧ idle.lif.timTimer = some 10000 ∧ 10000 ≤ 10000 ∧ idle.lif.sending = none
    ∧ (sending idle).lif.sending.isSome = true := by decide

theorem test_SetStationChangesTheAddress : idle.Ready 20 0 (put4 2 ++ [1]) ∧ idle.scu.site = .offline ∧ idle.lif.fixed = false
    ∧ whole (takePair take4 (takeCode stationSettings)) [2] = none
    ∧ whole (takePair take4 (takeCode stationSettings)) (put4 0 ++ [1]) = some (0, false)
    ∧ whole (takePair take4 (takeCode stationSettings)) (put4 127 ++ [1]) = some (127, false) ∧ 126 < 127
    ∧ whole (takePair take4 (takeCode stationSettings)) (put4 1 ++ [0]) = some (1, true) ∧ 1 = idle.controller
    ∧ whole (takePair take4 (takeCode stationSettings)) (put4 2 ++ [0]) = some (2, true) ∧ 2 ≠ idle.controller
    ∧ whole (takePair take4 (takeCode stationSettings)) (put4 126 ++ [1]) = some (126, false) ∧ 126 ≠ idle.controller
    ∧ idle.lif.locked = true ∧ idle.lif.sending = none ∧ idle.lif.timWaiting = false ∧ idle.lif.own = [] ∧ (sending idle).lif.sending.isSome = true
    ∧ (idle.onLif fun l => { l with strip := some ⟨3, some 9, []⟩ }).lif.strip = some ⟨3, some 9, []⟩ :=
  ⟨ready_of ⟨rfl, rfl, rfl⟩, by decide⟩

/-- A part at station 120 that keeps address 3 until the answer with tag 7 comes round. -/
def returning : State := idle.onLif fun l => { l with strip := some ⟨3, some 9, frameOctets 1 120 .ans (ansPayload 20 7 .done [])⟩ }

/-- The kept address, and what waits to go on or is being sent, after an answer from a station with a tag came round. -/
def cameRound (source : Nat) (tag : Byte) : Option Nat × Bool :=
  let t := after (exec (.frameReceived 0 .mbit16 (frameOctets 1 source .ans (ansPayload 20 tag .done []))) returning)
  (t.lif.strip.map (·.station), t.lif.sending.isSome)

theorem test_TheFirstFrameEndsTheKeptAddress : cameRound 120 7 = (none, false) ∧ cameRound 120 6 = (some 3, false)
    ∧ cameRound 3 7 = (some 3, false) ∧ cameRound 4 7 = (some 3, true)
    ∧ ((checkFrame (frameOctets 1 120 .ans (ansPayload 20 7 .done []))).map fun f => (f.source, f.octets))
        = some (120, frameOctets 1 120 .ans (ansPayload 20 7 .done []))
    ∧ ownSource returning.lif 3 = true ∧ ownSource returning.lif 120 = true ∧ ownSource returning.lif 4 = false := by decide +kernel

theorem test_SupervisionLosesTheController : (crowded 0).powered = true ∧ (crowded 0).lif.supTimer = some 0 ∧ 0 ≤ 0
    ∧ (idle.onLif fun l => { l with linkLost := true }).lif.linkLost = true := by decide

/-- LOCKED with the controller LOST. -/
def deserted : State := idle.onLif fun l => { l with linkLost := true }

theorem test_CommandFramesResume : deserted.Hears (message 120 1 5 [1, 0, 0, 0]).octets (message 120 1 5 [1, 0, 0, 0])
    ∧ deserted.Hears (message 120 1 5 []).octets (message 120 1 5 []) ∧ (message 120 1 5 []).payload.length < 4
    ∧ 120 = deserted.lif.station ∧ 1 = deserted.controller ∧ deserted.lif.linkLost = true
    ∧ (after (exec (.frameReceived 0 .mbit16 (message 120 1 5 []).octets) deserted)).lif.counters.malformed = 1
    ∧ (after (exec (.frameReceived 0 .mbit16 (message 120 1 5 [1, 0, 0, 0]).octets) deserted)).lif.linkLost = false :=
  ⟨hears_of (by decide +kernel), hears_of (by decide +kernel), by decide +kernel⟩

/-! ### Hypotheses that are met: Sample Intake -/

/-- Every node's silence timer at its end and every order record at time 0. -/
def heard : State := idle.onSin fun x => { x with nodes := List.replicate 12 ⟨false, some 0, some ⟨0, 1⟩⟩ }

theorem test_SilentNodesAreFaults : heard.powered = true ∧ heard.sin.nodes.length = 12 ∧ (heard.node 1).timer = some 0 ∧ (heard.node 12).timer = some 0
    ∧ (nodeEntry heard.tables 1).isSome = true ∧ 12 ≠ 1 := by decide

/-- A fitted part in a site state, node 2 with an order record at time 1000 of one sample, and its silence. -/
def ordered (x : SiteState) (silent : Bool) : State :=
  fitted ((site x).onSin fun n => { n with nodes := n.nodes.set 1 ⟨silent, some 1, some ⟨1000, 250⟩⟩ })

theorem test_NstFramesBringNodesBack : (ordered .armed true).Hears (message 255 11 3 []).octets (message 255 11 3 [])
    ∧ (ordered .armed false).Hears (message 120 11 3 []).octets (message 120 11 3 []) ∧ (message 120 11 3 []).kind = 3
    ∧ (ordered .offline true).scu.site = .offline ∧ nodeAt equipped 13 = none ∧ nodeAt equipped 11 = some 2
    ∧ ((ordered .armed true).node 2).silent = true ∧ ((ordered .armed false).node 2).silent = false
    ∧ ((after (exec (.frameReceived 0 .mbit16 (message 255 11 3 []).octets) (ordered .armed true))).node 2).silent = false :=
  ⟨hears_of (by decide +kernel), hears_of (by decide +kernel), by decide +kernel⟩

theorem test_SmpFramesRefused : (ordered .armed false).Hears (smp 1000).octets (smp 1000) ∧ (smp 1000).kind = 1
    ∧ (ordered .offline false).scu.site = .offline ∧ (ordered .armed false).scu.site ≠ .offline
    ∧ nodeAt equipped 13 = none ∧ nodeAt equipped 10 = some 1 ∧ (nodeEntry equipped 1).any (fun e => e.kind == .transducer) = true
    ∧ nodeAt equipped (smp 1000).source = some 2 ∧ nodeEntry equipped 2 = some cribNode ∧ cribNode.kind ≠ .transducer
    ∧ ((ordered .armed false).node 2).order = some ⟨1000, 250⟩ ∧ timeDiff (timeAt (smp 1000).payload 4) 1000 ≤ 0
    ∧ ¬ (ordered .armed false).Samples (message 120 11 1 [2, 0, 0, 0]) 2 cribNode
    ∧ ¬ (ordered .armed false).Samples (message 120 11 1 [2, 33, 0, 0]) 2 cribNode
    ∧ (ordered .armed false).Samples (smp 1000) 2 cribNode :=
  ⟨hears_of (by decide +kernel), by decide, by decide, by decide, by decide, by decide, by decide, by decide, by decide, by decide, by decide,
    by decide +kernel, fun h => absurd h.least (by decide), fun h => absurd h.most (by decide), samples_of (by decide +kernel)⟩

/-- A gate at its end with a count and a fault. -/
def gate (n : Nat) (fault : Bool) : State := idle.onSin fun x => { x with gateLeft := 0, gateCount := n, ambientFault := fault }

theorem test_AmbientIsMeasuredByGates : (gate 65535 false).powered = true ∧ (gate 65535 false).sin.gateCount ≤ 65535 ∧ (gate 0 false).sin.gateLeft ≤ 0
    ∧ State.reset.gateConversion = none ∧ (gate 1000 true).gateConversion = some ⟨-500, false⟩ ∧ (gate 13000 true).gateConversion = some ⟨700, false⟩
    ∧ (gate 1000 true).sin.ambientFault = true ∧ (gate 999 false).gateConversion = some ⟨-500, false⟩ ∧ (gate 994 false).gateConversion = some ⟨-501, false⟩
    ∧ (gate 13010 false).gateConversion = some ⟨701, false⟩ ∧ (gate 65535 false).gateConversion = some ⟨1000, true⟩ ∧ (gate 0 false).sin.ambientFault = false
    ∧ idle.sin.history = [] ∧ (idle.onSin fun x => { x with history := [1, 2] }).sin.history ≠ []
    ∧ (idle.onSin fun x => { x with history := [1, 2] }).ambient = some 2 := by decide +kernel

/-- A CRIB channel entry. -/
def crib : ChannelEntry := ⟨some 1, 0, .crib, .left, -1000, 1000, 65535, 4, 0⟩

/-- Channel 0 with a baseline. -/
def based : State := idle.onChannel 0 fun x => { x with baseline := some 0 }

theorem test_CalibrationHoldsTheForce : 0 < 1 ∧ (0 : Int) ≤ 0 ∧ crib.kind = .crib ∧ (idle.channel 0).baseline = none ∧ (based.channel 0).baseline = some 0
    ∧ divRound ((32767 * 256 - 0) * crib.gain) 16777216 = 32767 ∧ divRound ((-32768 * 256 - 0) * crib.gain) 16777216 = -32768 := by decide

/-- A fitted part in a site state, with one due frame of both channels and a baseline on channel 0. -/
def sampled (x : SiteState) (u : Scu → Scu) : State :=
  { fitted (site x) with
    scu := u (site x).scu
    sin := { (based.sin) with line := [⟨2, 0, false, [⟨0, 0, 16, some 0, none, false⟩, ⟨1, 2000000, 5, none, some 7, false⟩]⟩] } }

/-- A check that gathers, its capture period from time 0. -/
def sampling (u : Scu) : Scu := { u with check := .run .capture, sampleStart := 0, endTimer := some 9000000 }

/-- Two points of a conversion table. -/
def twoPoints : List ConvPoint := [⟨0, 0⟩, ⟨2, 3⟩]

theorem test_CalibrationAtItsLimits : (-32768 : Int) ≤ divRound ((32768 * 256 - 0) * 65535) 16777216
    ∧ 32767 < divRound ((32769 * 256 - 0) * 65535) 16777216 ∧ divRound ((-32770 * 256 - 0) * 65535) 16777216 < -32768
    ∧ twoPoints[0]? = some ⟨0, 0⟩ ∧ twoPoints[0 + 1]? = some ⟨2, 3⟩ ∧ twoPoints.getLast? = some ⟨2, 3⟩
    ∧ convert (twoPoints.map some) (-1) = some ⟨0, true⟩ ∧ convert (twoPoints.map some) 3 = some ⟨3, true⟩
    ∧ convert (twoPoints.map some) 2 = some ⟨3, false⟩ ∧ convert (twoPoints.map some) 1 = some ⟨2, false⟩
    ∧ idle.invalid.getD (4 + 3) false = false ∧ ({ idle with invalid := List.replicate 14 true } : State).invalid.getD (4 + 3) false = true
    ∧ scanEntry.kind = .scanner ∧ (fitted idle).convertBy scanEntry.conv 1500 = some ⟨-450, false⟩
    ∧ (unsound.convertBy scanEntry.conv 1500) = none := by decide +kernel

theorem test_ReleasedSamplesMoveChannels : (sampled .armed id).powered = true ∧ channelEntry (sampled .armed id).tables 0 = some cribEntry
    ∧ 0 < (sampled .armed id).sin.channels.length
    ∧ ((after (exec (.delayLineRelease 20000) (sampled .armed id))).channel 0).baseline = some 256
    ∧ ((after (exec (.delayLineRelease 20000) (sampled .checking sampling))).channel 0).capture = some ⟨1, 16, 16, 16⟩
    ∧ ((after (exec (.delayLineRelease 20000) (sampled .checking fun u => { sampling u with sampleStart := 1 }))).channel 0).baseline = some 256
    ∧ (after (exec (.delayLineRelease 20000) (sampled .passage id))).channel 0 = based.channel 0
    ∧ ((after (exec (.delayLineRelease 20000) (sampled .checking sampling))).channel 1).gather = some ⟨1, 7⟩
    ∧ ((after (exec (.delayLineRelease 20000) (sampled .checking id))).channel 1).gather = none := by decide +kernel

/-- A passage and records at time 0, with the loop time just before and at their age. -/
def aged (t : LoopTime) : State :=
  { running (setPulseRecord .wt4 .down (some 0) train) with
    now := t
    sin := { heard.sin with released := some 0 }
    brg := { Brg.reset with records := PerRail.same ⟨false, 0, [⟨0, true⟩]⟩ } }

theorem test_RecordsAge : (aged 0).powered = true ∧ (aged 0).sin.released = some 0 ∧ (aged 0).sin.nodes.length = 12
    ∧ ((aged 0).node 1).order = some ⟨0, 1⟩ ∧ ((aged 0).node 12).order = some ⟨0, 1⟩ ∧ 12 ≠ 1
    ∧ ((aged 0).passage.bind (·.timeOrder)) = some 0 ∧ ((aged 0).passage.bind fun p => pulseRecord p .wt4 .down) = some 0
    ∧ (((aged 0).elapse 5).brg.records.get .right).changes = [⟨0, true⟩] ∧ Rail.left ≠ .right
    ∧ agedAt 1073741823 0 = false ∧ agedAt 1073741824 0 = true ∧ ¬ (Transducer.wt4 = .wt4 ∧ Direction.up = .down) := by decide

/-- Two frames in the delay line. -/
def lined : State := idle.onSin fun x => { x with line := [⟨1, 0, false, []⟩, ⟨1, 1, false, []⟩] }

theorem test_DueFramesAreReleased : lined.powered = true ∧ (after (exec (.delayLineRelease 20000) lined)).sin.line = [⟨1, 1, false, []⟩]
    ∧ (after (exec (.delayLineRelease 20000) lined)).sin.released = some 0
    ∧ (after (exec (.delayLineRelease 20001) lined)).sin.line = [] ∧ (after (exec (.delayLineRelease 0) lined)).sin.line.length = 2 := by
  decide +kernel

/-- The fitted part at time 30,000 with a delay line and a release record. -/
def laned (l : List LineFrame) (r : Option LoopTime) : State :=
  { ordered .passage false with now := 30000, passage := some train, sin := { (ordered .passage false).sin with line := l, released := r } }

/-- A full delay line whose frames all have one last-sample time. -/
def fullLine (t : LoopTime) : List LineFrame := List.replicate 256 ⟨3, t, false, []⟩

/-- The delay line after an SMP frame of a first-sample time. -/
def placed (t : LoopTime) (s : State) : State := after (exec (.frameReceived 0 .mbit16 (smp t).octets) s)

theorem test_SmpFramesArePlaced : (laned [] none).Hears (smp 1001).octets (smp 1001) ∧ (laned [] none).Samples (smp 1001) 2 cribNode
    ∧ ((laned [] none).node 2).order = some ⟨1000, 250⟩ ∧ 0 < timeDiff (timeAt (smp 1001).payload 4) 1000
    ∧ divRoundNat (3 * 250) 2 = 375 ∧ (375 : Int) < timeDiff 1376 1000 ∧ ¬ (375 : Int) < timeDiff 1375 1000
    ∧ earlier 1001 1002 = true ∧ (placed 1001 (laned [] (some 1002))).sin.counters.late = 1
    ∧ reached (later 30000 0) (later 10000 (laned [] none).holdDelay) = true ∧ (placed 10000 (laned [] (some 10000))).sin.released = some 10000
    ∧ reached (later 30000 0) (later 10001 (laned [] none).holdDelay) = false ∧ (laned [] none).sin.line.length < 256
    ∧ (placed 10001 (laned [⟨3, 10001, false, []⟩] none)).sin.line.map (·.node) = [3, 2]
    ∧ (placed 10001 (laned [⟨3, 10002, false, []⟩] none)).sin.line.map (·.node) = [2, 3] :=
  ⟨hears_of (by decide +kernel), samples_of (by decide +kernel), by decide +kernel⟩

theorem test_FullLinesReleaseEarly : 256 ≤ (laned (fullLine 10002) none).sin.line.length
    ∧ (laned (fullLine 10002) none).sin.line = ⟨3, 10002, false, []⟩ :: List.replicate 255 ⟨3, 10002, false, []⟩
    ∧ earlier 10001 10002 = true ∧ (placed 10001 (laned (fullLine 10002) none)).sin.counters.late = 1
    ∧ (placed 10001 (laned (fullLine 10002) none)).sin.line.length = 255
    ∧ earlier 10002 10002 = false ∧ (placed 10002 (laned (fullLine 10002) none)).sin.line.length = 256
    ∧ (placed 10002 (laned (fullLine 10002) none)).sin.counters.early = 1
    ∧ ((placed 10002 (laned (fullLine 10002) none)).passage.map fun p => p.counters.early) = some 1 := by decide +kernel

/-! ### Hypotheses that are met: the Axle Tracker -/

/-- A passage with given counts and axle total. -/
def counted (c : Counts) (n : Nat) : Passage := { train with counts := c, total := n }

theorem test_ForwardCrossingsCount : 1 ≤ 1 ∧ 4 ≤ 4 ∧ (counted ⟨0, 0, 0, 0⟩ 0).counts.c1 = 0 ∧ 0 < 65535
    ∧ (counted ⟨65535, 0, 0, 0⟩ 65535).counts.c1 = (counted ⟨65535, 0, 0, 0⟩ 65535).total ∧ (counted ⟨0, 0, 0, 0⟩ 1).counts.c1 < 1
    ∧ (counted ⟨1, 1, 0, 0⟩ 1).counts.at (2 - 1) < (counted ⟨1, 1, 0, 0⟩ 1).counts.at 2 + 1
    ∧ (counted ⟨1, 1, 1, 0⟩ 1).counts.at 4 + 1 ≤ (counted ⟨1, 1, 1, 0⟩ 1).counts.at (4 - 1) := by decide

theorem test_BackwardCrossingsCount : Direction.down ≠ train.dir ∧ (counted ⟨0, 0, 0, 0⟩ 1).counts.at (entryPlace .up .wt1) = 0
    ∧ entryPlace .up .wt1 ≠ 4
    ∧ (counted ⟨1, 1, 0, 0⟩ 1).counts.at (entryPlace .up .wt1) - 1 < (counted ⟨1, 1, 0, 0⟩ 1).counts.at (entryPlace .up .wt1 + 1)
    ∧ (counted ⟨1, 1, 1, 1⟩ 1).counts.at (entryPlace .up .wt4) ≠ 0 ∧ entryPlace .up .wt4 = 4
    ∧ (counted ⟨2, 1, 0, 0⟩ 2).counts.at (entryPlace .up .wt1 + 1) ≤ (counted ⟨2, 1, 0, 0⟩ 2).counts.at (entryPlace .up .wt1) - 1
    ∧ entryPlace .up .wt1 = 1 ∧ (counted ⟨2, 1, 0, 0⟩ 2).counts.c1 ≤ 2 ∧ entry.dir = train.dir := by decide

/-- Crossings in the queue in a site state. -/
def crossed (x : SiteState) (l : List Crossing) : State := (site x).onAxt fun a => { a with queue := l, carried := true }

/-- A crossing that starts no passage. -/
def strayed : Crossing := ⟨.wt2, .up, 0, 0⟩

theorem test_CrossingsOutsidePassages : (crossed .armed [strayed]).powered = true ∧ (crossed .armed [strayed]).axt.queue = [strayed]
    ∧ ¬ (strayed.wt = .wt1 ∧ strayed.dir = .up) ∧ ¬ (strayed.wt = .wt4 ∧ strayed.dir = .down)
    ∧ (crossed .checking [strayed]).scu.site = .checking ∧ (crossed .armed [strayed]).scu.site = .armed ∧ [strayed] ≠ []
    ∧ (crossed .armed [strayed, strayed]).axt.queue = [strayed, strayed] ∧ closing.powered = true ∧ closing.scu.site = .closing := by decide

/-- A CRS payload of records, each a transducer and a direction code, at time 0. -/
def crossings (l : List (Byte × Byte)) : List Byte := [BitVec.ofNat 8 l.length, 0, 0, 0] ++ l.flatMap fun x => [x.1, x.2, 0, 0, 0, 0, 0, 0]

/-- A CRS frame from a station. -/
def crs (source : Nat) (l : List (Byte × Byte)) : Frame := message 255 source 2 (crossings l)

/-- A part in a site state with a number of waiting crossings. -/
def crowd (x : SiteState) (n : Nat) : State := (running train).onScu (fun u => { u with site := x }) |>.onAxt fun a => { a with queue := List.replicate n strayed }

theorem test_CrsFramesFillTheQueue : (crowd .armed 62).Hears (crs 10 [(1, 1), (5, 1), (4, 2), (1, 3)]).octets (crs 10 [(1, 1), (5, 1), (4, 2), (1, 3)])
    ∧ (crs 10 []).kind = 2 ∧ transducerStation (crowd .armed 62).tables = some 10
    ∧ (List.range (recordCount (crossings [(1, 1), (5, 1), (4, 2), (1, 3)]))).filterMap (crossingAt (crossings [(1, 1), (5, 1), (4, 2), (1, 3)]) 0)
        = [⟨.wt1, .up, 0, 0⟩, ⟨.wt4, .down, 0, 0⟩]
    ∧ (crowd .offline 0).scu.site = .offline ∧ (crowd .armed 62).axt.queue.length + 2 ≤ 64 ∧ 64 < (crowd .armed 63).axt.queue.length + 2
    ∧ (crowd .armed 64).axt.queue.length ≤ 64 ∧ (crowd .closing 64).scu.site = .closing ∧ (crowd .passage 64).scu.site = .passage
    ∧ recordCount (2 :: List.replicate 18 0) = 1 := ⟨hears_of (by decide +kernel), by decide +kernel⟩

theorem test_CrsFramesOverflow :
    (after (exec (.frameReceived 0 .mbit16 (crs 10 [(1, 1), (1, 1)]).octets) (crowd .closing 63))).axt.counters.overflow = 1
    ∧ (after (exec (.frameReceived 0 .mbit16 (crs 10 [(1, 1), (1, 1)]).octets) (crowd .closing 63))).axt.carried = true
    ∧ ((after (exec (.frameReceived 0 .mbit16 (crs 10 [(1, 1)]).octets) (crowd .passage 64))).passage.map fun p => p.flags.suspect) = some true
    ∧ (after (exec (.frameReceived 0 .mbit16 (crs 11 [(1, 1)]).octets) (crowd .armed 0))).axt.counters.source = 1
    ∧ (after (exec (.frameReceived 0 .mbit16 (crs 10 [(1, 1), (0, 1)]).octets) (crowd .offline 0))).axt.counters.offline = 1 := by decide +kernel

/-- An exit-side start, in a running check with the loop in SEARCH. -/
def startDown : State := search { crossed .checking [⟨.wt4, .down, 9, 9⟩] with scu := { (phase .capture).scu with due := true } }

theorem test_StartCrossingsStartPassages : (crossed .armed [entry]).powered = true ∧ (crossed .armed [entry]).axt.queue = [entry]
    ∧ (crossed .armed [entry]).scu.site = .armed ∧ entry.wt = .wt1 ∧ entry.dir = .up
    ∧ startDown.powered = true ∧ startDown.axt.queue = [⟨.wt4, .down, 9, 9⟩] ∧ startDown.scu.site = .checking ∧ startDown.lif.locked = false
    ∧ (after (exec (.crossingTake 0) startDown)).scu.site = .passage
    ∧ (after (exec (.crossingTake 0) startDown)).scu.check = .aborted .train
    ∧ (after (exec (.crossingTake 0) startDown)).scu.loss = some 10000000
    ∧ (after (exec (.crossingTake 0) startDown)).brg.shutter = .opened
    ∧ (after (exec (.crossingTake 0) startDown)).aou.alarms = ⟨some 1, [], ⟨0, 0, 0⟩, 0⟩
    ∧ ((after (exec (.crossingTake 0) startDown)).passage.map fun p => (p.number, p.counts, p.total, p.axles.length)) = some (1, ⟨1, 0, 0, 0⟩, 1, 1)
    ∧ ((after (exec (.crossingTake 0) startDown)).passage.map fun p => (p.flags.suspect, p.standing, p.clear)) = some (true, some startDown.standingTime, none)
    ∧ ((after (exec (.crossingTake 0) startDown)).passage.map fun p => (p.timeOrder, pulseRecord p .wt4 .down, p.ambient)) = some (some 9, some 9, none) := by
  refine ⟨rfl, rfl, rfl, rfl, rfl, rfl, rfl, rfl, rfl, by decide +kernel, by decide +kernel, by decide +kernel, by decide +kernel, by decide +kernel,
    by decide +kernel, by decide +kernel, by decide +kernel⟩

/-- PASSAGE with a crossing in the queue, a committed t_dp and records at time 0. -/
def tracked (t : LoopTime) : State :=
  { running (setPulseRecord .wt1 .up (some 0) train) with
    axt := { idle.axt with queue := [⟨.wt1, .up, t, t⟩] }, commit := { idle.commit with tdp := some 24444 } }

theorem test_FiltersDiscardCrossings : (tracked 0).powered = true ∧ (tracked (-1)).axt.queue = [⟨.wt1, .up, -1, -1⟩] ∧ (tracked 0).scu.site = .passage
    ∧ (tracked 0).passage = some (setPulseRecord .wt1 .up (some 0) train) ∧ (setPulseRecord .wt1 .up (some 0) train).timeOrder = some 0
    ∧ earlier (-1) 0 = true ∧ earlier 24443 0 = false ∧ (tracked 0).commit.tdp = some 24444
    ∧ pulseRecord (setPulseRecord .wt1 .up (some 0) train) .wt1 .up = some 0 ∧ timeDiff 24443 0 < 24444 := by decide

/-- A passage of one axle past WT1 and WT2, with a context and a PROVISIONAL load part whose basis is WT2. -/
def passing : Passage :=
  { train with
    counts := ⟨1, 1, 0, 0⟩
    contexts := [⟨1, 1, .weigh, .left, ⟨.wt2, 0, 1000⟩, [], ⟨false, false, false, false⟩, none⟩]
    axles := [{ AxleRecord.created 1 entry with
      history := [⟨.wt1, .up, 0, none, false⟩, ⟨.wt2, .up, 0, some 1000, false⟩]
      load := ⟨some ⟨⟨.provisional, 0, 1000, ⟨false, false, false, false⟩, none, ⟨.wt2, 0, 1000⟩⟩, none, none, none, some .thin, 0, 1, 0, none, none, false, false⟩, none⟩ }] }

/-- PASSAGE with that passage and one crossing in the queue. -/
def crossingNow (x : Crossing) : State := (running passing).onAxt fun a => { a with queue := [x] }

/-- WT3 in direction UP, 12 m on from WT2 after 12 s, and WT2 in direction DOWN. -/
def onward : Crossing := ⟨.wt3, .up, 12000000, 12000000⟩

/-- A crossing back over WT2. -/
def backward : Crossing := ⟨.wt2, .down, 12000000, 12000000⟩

/-- The contexts, the settlement of the LEFT load part and REVERSED_IN_WINDOW after a crossing. -/
def crossedOver (x : Crossing) : Option (List (Option Settling) × Option Settlement × Bool) :=
  (after (exec (.crossingTake 0) (crossingNow x))).passage.bind fun p => (p.axle 1).map fun a =>
    (p.contexts.map (·.settling), (commonOf a .load .left).map (·.settlement), a.reversedInWindow)

theorem test_CrossingsAreApplied : (crossingNow onward).powered = true ∧ (crossingNow onward).axt.queue = [onward]
    ∧ (crossingNow onward).passage = some passing ∧ passing.timeOrder = some 0 ∧ earlier 12000000 0 = false
    ∧ pulseRecord passing .wt3 .up = none ∧ crossingRule passing onward = .forward 1 ∧ crossingRule passing backward = .backward 1
    ∧ ((tickPassage 0 0 passing).axle 1).isSome = true
    ∧ crossingSpeed sound (passing.axle 1 |>.bind fun a => a.history.getLast?) onward = some 1000
    ∧ crossedOver onward = some ([some ⟨.wt3, .up, 12000000, some 1000⟩], some .confirmed, false)
    ∧ crossedOver backward = some ([], some .unsteady, true) := by decide +kernel

/-- A second axle over WT1. -/
def newcomer : Crossing := ⟨.wt1, .up, 12000000, 12000000⟩

/-- A passage with no more records, its counts at a number of axles. -/
def unrecorded (n : Nat) : Passage := { train with counts := ⟨n, 0, 0, 0⟩, total := n, axles := [] }

/-- The counts, total, number of records, sequence faults and flags after a crossing in a passage. -/
def crossedIn (p : Passage) (x : Crossing) : Option (Counts × List Nat × List Bool) :=
  (after (exec (.crossingTake 0) ((running p).onAxt fun a => { a with queue := [x] }))).passage.map fun q =>
    (q.counts, [q.total, q.axles.length, q.counters.sequence], [q.flags.suspect, q.flags.truncated])

theorem test_CrossingsEnterOrAreRefused : crossingRule train newcomer = .entered 2 ∧ crossingRule (unrecorded 1024) newcomer = .entered 1025
    ∧ crossingRule train onward = .refused ∧ train.flags.suspect = false ∧ crossingRule (unrecorded 2) ⟨.wt2, .up, 5, 5⟩ = .forward 1
    ∧ (tickPassage 0 0 (unrecorded 2)).axle 1 = none ∧ crossingRule (unrecorded 2) ⟨.wt1, .down, 5, 5⟩ = .backward 2
    ∧ pulseRecord train .wt1 .up = none ∧ earlier 12000000 0 = false := by decide +kernel

theorem test_EnteredAndRefusedCrossingsCount :
    [crossedIn train newcomer, crossedIn (unrecorded 1024) newcomer, crossedIn train onward,
        crossedIn (unrecorded 2) ⟨.wt2, .up, 5, 5⟩, crossedIn (unrecorded 2) ⟨.wt1, .down, 5, 5⟩]
      = [some (⟨2, 0, 0, 0⟩, [2, 2, 0], [false, false]), some (⟨1025, 0, 0, 0⟩, [1025, 0, 0], [false, true]),
        some (⟨1, 0, 0, 0⟩, [1, 1, 1], [true, false]), some (⟨2, 1, 0, 0⟩, [2, 0, 0], [false, false]),
        some (⟨1, 0, 0, 0⟩, [2, 0, 0], [false, false])] := by decide +kernel

theorem test_AbsentSpeedsAreLive :
    (fun a : Axt => (a.lastSpeed, a.lastSpeedFresh)) (({ running passing with axt := { idle.axt with lastSpeed := some 5 } } : State).setAxleSpeed 1 0 none).axt
      = (none, true) ∧ ((running passing).axle 1).isSome = true := by decide +kernel

/-- A mark in the schedule. -/
def marked : Passage := { train with marks := [⟨1, 3, .far, 5⟩] }

theorem test_StandingTrainsAndMarks : (running train).powered = true ∧ (running train).passage = some train ∧ train.standing = some 0 ∧ 0 ≤ 0
    ∧ (running marked).passage = some marked ∧ marked.marks = [⟨1, 3, .far, 5⟩] ∧ reached (later 0 5) 5 = true
    ∧ ((tickPassage 0 5 marked).axle 1).isSome = true
    ∧ ({ idle with tables := { sound with output := List.replicate 4 { OutputEntry.reset with mode := .pulse, pulseWindow := some 3 } } } : State).outputEntry .o4
        = { OutputEntry.reset with mode := .pulse, pulseWindow := some 3 } := by decide +kernel

theorem test_SegmentsCountThePlaces : Counts.Ordered ⟨2, 1, 1, 0⟩ 2 ∧ 1 ≤ 1 ∧ 4 ≤ 4 ∧ (running train).passage = some train
    ∧ segmentOf ⟨2, 1, 1, 0⟩ 1 = 3 ∧ segmentOf ⟨2, 1, 1, 0⟩ 2 = 1 ∧ segmentOf ⟨2, 1, 1, 0⟩ 3 = 0 :=
  ⟨⟨by decide, by decide, by decide, by decide, by decide⟩, by decide⟩

/-! ### Hypotheses that are met: computed values -/

/-- Nine points of a speed correction table. -/
def points : List SpeedPoint := (List.range 9).map fun i => ⟨1000 * (i + 1), 30000 + 100 * i⟩

theorem test_SpeedFactorInterpolates : points.length = 9 ∧ (∀ p ∈ points, 16384 ≤ p.factor ∧ p.factor ≤ 49152)
    ∧ points[0]? = some ⟨1000, 30000⟩ ∧ points[8]? = some ⟨9000, 30800⟩ ∧ points[7]? = some ⟨8000, 30700⟩ ∧ (8000 ≤ 8999 ∧ 8999 < 9000)
    ∧ ⟨1000, 30000⟩ ∈ points ∧ speedFactor (points.map some) 0 = 30000 ∧ speedFactor (points.map some) 1001 = 30000
    ∧ speedFactor (points.map some) 1005 = 30001 ∧ speedFactor (points.map some) 65535 = 30800 := by decide +kernel

theorem test_points_increase : ∀ i, i + 1 < 9 → ∀ a b, points[i]? = some a → points[i + 1]? = some b → a.speed < b.speed := by
  intro i _ a b ha hb
  simp only [points, List.getElem?_map, Option.map_eq_some_iff] at ha hb
  obtain ⟨m, hm, rfl⟩ := ha
  obtain ⟨n, hn, rfl⟩ := hb
  have := (List.getElem?_eq_some_iff.mp hm).2
  have := (List.getElem?_eq_some_iff.mp hn).2
  simp only [List.getElem_range] at *
  omega

/-- A WEIGH context with two VALID channels of one mean. -/
def weighed (mean : Int) : Context :=
  ⟨1, 1, .weigh, .left, ⟨.wt2, 0, 1000⟩, [⟨0, 8 * mean, 8, none, none, none, false, 0⟩, ⟨1, 8 * mean, 8, none, none, none, false, 0⟩], ⟨false, false, false, false⟩, none⟩

theorem test_LoadPartsCorrectForSpeed : (loadPart sound.site [some ⟨1000, 49152⟩] (weighed 21845) 0).raw = some 21845
    ∧ 0 ≤ speedFactor [some ⟨1000, 49152⟩] 1000
    ∧ (loadPart sound.site [some ⟨1000, 49152⟩] (weighed 21844) 0).load = some 32766
    ∧ divRound (21845 * 49152) 32768 = 32768 ∧ (loadPart sound.site [some ⟨1000, 49152⟩] (weighed 21845) 0).load = some 32767
    ∧ (loadPart sound.site [some ⟨1000, 49152⟩] (weighed 21845) 0).clamped = true
    ∧ divRound (-21846 * 49152) 32768 = -32769 ∧ (loadPart sound.site [some ⟨1000, 49152⟩] (weighed (-21846)) 0).load = some (-32768) := by decide +kernel

/-- A load part with a wheel load. -/
def loaded (w : Int) : LoadPart :=
  { loadPart sound.site [some ⟨1000, 32768⟩] (weighed w) 0 with load := some w }

/-- An axle record with wheel loads. -/
def axled (l r : Int) : AxleRecord := { AxleRecord.created 1 entry with load := ⟨some (loaded l), some (loaded r)⟩ }

theorem test_AxleLoadsAddTheWheels : (axled (-2) 1).load.left = some (loaded (-2)) ∧ (axled (-2) 1).load.right = some (loaded 1)
    ∧ (loaded (-2)).load = some (-2) ∧ (loaded 1).load = some 1 ∧ (-2 : Int) + 1 < 0 ∧ (0 : Int) ≤ 32767 + 32767
    ∧ (weighAxle (axled 32767 32767)).axleLoad = some 65534 ∧ (AxleRecord.created 1 entry).load.left = none := by decide +kernel

/-- The octets of a written crib channel of node 2 with an index. -/
def cribOctets (index : Nat) : List Byte :=
  [1] ++ put4 2 ++ put4 index ++ [0, 0] ++ put4 0 ++ put4 1 ++ put4 0 ++ put4 4 ++ put4 0

theorem test_IndexesAreNotClamped : (takeChannel (cribOctets 9)).map (fun x => (x.1.value.index, x.1.clamped)) = some (9, false)
    ∧ checkChannel { equipped with channels := some { cribEntry with index := 9 } :: equipped.channels.drop 1 } 0 = some ⟨some 0, 4⟩ := by decide +kernel

/-- A vehicle of one axle, and a passage whose axle has load parts of a settlement. -/
def vehicle : Vehicle := ⟨1, 7, 1, 1, none, none, .pending, false, false⟩

/-- A passage whose one axle has load parts of a settlement. -/
def settled (x : Settlement) : Passage :=
  { train with axles := [{ AxleRecord.created 1 entry with load := PerRail.same (some { loaded 1 with common := { (loaded 1).common with settlement := x } }) }] }

theorem test_SettlementByPositionError : (passing.axle 1 |>.bind fun a => (commonOf a .load .left).map (·.settlement)) = some .provisional
    ∧ ((settled .confirmed).axle 1 |>.bind fun a => (commonOf a .load .right).map (·.settlement)) = some .confirmed
    ∧ wtNext .wt2 .up = some .wt3 ∧ wtNext .wt2 .up ≠ some .wt4 ∧ Direction.down ≠ .up
    ∧ settleVerdict sound 150 .up ⟨.wt2, 0, 1000⟩ ⟨.wt3, .up, 12150000, none⟩ = (.confirmed, some 150)
    ∧ settleVerdict sound 150 .up ⟨.wt2, 0, 1000⟩ ⟨.wt3, .up, 12151000, none⟩ = (.unsteady, some 151)
    ∧ settleVerdict sound 150 .up ⟨.wt2, 0, 1000⟩ ⟨.wt4, .up, 12000000, none⟩ = (.unsteady, none) := by decide +kernel

theorem test_LevelsAndEvaluations : (memberParts (settled .unsteady) vehicle).any (fun x => x.common.settlement == .unsteady) = true
    ∧ (memberParts (settled .unconfirmed) vehicle).any (fun x => x.common.settlement == .unconfirmed) = true
    ∧ (∀ x ∈ memberParts (settled .unconfirmed) vehicle, x.common.settlement ≠ .unsteady) ∧ memberParts train vehicle = []
    ∧ memberParts (settled .confirmed) vehicle ≠ [] ∧ (∀ x ∈ memberParts (settled .confirmed) vehicle, x.common.settlement ≠ .unconfirmed)
    ∧ (⟨true, 0, []⟩ : FeedbackRecord).changes = [] ∧ settledAt ⟨true, 0, []⟩ 100000 = true ∧ settledAt ⟨true, 0, []⟩ 99999 = false := by decide +kernel

/-- An impact part with a peak, and limits under which it is a WATCH or a CRITICAL. -/
def struck (l : Level) : ImpactPart :=
  ⟨⟨.provisional, 0, 1000, ⟨false, false, false, false⟩, none, ⟨.wt2, 0, 1000⟩⟩, some ⟨3000, 0, 0⟩, none, none, none, l, none, 1, 0, false, false⟩

theorem test_ImpactLevelsRise : (recomputeImpact idle.impactLimits none (struck .none)).level = .watch
    ∧ levelRank (struck .none).level < levelRank (computedLevel idle.impactLimits false (some 3000) none none)
    ∧ levelRank (computedLevel idle.impactLimits false (some 3000) none none) < levelRank (struck .alarm).level
    ∧ (recomputeImpact idle.impactLimits none (struck .alarm)).levelHeld = true := by decide +kernel

/-- A passage whose one axle is past WT2 at 1 m/s, and some contexts. -/
def measured (l : List Context) : Passage := { passing with contexts := l }

/-- The fitted part in that passage. -/
def pacing (l : List Context) : State := { fitted (running (measured l)) with sin := { idle.sin with channels := List.replicate 32 (ChannelState.reset .ok) } }

/-- The WEIGH window of the equipped part. -/
def weighWindow : Window := ⟨-1000, 1000, .weigh, .left, [0], false, false⟩

/-- The contexts of another axle that fill the table. -/
def fullTable : List Context := List.replicate 48 { weighed 0 with axle := 2 }

/-- Axle 1 at a time: 5 m on, within the window, 7 m on, beyond it. -/
def seen (l : List Context) (t : LoopTime) : List (Nat × Nat) :=
  ((pacing l).paceWindow t (1, weighWindow)).passage.elim [] fun p => (p.contexts.filter fun c => c.axle == 1).map fun c => (c.axle, c.window)

theorem test_ContextsOpenAndClose : (pacing []).passage = some (measured []) ∧ ((pacing []).passage.bind fun p => p.axle 1).isSome = true
    ∧ (((pacing []).axle 1).bind ((pacing []).newContext (measured []) 1 weighWindow 4999000)) = none
    ∧ (((pacing []).axle 1).bind ((pacing []).newContext (measured []) 1 weighWindow 5000000)).isSome = true
    ∧ (measured []).contexts.length < 48 ∧ 48 ≤ (measured fullTable).contexts.length
    ∧ (((pacing fullTable).axle 1).bind ((pacing fullTable).newContext (measured fullTable) 1 weighWindow 6999000)).isSome = true
    ∧ seen [] 4999000 = [] ∧ seen [] 5000000 = [(1, 1)] ∧ seen fullTable 5000000 = []
    ∧ (((pacing fullTable).paceWindow 5000000 (1, weighWindow)).passage.bind fun p => (p.axle 1).map (·.lostWindows)) = some [1]
    ∧ ((pacing [weighed 5]).contextOf 1 1) = some (weighed 5) ∧ seen [weighed 5] 6999000 = [(1, 1)] ∧ seen [weighed 5] 7000000 = []
    ∧ ((pacing [weighed 5]).passage.bind fun p => (p.axle 1).bind fun a => predicted equipped a 7000000) = some 1000
    ∧ beyondWindow .up weighWindow 1000 = true ∧ beyondWindow .up weighWindow 999 = false := by decide +kernel

theorem test_ContextsCloseIntoParts : partKindOf (weighed 5).kind = some .load ∧ partKindOf .mark = none
    ∧ ({ weighed 5 with settling := some ⟨.wt3, .up, 12000000, none⟩ } : Context).settling.isSome = true ∧ (weighed 5).settling = none
    ∧ (pacing []).confirmedPart 1 .load .left = false
    ∧ ({ pacing [] with passage := some (settled .confirmed) } : State).confirmedPart 1 .load .left = true
    ∧ ((((pacing []).closeComplete (weighed 5) 9).axle 1).bind fun a => (commonOf a .load .left).map fun c => (c.settlement, c.closeTime))
        = some (.provisional, 9)
    ∧ ((((pacing []).closeComplete { weighed 5 with settling := some ⟨.wt3, .up, 12000000, none⟩ } 9).axle 1).bind fun a =>
        (commonOf a .load .left).map (·.settlement)) = some .confirmed := by decide +kernel

/-- A crib sample with a force, and a scanner sample with a temperature. -/
def cribSample (f : Option Int) : LineSample := ⟨0, 6000000, 0, f, none, false⟩

/-- A scanner sample with a temperature. -/
def scanSample (v : Option Int) : LineSample := ⟨1, 6000000, 0, none, v, false⟩

/-- A channel entry of a context. -/
def slotOf (fixed : Bool) : ContextEntry := ⟨0, 0, 0, some 5, some 0, none, fixed, 0⟩

theorem test_SamplesAreAttributed : channelEntry (pacing []).tables 0 = some cribEntry ∧ channelEntry (pacing []).tables 1 = some scanEntry
    ∧ axlesAt equipped (measured []) 6000000 (fun z => cribEntry.platLow ≤ z && z < cribEntry.platHigh) = [1]
    ∧ axlesAt equipped (measured []) 7000000 (fun z => cribEntry.platLow ≤ z && z < cribEntry.platHigh) = []
    ∧ ((pacing []).windows.find? fun x => x.2.kind == .scan && x.2.rail == scanEntry.rail)
        = some (2, ⟨1000, 3000, .scan, .left, [1], false, false⟩)
    ∧ 1 ∈ [1] ∧ 1 ∉ ([2] : List Nat)
    ∧ (((pacing []).giveSample cribEntry (cribSample none) [1, 2] fun _ => true).passage.map fun p => p.counters.conflicts) = some 1 := by decide +kernel

/-- That part with its shutters open for long. -/
def shutOpen : State := { pacing [] with brg := { Brg.reset with records := PerRail.same ⟨true, 0, []⟩ } }

theorem test_SamplesMeetTheirFate : (slotOf true).fixed = true ∧ (slotOf false).fixed = false
    ∧ admitted ((pacing []).effHealth 0) = true ∧ admitted (silenced.effHealth 0) = false
    ∧ (pacing []).sampleFate cribEntry (cribSample (some 3)) (slotOf false) = .taken 3
    ∧ (pacing []).sampleFate cribEntry (cribSample none) (slotOf false) = .excluded .notReady
    ∧ silenced.sampleFate cribEntry (cribSample (some 3)) (slotOf false) = .excluded .excluded
    ∧ (pacing []).sampleFate scanEntry (scanSample (some 3)) (slotOf false) = .unsettled
    ∧ settledAt ((shutOpen).brg.records.get .left) 6000000 = true
    ∧ shutOpen.sampleFate scanEntry (scanSample (some 3)) (slotOf false) = .taken 3
    ∧ shutOpen.sampleFate scanEntry (scanSample none) (slotOf false) = .refused
    ∧ (applyFate (.taken 6) 9 (slotOf false)).peak = some 6 ∧ (applyFate (.taken 5) 9 (slotOf false)).peakTime = some 0 := by decide +kernel

/-- A SCAN context with two channels of a peak each. -/
def scanned (a b : Int) : Context :=
  ⟨1, 2, .scan, .left, ⟨.wt2, 0, 1000⟩, [⟨1, a, 2, some a, some 5, none, false, 0⟩, ⟨2, b, 2, some b, some 6, none, false, 0⟩], ⟨false, false, false, false⟩, none⟩

/-- A context without samples, with an exclusion and with samples refused as unsettled. -/
def unread (x : Option Exclusion) (unsettled : Bool) : Context :=
  { scanned 0 0 with entries := [⟨1, 0, 0, none, none, x, false, 0⟩], flags := { (scanned 0 0).flags with unsettled := unsettled } }

/-- The bearing part of a context at an ambient of 20.0 °C with the default limits. -/
def bearing (c : Context) : BearingPart := bearingPart 2 700 1500 (some 200) false c 9

theorem test_BearingPartsTakeTheGreatestPeak : (bearing (scanned 900 900)).peak = some ⟨900, 1, 5⟩ ∧ (bearing (scanned 899 900)).peak = some ⟨900, 2, 6⟩
    ∧ (bearing (scanned 900 900)).rise = some 700 ∧ (bearing (scanned 900 900)).hot = true ∧ (bearing (scanned 899 899)).hot = false
    ∧ (bearingPart 2 700 1500 none false (scanned 1500 0) 9).hot = true ∧ (bearingPart 2 700 1500 none false (scanned 1499 0) 9).hot = false
    ∧ (bearing (scanned 900 900)).contributing = 2 ∧ (bearingPart 3 700 1500 (some 200) false (scanned 9 9) 9).noReading = some .thin
    ∧ (bearing (unread (some .excluded) true)).noReading = some .excluded ∧ (bearing (unread none true)).noReading = some .notSettled
    ∧ ((pacing []).passage.bind fun p => p.axle (scanned 0 0).axle).isSome = true := by decide +kernel

/-- A passage of three axles whose second and third follow at given spacings. -/
def string3 (a b : Spacing) : Passage :=
  { train with
    total := 3
    axles := [AxleRecord.created 1 entry, { AxleRecord.created 2 entry with spacing := a }, { AxleRecord.created 3 entry with spacing := b }] }

/-- A wagon of two axles 5 m apart within 100 mm, and its coupling of 3 m. -/
def wagon : VehicleType := ⟨7, 2, [5000, 500, 500, 500, 500, 500, 500], 100, 3000, 900⟩

theorem test_TypesAreJudged : judgeType false (string3 (.value 5100) (.value 3000)) 1 wagon = .fit false
    ∧ judgeType false (string3 (.value 5101) .pending) 1 wagon = .fail ∧ judgeType false (string3 (.value 4900) (.value 2999)) 1 wagon = .fail
    ∧ judgeType false (string3 .absent .pending) 1 wagon = .fail ∧ judgeType false (string3 .pending .pending) 1 wagon = .wait
    ∧ judgeType false (string3 (.value 5000) .pending) 1 wagon = .wait ∧ judgeType true (string3 (.value 5000) .pending) 1 wagon = .fail
    ∧ judgeType true (string3 .absent (.value 5000)) 2 wagon = .fit true ∧ judgeType false (string3 .absent (.value 5000)) 2 wagon = .wait
    ∧ readSpacing true (string3 .pending .absent) 1 = .absent ∧ readSpacing false (string3 .pending .absent) 3 = .unknown
    ∧ segmentStep false (string3 (.value 5000) (.value 3000)) 1 [{ wagon with code := 8, tolerance := 0, gap := 3001 }, wagon] = .make 7 2 false
    ∧ segmentStep false (string3 .absent .pending) 1 [wagon] = .make 0 1 false
    ∧ segmentStep false (string3 .pending .pending) 1 [wagon] = .wait := by decide +kernel

/-- The part with that type, in a passage. -/
def recognising (p : Passage) : State := { running p with tables := { sound with vehicle := some wagon :: List.replicate 23 none } }

/-- The vehicles of a passage: number, code, first axle and axle count. -/
def vehiclesOf (s : State) : Option (List (Nat × Nat × Nat × Nat)) :=
  s.passage.map fun p => p.vehicles.map fun v => (v.number, v.code, v.first, v.axles)

theorem test_VehiclesAreMade : (recognising (string3 (.value 5000) (.value 3000))).tables.vehicle.filterMap id = [wagon] ∧ 1 ≤ wagon.axles
    ∧ (string3 .absent .absent).segmentStart ≤ (string3 .absent .absent).axles.length
    ∧ ({ string3 .absent .absent with segmentStart := 4 } : Passage).axles.length < 4
    ∧ vehiclesOf ((recognising (string3 (.value 5000) (.value 3000))).segmentAttempt false) = some [(1, 7, 1, 2)]
    ∧ vehiclesOf ((recognising (string3 .absent (.value 5000))).segmentAttempt true) = some [(1, 0, 1, 1), (2, 7, 2, 2)]
    ∧ (string3 .absent .absent).vehicles.length < 512 ∧ 512 ≤ ({ train with vehicles := List.replicate 512 vehicle } : Passage).vehicles.length
    ∧ ((List.range' 1 1).map fun k => ((({ train with axles := [weighAxle (axled 1 2)] } : Passage).axle k).bind (·.axleLoad))) = [3].map some
    ∧ (train.axle 1).bind (·.axleLoad) = none
    ∧ (computeVehicle { train with axles := [{ weighAxle (axled 1 2) with number := 1 }, { weighAxle (axled 0 1) with number := 2 }] }
        { vehicle with axles := 2 }).endImbalance = some 500
    ∧ loadComplete (settled .confirmed) vehicle = true ∧ loadComplete (settled .provisional) vehicle = false := by decide +kernel

/-! ### Hypotheses that are met: alarms, lines and inputs -/

/-- A raise of an axle overload. -/
def overload : Raise := ⟨.axleOver, 1, none, 4000, 3900, .provisional, none⟩

theorem test_RaisesEnterTheList : AlarmList.reset.entries.find? (sameKey overload) = none ∧ AlarmList.reset.entries.length < 128
    ∧ (List.replicate 128 (entryOf { overload with object := 2 } 0)).find? (sameKey overload) = none
    ∧ 128 ≤ (List.replicate 128 (entryOf { overload with object := 2 } 0)).length
    ∧ [entryOf overload 0].find? (sameKey overload) = some (entryOf overload 0) ∧ overload.value ≤ (entryOf overload 0).value
    ∧ (entryOf overload 0).value < { overload with value := 4001 }.value := by decide +kernel

/-- A bearing part of a rise in some settlement. -/
def risen (x : Settlement) (r : Int) : BearingPart :=
  { bearing (scanned (200 + r) 0) with common := { (bearing (scanned 0 0)).common with settlement := x } }

/-- A passage of axles whose LEFT parts have a rise, the first another, and whose RIGHT parts are absent. -/
def warm (x : Settlement) (n : Nat) (r first : Int) : Passage :=
  { train with axles := (List.range n).map fun i =>
      { AxleRecord.created (i + 1) entry with bearing := ⟨some (risen x (if i = 0 then first else r)), none⟩ } }

/-- PASSAGE with one axle of two bearing parts. -/
def paired (x y : Settlement) (l r : Int) : State :=
  running { train with axles := [{ AxleRecord.created 1 entry with bearing := ⟨some (risen x l), some (risen y r)⟩ }] }

/-- The kinds and values that the list of a state holds. -/
def held (s : State) : List (AlarmKind × Int) := s.aou.alarms.entries.map fun e => (e.kind, e.value)

theorem test_BearingChecksRaise : (risen .confirmed 700).hot = true ∧ (risen .confirmed 700).peak = some ⟨900, 1, 5⟩ ∧ (risen .confirmed 699).hot = false
    ∧ held (idle.evaluateHot 1 .left (risen .provisional 700)) = [(.hot, 1000)]
    ∧ held (idle.evaluateWarm 1 .left (risen .confirmed 450)) = [(.warm, 450)] ∧ held (idle.evaluateWarm 1 .left (risen .confirmed 449)) = []
    ∧ ((paired .confirmed .unsteady 400 100).axle 1).isSome = true
    ∧ held ((paired .confirmed .unsteady 400 100).evaluateDiff 1) = [(.diff, 300)] ∧ held ((paired .confirmed .unsteady 399 100).evaluateDiff 1) = []
    ∧ held ((paired .confirmed .provisional 400 100).evaluateDiff 1) = []
    ∧ ((running (warm .confirmed 1 0 0)).axle 1).bind (·.bearing.right.bind (·.rise)) = none
    ∧ (referenceRises (bearingParts (warm .confirmed 7 0 0).axles .left)).length < 8
    ∧ 8 ≤ (referenceRises (bearingParts (warm .confirmed 8 0 0).axles .left)).length
    ∧ held ((running (warm .confirmed 8 0 286)).outlierSide .left) = [(.outlier, 286)] ∧ held ((running (warm .confirmed 8 0 285)).outlierSide .left) = []
    ∧ ((running (warm .confirmed 7 0 286)).outlierSide .left).passage.map (·.flags.outlierSkipped) = some true := by decide +kernel

/-- Every line with one output entry and one line state. -/
def wired (m : OutputMode) (x : LineState) : State :=
  { idle with
    tables := { sound with output := List.replicate 4 { OutputEntry.reset with mode := m, envelope := ⟨true, false, false⟩ } }
    aou := { idle.aou with lines := PerLine.same x } }

/-- A line state with every timer at its end. -/
def ending : LineState := { LineState.reset with pulse := some 0, hold := some 0, readback := some 0, latched := true }

theorem test_LinesFollowTheirSources : ((wired .steady ending).judgeLines.aou.lines.get .o4).asserted = true
    ∧ ((wired .steady ending).outputEntry .o4).mode ≠ .envelope ∧ ((wired .envelope ending).judgeLines.aou.lines.get .o1).asserted = true
    ∧ ((wired .envelope ending).outputEntry .o1).mode = .envelope ∧ (idle.judgeLines.aou.lines.get .o1).asserted = false
    ∧ (wired .steady ending).scu.site = .offline := by decide +kernel

/-- Outside OFFLINE, every line with one entry, no latch and no timer. -/
def sourced (x : SiteState) (e : OutputEntry) (highest : Severities) : State :=
  { site x with
    tables := { sound with output := List.replicate 4 e }
    aou := { idle.aou with lines := PerLine.same LineState.reset, alarms := { AlarmList.reset with highest := highest } } }

/-- An entry that follows every class. -/
def follower (m : OutputMode) (latched : Bool) : OutputEntry :=
  { OutputEntry.reset with classes := ⟨true, true, true, true, true, true⟩, mode := m, latched := latched }

theorem test_LinesAssertBySource : (site .armed).scu.site ≠ .offline ∧ (follower .pulse false).mode = .pulse ∧ (follower .steady false).mode ≠ .pulse
    ∧ ((sourced .armed (follower .pulse false) ⟨0, 0, 0⟩).outputEntry .o4).mode = .pulse
    ∧ (sourced .armed (follower .pulse false) ⟨9, 9, 9⟩).lineAsserted .o1 = false
    ∧ (sourced .armed (follower .steady false) ⟨0, 0, 0⟩).lineAsserted .o1 = false
    ∧ (sourced .passage { follower .steady false with classes := ⟨false, false, true, false, false, false⟩ } ⟨0, 0, 1⟩).lineAsserted .o1 = true
    ∧ (sourced .passage { follower .steady true with classes := ⟨false, false, true, false, false, false⟩ } ⟨0, 0, 1⟩).lineAsserted .o1 = false
    ∧ ((sourced .armed (follower .envelope false) ⟨0, 0, 0⟩).onSin fun n => { n with ambientFault := true }).lineAsserted .o1 = true
    ∧ (sourced .closing (follower .steady true) ⟨0, 0, 0⟩).lineAsserted .o1 = true
    ∧ ((sourced .armed (follower .steady false) ⟨0, 0, 0⟩).onLif fun l => { l with linkLost := true }).lineAsserted .o1 = true := by decide +kernel

theorem test_RaisesLatchLines : ((sourced .passage (follower .steady true) ⟨0, 0, 0⟩).aou.lines.get .o2).latched = false
    ∧ (((sourced .passage (follower .steady true) ⟨0, 0, 0⟩).alarm overload).aou.lines.get .o2).latched = true
    ∧ (((sourced .passage (follower .pulse true) ⟨0, 0, 0⟩).alarm overload).aou.lines.get .o2).latched = false
    ∧ idle.aou.alarms.entries.find? (sameKey overload) = none
    ∧ (idle.alarm overload).aou.alarms.entries.find? (sameKey overload) = some (entryOf overload 0)
    ∧ overload.value ≤ (entryOf overload 0).value := by decide +kernel

theorem test_OutputCommands : idle.Ready 17 0 [] ∧ idle.Ready 18 0 [0, 1, 2, 3] ∧ idle.scu.site = .offline
    ∧ whole (takeMany (takeCode testSettings) 4) [0, 1, 2, 3] = none
    ∧ whole (takeMany (takeCode testSettings) 4) [0, 1, 2, 0] = some [some true, some false, none, some true] :=
  ⟨ready_of ⟨rfl, rfl, rfl⟩, ready_of ⟨rfl, rfl, rfl⟩, rfl, by decide, by decide⟩

theorem test_LineTimersAndReadbacks : (wired .pulse ending).powered = true ∧ ((wired .pulse ending).aou.lines.get .o1).pulse = some 0
    ∧ ((wired .pulse ending).outputEntry .o1).mode = .pulse ∧ ((wired .pulse ending).aou.lines.get .o4).hold = some 0 ∧ Line.o1 ≠ .o4
    ∧ ((wired .envelope ending).outputEntry .o2).mode = .envelope
    ∧ ((after (exec (.envelopeEdge 500000 .o2) (wired .envelope ending))).aou.lines.get .o2).asserted = true
    ∧ ((after (exec (.envelopeEdge 500000 .o2) (wired .envelope ending))).aou.lines.get .o2).driven = false
    ∧ idle.pins.readback.get .o3 ≠ true ∧ idle.pins.readback.get .o3 = false ∧ ((wired .pulse ending).aou.lines.get .o3).readback = some 0 := by
  decide +kernel

/-- The approach input asserted. -/
def approached (s : State) : State := { s with pins := { s.pins with approach := true } }

/-- The shutters in a state, with timers at their end. -/
def shut (x : Shutter) (s : State) : State :=
  { s with brg := { s.brg with
    shutter := x, closeTimer := some 0, openTimers := PerRail.same (some 0), closeTimers := PerRail.same (some 0) } }

/-- A feedback record of eight changes. -/
def busyShutter : State :=
  { idle with brg := { idle.brg with records := PerRail.same ⟨false, 0, ⟨1, true⟩ :: List.replicate 7 ⟨2, false⟩⟩ } }

theorem test_ShuttersFollowApproachAndFeedback : (approached idle).powered = true ∧ (approached idle).pins.approach = true ∧ idle.pins.approach = false
    ∧ (site .offline).scu.site = .offline ∧ (site .passage).scu.site = .passage ∧ (site .armed).scu.site = .armed ∧ closing.scu.site = .closing
    ∧ (shut .opened (site .armed)).brg.shutter = .opened ∧ (shut .closeWait (site .armed)).brg.shutter ≠ .opened
    ∧ (site .armed).brg.shutter = .closed ∧ (phase .reference).scu.site = .checking ∧ (phase .reference).checkRunning = true
    ∧ (shut .opened (approached (site .armed))).brg.shutter = .opened ∧ (shut .opened (approached (site .armed))).scu.site = .armed
    ∧ (shut .closeWait (site .armed)).brg.closeTimer = some 0 ∧ (shut .closeWait (site .armed)).brg.shutter ≠ .closed
    ∧ ((shut .opened (running train)).brg.openTimers.get .right) = some 0 ∧ ((shut .closed idle).brg.closeTimers.get .left) = some 0
    ∧ idle.pins.feedback.get .left = false ∧ idle.pins.feedback.get .left ≠ true ∧ true = (Shutter.opened != .closed)
    ∧ true ≠ (idle.brg.shutter != .closed) ∧ ((idle.elapse 0).brg.records.get .left).changes.length < 8
    ∧ ((busyShutter.elapse 0).brg.records.get .left).changes = ⟨1, true⟩ :: List.replicate 7 ⟨2, false⟩
    ∧ 7 ≤ (List.replicate 7 (⟨2, false⟩ : FeedbackChange)).length
    ∧ ((after (exec (.shutterFeedbackChange 0 .left true) busyShutter)).brg.records.get .left)
        = ⟨true, 1, List.replicate 7 ⟨2, false⟩ ++ [⟨0, true⟩]⟩ := by decide +kernel

end Sys2Proof.Tests
end

section
/-! PROOFS. O7: every row changes the fixed fields of its own kind alone. -/

namespace Sys2Proof.Machine

variable {s t : State} {i : Instr}

/-- The fields beside the site state and the passage that a state shows. -/
structure Shows (x : Fixed) (t : State) : Prop where
  pending : t.pending = x.pending
  powered : t.powered = x.powered
  pins : t.pins = x.pins
  store : t.store = x.store
  conds : t.conds = x.conds
  now : t.now = x.now
  tables : t.tables = x.tables
  invalid : t.invalid = x.invalid

/-- A state that has landed shows the fields with which it was to land, in whatever site state. -/
theorem Lands.shows {x : Fixed} {p : SiteState → Prop} (h : Lands x p t) : Shows x t := by
  obtain ⟨y, _, hk⟩ := h
  exact ⟨hk.pending, hk.powered, hk.pins, hk.store, hk.conds, hk.now, hk.tables, hk.invalid⟩

/-- Row `i` from `s` to `t` changes queue, inputs, clock, supply, conditions, tables and store only as a row of its kind may. -/
def FieldsFrame (i : Instr) (s t : State) : Prop :=
  t.pending = s.pending
  ∧ t.pins = pinsAfter i s.pins
  ∧ (suppliesPower i = false → t.now = later s.now (runTime i) ∧ t.powered = true ∧ t.conds = s.conds)
  ∧ (suppliesPower i = false → writesTables i = false → t.tables = s.tables ∧ t.invalid = s.invalid)
  ∧ ((∀ dt n, i ≠ .powerLoss dt n) → writesStore i = false → t.store = s.store)

/-- A row keeps its frame when it shows the fields of the powered part after the loop time that ran, with other tables or another store only where it writes them. -/
theorem Shows.fieldsFrame {a : Tables} {b : List Bool} {c : SettingsStore} (hp : s.powered = true)
    (h : Shows { s.fixed with now := later s.now (runTime i), pins := pinsAfter i s.pins, tables := a, invalid := b, store := c } t)
    (hab : writesTables i = false → a = s.tables ∧ b = s.invalid) (hc : writesStore i = false → c = s.store) :
    FieldsFrame i s t :=
  ⟨h.pending, h.pins, fun _ => ⟨h.now, h.powered.trans hp, h.conds⟩,
    fun _ hw => ⟨h.tables.trans (hab hw).1, h.invalid.trans (hab hw).2⟩, fun _ hw => h.store.trans (hc hw)⟩

/-- A row that is not special moves no input. -/
theorem pinsAfter_of_not_special (hs : special i = false) (p : Pins) : pinsAfter i p = p := by
  cases i with
  | readbackInputChange | approachAssertion | approachRelease | shutterFeedbackChange => cases hs
  | _ => rfl

/-- A row that is not special keeps the frame: it changes the loop time alone of these fields. -/
theorem fieldsFrame_of_not_special (hs : special i = false) (hw : s.Within) (hp : s.powered = true)
    (h : exec i s = .next t) : FieldsFrame i s t := by
  have hl := (rowLands_all i hs s t hw hp h).shows
  refine Shows.fieldsFrame (a := s.tables) (b := s.invalid) (c := s.store) hp ?_ (fun _ => ⟨rfl, rfl⟩) fun _ => rfl
  rw [pinsAfter_of_not_special hs]
  exact hl

/-- POWER_ON keeps the queue, the inputs and the store (R182). -/
theorem fieldsFrame_powerOn (h : exec .powerOn s = .next t) : FieldsFrame .powerOn s t := by
  cases h
  have hl := (lands_powerUp s).shows
  exact ⟨hl.pending, hl.pins, nofun, nofun, fun _ _ => hl.store⟩

/-- POWER_LOSS keeps the queue and the inputs (R184). -/
theorem fieldsFrame_powerLoss {dt n : Nat} (hp : s.powered = true) (h : exec (.powerLoss dt n) s = .next t) :
    FieldsFrame (.powerLoss dt n) s t := by
  rw [exec_powerLoss] at h
  rw [← timed_next h hp]
  exact ⟨rfl, rfl, nofun, nofun, fun hi => absurd rfl (hi dt n)⟩

/-- Every row of the powered part keeps its frame. -/
theorem fieldsFrame_exec (hw : s.Within) (hp : s.powered = true) (h : exec i s = .next t) : FieldsFrame i s t := by
  cases i with
  | powerOn => exact fieldsFrame_powerOn h
  | powerLoss dt n => exact fieldsFrame_powerLoss hp h
  | writeTable dt g r =>
    obtain ⟨_, _, hl⟩ := rowLands_writeTable g r hw hp h
    exact hl.shows.fieldsFrame hp nofun fun _ => rfl
  | storeComplete dt failed =>
    obtain ⟨_, hl⟩ := rowLands_storeComplete failed hw hp h
    exact hl.shows.fieldsFrame hp (fun _ => ⟨rfl, rfl⟩) nofun
  | readbackInputChange dt l b =>
    exact (rowLands_readbackInputChange l b hw hp h).shows.fieldsFrame hp (fun _ => ⟨rfl, rfl⟩) fun _ => rfl
  | approachAssertion dt =>
    exact (rowLands_approachAssertion hw hp h).shows.fieldsFrame hp (fun _ => ⟨rfl, rfl⟩) fun _ => rfl
  | approachRelease dt =>
    exact (rowLands_approachRelease hw hp h).shows.fieldsFrame hp (fun _ => ⟨rfl, rfl⟩) fun _ => rfl
  | shutterFeedbackChange dt r b =>
    exact (rowLands_shutterFeedbackChange r b hw hp h).shows.fieldsFrame hp (fun _ => ⟨rfl, rfl⟩) fun _ => rfl
  | _ => exact fieldsFrame_of_not_special rfl hw hp h

/-- Settles O7: each row by where it lands. -/
theorem fieldsChangeByTheirRowsAlone : Obligations.FieldsChangeByTheirRowsAlone :=
  fun _ _ _ hw hp h => fieldsFrame_exec hw hp h

end Sys2Proof.Machine
end

section
/-! PROOFS. O43: the five rows that age a record empty it from 2³⁰ µs on, and not before. -/

namespace Sys2Proof.Machine

variable (s : State)

/-! ### One node's state -/

/-- The state of a node after a change of it (R6). -/
theorem node_onNode_self {n : Nat} (h1 : 1 ≤ n) (hn : n ≤ s.sin.nodes.length) (f : NodeState → NodeState) :
    (s.onNode n f).node n = f (s.node n) := by
  have hlt : n - 1 < s.sin.nodes.length := by omega
  simp [State.node, State.onNode, List.getD_eq_getElem?_getD, List.getElem?_eq_getElem hlt]

/-- The state of a node after a change of another (R6). -/
theorem node_onNode_of_ne {n k : Nat} (h1 : 1 ≤ n) (hk : 1 ≤ k) (h : k ≠ n) (f : NodeState → NodeState) :
    (s.onNode n f).node k = s.node k := by
  have hne : n - 1 ≠ k - 1 := by omega
  simp [State.node, State.onNode, List.getD_eq_getElem?_getD, List.getElem?_modify_ne _ _ hne]

/-- Loop time leaves a node's order record alone (R11). -/
theorem order_node_elapse (dt n : Nat) : ((s.elapse dt).node n).order = (s.node n).order := by
  simp only [State.node, sin_elapse, tickSin, List.getD_eq_getElem?_getD, List.getElem?_map]
  cases s.sin.nodes[n - 1]? <;> rfl

/-! ### What aging leaves of a record -/

/-- A record that stands is emptied once it is aged. -/
theorem ageOut_some (now r : LoopTime) : ageOut now (some r) = if agedAt now r then none else some r := rfl

/-- The order record of a node after aging (R11). -/
theorem order_ageOrder {now : LoopTime} {n : NodeState} {r : OrderRecord} (h : n.order = some r) :
    (ageOrder now n).order = if agedAt now r.first then none else some r := by
  unfold ageOrder
  rw [h]
  dsimp only
  split
  · rfl
  · exact h

/-- A feedback record whose oldest change is `x`, after aging: the change becomes its base once it is aged (R121). -/
theorem ageFeedbackChange_cons {now : LoopTime} {r : FeedbackRecord} {x : FeedbackChange} {rest : List FeedbackChange}
    (h : r.changes = x :: rest) :
    ageFeedbackChange now r = if agedAt now x.time then ⟨x.isOpen, x.time, rest⟩ else r := by
  unfold ageFeedbackChange ageOldest
  rw [h]

/-- A double-pulse record after its own setting (R31). -/
theorem pulseRecord_setPulseRecord_self (w : Transducer) (d : Direction) (r : Option LoopTime) (p : Passage) :
    pulseRecord (setPulseRecord w d r p) w d = r := by
  simp [pulseRecord, setPulseRecord]

/-- A double-pulse record after the setting of another (R31). -/
theorem pulseRecord_setPulseRecord_of_ne {w v : Transducer} {d e : Direction} (h : ¬ (v = w ∧ e = d)) (r : Option LoopTime)
    (p : Passage) : pulseRecord (setPulseRecord w d r p) v e = pulseRecord p v e := by
  unfold pulseRecord setPulseRecord
  by_cases hv : v = w
  · subst hv
    rw [wtGet_set, dirGet_set_ne _ fun he => h ⟨rfl, he⟩]
  · rw [wtGet_set_ne _ hv]

/-! ### The five rows -/

variable {s} {dt : Nat}

/-- RELEASE_RECORD_AGED (R18). -/
theorem exec_releaseRecordAged_some (hp : s.powered = true) {r : LoopTime} (hr : s.sin.released = some r) :
    exec (.releaseRecordAged dt) s = .next { s.elapse dt with
      sin := { (s.elapse dt).sin with released := if agedAt (later s.now dt) r then none else some r } } := by
  rw [exec_releaseRecordAged, timed_powered s dt _ hp, ← ageOut_some, ← hr]
  rfl

/-- ORDER_RECORD_AGED (R11). -/
theorem exec_orderRecordAged_some (hp : s.powered = true) {node : Nat} {r : OrderRecord} (h1 : 1 ≤ node)
    (hn : node ≤ s.sin.nodes.length) (hr : (s.node node).order = some r) :
    ∃ t, exec (.orderRecordAged dt node) s = .next t
      ∧ (t.node node).order = (if agedAt (later s.now dt) r.first then none else some r)
      ∧ (∀ k, k ≠ node → 1 ≤ k → t.node k = (s.elapse dt).node k) ∧ t = { s.elapse dt with sin := t.sin } := by
  refine ⟨_, (exec_orderRecordAged s dt node).trans (timed_powered s dt _ hp), ?_, ?_, rfl⟩
  · have hlen : node ≤ (s.elapse dt).sin.nodes.length := by simpa [tickSin] using hn
    rw [node_onNode_self _ h1 hlen]
    exact order_ageOrder ((order_node_elapse s dt node).trans hr)
  · exact fun k hk hk1 => node_onNode_of_ne _ h1 hk1 hk _

/-- TIME_ORDER_RECORD_AGED (R30). -/
theorem exec_timeOrderRecordAged_some (hp : s.powered = true) {p : Passage} {r : LoopTime} (hq : s.passage = some p)
    (hr : p.timeOrder = some r) :
    exec (.timeOrderRecordAged dt) s = .next { s.elapse dt with
      passage := some { tickPassage s.now dt p with
        timeOrder := if agedAt (later s.now dt) r then none else some r } } := by
  rw [exec_timeOrderRecordAged, timed_powered s dt _ hp, ← ageOut_some, ← hr]
  simp only [State.onPassage, passage_elapse, hq, Option.map_some]
  rfl

/-- DOUBLE_PULSE_RECORD_AGED (R31). -/
theorem exec_doublePulseRecordAged_some (hp : s.powered = true) {p : Passage} {r : LoopTime} {wt : Transducer} {dir : Direction}
    (hq : s.passage = some p) (hr : pulseRecord p wt dir = some r) :
    ∃ q, exec (.doublePulseRecordAged dt wt dir) s = .next { s.elapse dt with passage := some q }
      ∧ pulseRecord q wt dir = (if agedAt (later s.now dt) r then none else some r)
      ∧ (∀ w d, ¬ (w = wt ∧ d = dir) → pulseRecord q w d = pulseRecord p w d) := by
  refine ⟨setPulseRecord wt dir (ageOut (later s.now dt) (pulseRecord p wt dir)) (tickPassage s.now dt p), ?_, ?_, ?_⟩
  · rw [exec_doublePulseRecordAged, timed_powered s dt _ hp]
    simp only [State.onPassage, passage_elapse, hq, Option.map_some]
    rfl
  · rw [pulseRecord_setPulseRecord_self, hr, ageOut_some]
  · exact fun w d h => pulseRecord_setPulseRecord_of_ne h _ _

/-- FEEDBACK_RECORD_AGED (R121). -/
theorem exec_feedbackRecordAged_cons (hp : s.powered = true) {rail : Rail} {x : FeedbackChange} {rest : List FeedbackChange}
    (hx : ((s.elapse dt).brg.records.get rail).changes = x :: rest) :
    ∃ t, exec (.feedbackRecordAged dt rail) s = .next t
      ∧ t.brg.records.get rail = (if agedAt (later s.now dt) x.time then (⟨x.isOpen, x.time, rest⟩ : FeedbackRecord)
          else (s.elapse dt).brg.records.get rail)
      ∧ (∀ k, k ≠ rail → t.brg.records.get k = (s.elapse dt).brg.records.get k) ∧ t = { s.elapse dt with brg := t.brg } := by
  refine ⟨_, (exec_feedbackRecordAged s dt rail).trans (timed_powered s dt _ hp), ?_, ?_, rfl⟩
  · exact (railGet_set _ _ _).trans (ageFeedbackChange_cons hx)
  · exact fun k hk => railGet_set_ne _ hk _

/-- Settles O43: the five rows, each by what aging leaves of its record. -/
theorem recordsAge : Obligations.RecordsAge := fun _ _ hp =>
  ⟨fun _ => exec_releaseRecordAged_some hp, fun _ _ h1 h12 hn => exec_orderRecordAged_some hp h1 (hn ▸ h12),
    fun _ _ => exec_timeOrderRecordAged_some hp, fun _ _ _ _ => exec_doublePulseRecordAged_some hp,
    fun _ _ _ => exec_feedbackRecordAged_cons hp⟩

end Sys2Proof.Machine
end

section
/-! PROOFS. O42: division and conversion by their definitions, calibrated forces held to their range, and what a release does to the channel of each sample. -/

namespace Sys2Proof.Machine

/-! ### Division (R3) -/

/-- Zero divides to zero. -/
@[simp] theorem divRound_zero (b : Nat) : divRound 0 b = 0 := by
  rcases Nat.eq_zero_or_pos b with rfl | hb
  · rfl
  · have h : b / (2 * b) = 0 := Nat.div_eq_of_lt (by omega)
    simp [divRound, divRoundNat, h]

/-- Of a nonnegative dividend the quotient is the nearest integer, the greater of two as near (R3). -/
theorem divRound_nearest {a : Int} {b : Nat} (hb : 0 < b) (ha : 0 ≤ a) :
    2 * divRound a b * b ≤ 2 * a + b ∧ 2 * a + b < 2 * (divRound a b + 1) * b := by
  obtain ⟨n, rfl⟩ := Int.eq_ofNat_of_zero_le ha
  have hq : divRound (n : Int) b = ((2 * n + b) / (2 * b) : Nat) := by simp [divRound, divRoundNat]
  have hlow := Nat.div_mul_le_self (2 * n + b) (2 * b)
  have hhigh := Nat.lt_div_mul_add (a := 2 * n + b) (b := 2 * b) (by omega)
  rw [Nat.mul_left_comm] at hlow hhigh
  rw [hq]
  generalize (2 * n + b) / (2 * b) = q at hlow hhigh
  rw [Int.mul_assoc, Int.mul_assoc, Int.add_mul, Int.one_mul, ← Int.natCast_mul]
  omega

/-- Ties go away from zero on both sides: the quotient of the opposite is the opposite (R3). -/
theorem divRound_neg (a : Int) (b : Nat) : divRound (-a) b = -divRound a b := by
  unfold divRound
  rcases Int.lt_trichotomy a 0 with ha | rfl | ha
  · rw [if_pos (show (0 : Int) ≤ -a by omega), if_neg (show ¬ (0 : Int) ≤ a by omega), Int.neg_neg]
  · exact (divRound_zero b).trans (congrArg Neg.neg (divRound_zero b)).symm
  · rw [if_neg (show ¬ (0 : Int) ≤ -a by omega), if_pos (show (0 : Int) ≤ a by omega), Int.neg_neg]

/-! ### Conversion tables (R15) -/

/-- Each point's input is less than its neighbour's. -/
def Ascending (l : List ConvPoint) : Prop :=
  ∀ (i : Nat) (a b : ConvPoint), l[i]? = some a → l[i + 1]? = some b → a.input < b.input

/-- The points behind the first ascend too. -/
theorem Ascending.tail {a : ConvPoint} {l : List ConvPoint} (h : Ascending (a :: l)) : Ascending l :=
  fun i p q hp hq => h (i + 1) p q hp hq

/-- Two points and more ascend where the first two do and the rest do from the second on. -/
theorem ascending_cons_cons {a b : ConvPoint} {l : List ConvPoint} :
    Ascending (a :: b :: l) ↔ a.input < b.input ∧ Ascending (b :: l) := by
  refine ⟨fun h => ⟨h 0 a b rfl rfl, h.tail⟩, fun ⟨hab, hl⟩ i p q hp hq => ?_⟩
  cases i with
  | zero =>
    cases hp
    cases hq
    exact hab
  | succ i => exact hl i p q hp hq

/-- The model's test of increasing inputs (R15). -/
theorem increasing_iff (l : List ConvPoint) : increasing l = true ↔ Ascending l := by
  induction l using increasing.induct with
  | case1 => exact ⟨fun _ _ _ _ hp => absurd hp (by simp), fun _ => rfl⟩
  | case2 a => exact ⟨fun _ _ _ _ _ hq => absurd hq (by simp), fun _ => rfl⟩
  | case3 a b rest ih => rw [ascending_cons_cons, increasing, Bool.and_eq_true, decide_eq_true_iff, ih]

/-- The first input is the least. -/
theorem Ascending.first_le {a p : ConvPoint} {l : List ConvPoint} (h : Ascending (a :: l)) (hp : p ∈ a :: l) :
    a.input ≤ p.input := by
  induction l generalizing a with
  | nil =>
    obtain rfl := List.mem_singleton.mp hp
    exact Int.le_refl _
  | cons b rest ih =>
    rcases List.mem_cons.mp hp with rfl | hp
    · exact Int.le_refl _
    · exact Int.le_trans (Int.le_of_lt (ascending_cons_cons.mp h).1) (ih h.tail hp)

/-- Between two neighbouring points the conversion interpolates (R15). -/
theorem convertFrom_between {x : Int} {a p q : ConvPoint} {l : List ConvPoint} {i : Nat} (h : Ascending (a :: l))
    (hp : (a :: l)[i]? = some p) (hq : (a :: l)[i + 1]? = some q) (hpx : p.input ≤ x) (hxq : x < q.input) :
    convertFrom x a l = ⟨interpolate p q x, false⟩ := by
  induction l generalizing a i with
  | nil => simp at hq
  | cons b rest ih =>
    cases i with
    | zero =>
      obtain rfl : a = p := by simpa using hp
      obtain rfl : b = q := by simpa using hq
      exact if_pos hxq
    | succ i =>
      have hb : b.input ≤ p.input := h.tail.first_le (List.mem_of_getElem? hp)
      exact (if_neg (by omega)).trans (ih h.tail hp hq)

/-- From the last point on the conversion stays at its output, clamped beyond it (R15). -/
theorem convertFrom_last {x : Int} {a p : ConvPoint} {l : List ConvPoint} (h : Ascending (a :: l))
    (hp : (a :: l).getLast? = some p) (hpx : p.input ≤ x) : convertFrom x a l = ⟨p.output, decide (p.input < x)⟩ := by
  induction l generalizing a with
  | nil =>
    obtain rfl : a = p := by simpa using hp
    rfl
  | cons b rest ih =>
    rw [List.getLast?_cons_cons] at hp
    have hb : b.input ≤ p.input := h.tail.first_le (List.mem_of_getLast? hp)
    exact (if_neg (by omega)).trans (ih h.tail hp)

/-- A table with all its points set and increasing converts: below its first point to that point's output, else along the points (R15). -/
theorem convert_map_some {a : ConvPoint} {l : List ConvPoint} (h : Ascending (a :: l)) (x : Int) :
    convert ((a :: l).map some) x = some (if x < a.input then ⟨a.output, true⟩ else convertFrom x a l) := by
  have e : ((a :: l).map some).filterMap id = a :: l := by simp [List.filterMap_map]
  unfold convert
  dsimp only
  rw [e]
  exact if_pos ⟨(List.length_map some).symm, (increasing_iff _).mpr h⟩

/-- Below its first input a table answers its first output, clamped (R15). -/
theorem convert_below {l : List ConvPoint} (h : Ascending l) {a : ConvPoint} {x : Int} (ha : l[0]? = some a) (hx : x < a.input) :
    convert (l.map some) x = some ⟨a.output, true⟩ := by
  cases l with
  | nil => simp at ha
  | cons b rest =>
    obtain rfl : b = a := by simpa using ha
    rw [convert_map_some h, if_pos hx]

/-- Between two neighbouring points a table answers the interpolated output (R15). -/
theorem convert_between {l : List ConvPoint} (h : Ascending l) {i : Nat} {p q : ConvPoint} {x : Int} (hp : l[i]? = some p)
    (hq : l[i + 1]? = some q) (hpx : p.input ≤ x) (hxq : x < q.input) :
    convert (l.map some) x = some ⟨interpolate p q x, false⟩ := by
  cases l with
  | nil => simp at hp
  | cons b rest =>
    have hb := h.first_le (List.mem_of_getElem? hp)
    rw [convert_map_some h, if_neg (by omega), convertFrom_between h hp hq hpx hxq]

/-- From its last input on a table answers its last output, clamped beyond it (R15). -/
theorem convert_last {l : List ConvPoint} (h : Ascending l) {p : ConvPoint} {x : Int} (hp : l.getLast? = some p) (hpx : p.input ≤ x) :
    convert (l.map some) x = some ⟨p.output, decide (p.input < x)⟩ := by
  cases l with
  | nil => simp at hp
  | cons b rest =>
    have hb := h.first_le (List.mem_of_getLast? hp)
    rw [convert_map_some h, if_neg (by omega), convertFrom_last h hp hpx]

/-- At a point's input the interpolation gives the point's output. -/
theorem interpolate_left (p q : ConvPoint) : interpolate p q p.input = p.output := by simp [interpolate]

/-- At a point's input a table answers the point's output (R15). -/
theorem convert_at_point {l : List ConvPoint} (h : Ascending l) {p : ConvPoint} (hp : p ∈ l) :
    convert (l.map some) p.input = some ⟨p.output, false⟩ := by
  obtain ⟨i, hi⟩ := List.mem_iff_getElem?.mp hp
  cases hq : l[i + 1]? with
  | some q =>
    rw [convert_between h hi hq (Int.le_refl _) (h i _ _ hi hq), interpolate_left]
  | none =>
    have hlen := (List.getElem?_eq_some_iff.mp hi).1
    have hend := List.getElem?_eq_none_iff.mp hq
    have hlast : l.getLast? = some p := by
      rw [List.getLast?_eq_getElem?, ← hi]
      congr 1
      omega
    rw [convert_last h hlast (Int.le_refl _)]
    simp

/-! ### Calibrated samples (R10, R12, R15) -/

variable (s : State)

/-- A force within its range is held as it is. -/
theorem clampInt_of_mem {lo hi a : Int} (h1 : lo ≤ a) (h2 : a ≤ hi) : clampInt lo hi a = a := by
  unfold clampInt
  rw [if_neg (by omega), if_neg (by omega)]

/-- A force below its range is held at the least. -/
theorem clampInt_of_lt {lo hi a : Int} (h : a < lo) : clampInt lo hi a = lo := if_pos h

/-- A force above its range is held at the greatest. -/
theorem clampInt_of_gt {lo hi a : Int} (hl : lo ≤ hi) (h : hi < a) : clampInt lo hi a = hi := by
  unfold clampInt
  rw [if_neg (by omega), if_pos h]

/-- A held value lies in its range. -/
theorem clampInt_mem {lo hi : Int} (h : lo ≤ hi) (a : Int) : lo ≤ clampInt lo hi a ∧ clampInt lo hi a ≤ hi := by
  unfold clampInt
  split
  · exact ⟨Int.le_refl _, h⟩
  · split <;> omega

/-- A value is held away from itself exactly where it lies outside its range. -/
theorem clampInt_ne_iff (lo hi a : Int) : clampInt lo hi a ≠ a ↔ a < lo ∨ hi < a := by
  unfold clampInt
  split
  · omega
  · split <;> omega

variable (c : Nat) {e : ChannelEntry} (t : LoopTime) (r : Int)

/-- A crib sample without a baseline has no force (R12). -/
theorem calibrated_crib_none (hk : e.kind = .crib) (hb : (s.channel c).baseline = none) :
    s.calibrated c e t r = ⟨c, t, r, none, none, false⟩ := by
  unfold State.calibrated
  rw [hk]
  dsimp only
  rw [hb]

/-- A crib sample with a baseline has the clamped force, marked where the clamp changed it (R12). -/
theorem calibrated_crib_some (hk : e.kind = .crib) {z : Int} (hb : (s.channel c).baseline = some z) :
    s.calibrated c e t r = ⟨c, t, r, some (clampInt (-32768) 32767 (calibrate z e.gain r)), none,
      decide (clampInt (-32768) 32767 (calibrate z e.gain r) ≠ calibrate z e.gain r)⟩ := by
  have hm : decide (clampInt (-32768) 32767 (calibrate z e.gain r) ≠ calibrate z e.gain r)
      = (decide (calibrate z e.gain r < -32768) || decide (32767 < calibrate z e.gain r)) := by
    rw [← Bool.decide_or]
    exact decide_eq_decide.mpr (clampInt_ne_iff _ _ _)
  rw [hm]
  unfold State.calibrated
  rw [hk]
  dsimp only
  rw [hb]
  rfl

/-- The force of a crib sample with a baseline, clause by clause (R12). -/
theorem calibrated_crib_force (hk : e.kind = .crib) {z : Int} (hb : (s.channel c).baseline = some z) :
    ∃ f : Int, s.calibrated c e t r = ⟨c, t, r, some f, none, decide (f ≠ divRound ((r * 256 - z) * e.gain) 16777216)⟩
      ∧ -32768 ≤ f ∧ f ≤ 32767
      ∧ (-32768 ≤ divRound ((r * 256 - z) * e.gain) 16777216 → divRound ((r * 256 - z) * e.gain) 16777216 ≤ 32767 →
          f = divRound ((r * 256 - z) * e.gain) 16777216)
      ∧ (divRound ((r * 256 - z) * e.gain) 16777216 < -32768 → f = -32768)
      ∧ (32767 < divRound ((r * 256 - z) * e.gain) 16777216 → f = 32767) :=
  have hm := clampInt_mem (lo := -32768) (hi := 32767) (by decide) (calibrate z e.gain r)
  ⟨_, calibrated_crib_some s c t r hk hb, hm.1, hm.2, clampInt_of_mem, clampInt_of_lt, clampInt_of_gt (by decide)⟩

/-- A scanner sample that its table does not convert has no temperature (R15). -/
theorem calibrated_scanner_none (hk : e.kind = .scanner) (hv : s.convertBy e.conv r = none) :
    s.calibrated c e t r = ⟨c, t, r, none, none, false⟩ := by
  unfold State.calibrated
  rw [hk]
  dsimp only
  rw [hv]

/-- A scanner sample has its table's output with the clamp mark (R15). -/
theorem calibrated_scanner_some (hk : e.kind = .scanner) {v : Converted} (hv : s.convertBy e.conv r = some v) :
    s.calibrated c e t r = ⟨c, t, r, none, some v.value, v.clamped⟩ := by
  unfold State.calibrated
  rw [hk]
  dsimp only
  rw [hv]

/-- An INVALID conversion table answers nothing (R15). -/
theorem convertBy_invalid {k : Nat} (x : Int) (h : s.invalid.getD (4 + k) false = true) : s.convertBy k x = none := if_pos h

/-- A conversion table that is not INVALID converts by its points (R15). -/
theorem convertBy_valid {k : Nat} (x : Int) (h : s.invalid.getD (4 + k) false = false) :
    s.convertBy k x = convert (s.tables.conv.getD k []) x := if_neg (by rw [h]; exact Bool.false_ne_true)

/-- A channel gives a sample of a frame exactly where it names the frame's node and an index the node holds (R10). -/
theorem sampleOf_eq_some_iff {node channels j : Nat} {payload : List Byte} {y : LineSample} :
    s.sampleOf node channels j t payload c = some y ↔
      ∃ e, channelEntry s.tables c = some e ∧ e.node = some node ∧ e.index < channels
        ∧ y = s.calibrated c e t (rawSample payload channels e.index j) := by
  unfold State.sampleOf
  cases channelEntry s.tables c with
  | none => simp
  | some e => simp [and_assoc, eq_comm]

/-- The samples of a frame: at each instant those of the channels that name its node and an index it holds (R10, R19). -/
theorem mem_frameSamples_iff (node channels samples period : Nat) (payload : List Byte) (y : LineSample) :
    y ∈ s.frameSamples node channels samples period payload ↔
      ∃ j c e, j < samples ∧ c < 32 ∧ channelEntry s.tables c = some e ∧ e.node = some node ∧ e.index < channels
        ∧ y = s.calibrated c e (later (timeAt payload 4) (j * period)) (rawSample payload channels e.index j) := by
  unfold State.frameSamples
  simp only [List.mem_flatMap, List.mem_filterMap, List.mem_range, sampleOf_eq_some_iff]
  constructor
  · rintro ⟨j, hj, c, hc, e, he⟩
    exact ⟨j, c, e, hj, hc, he⟩
  · rintro ⟨j, c, e, hj, hc, he⟩
    exact ⟨j, hj, c, hc, e, he⟩

end Sys2Proof.Machine
end

section
/-! PROOFS. O42: what DELAY_LINE_RELEASE does to one channel: the due frames' samples of that channel, one step each. -/

namespace Sys2Proof.Machine

variable {b s : State} {c : Nat} {e : ChannelEntry}

/-! ### One channel's state -/

/-- The state of a channel after a change of it (R8). -/
theorem channel_onChannel_self (hc : c < s.sin.channels.length) (f : ChannelState → ChannelState) :
    (s.onChannel c f).channel c = f (s.channel c) := by
  simp [State.channel, State.onChannel, List.getD_eq_getElem?_getD, List.getElem?_eq_getElem hc]

/-- The state of a channel after a change of another (R8). -/
theorem channel_onChannel_of_ne {k : Nat} (h : k ≠ c) (f : ChannelState → ChannelState) :
    (s.onChannel k f).channel c = s.channel c := by
  simp [State.channel, State.onChannel, List.getD_eq_getElem?_getD, List.getElem?_modify_ne _ _ h]

/-- A change of a channel that changes nothing. -/
theorem onChannel_id (s : State) (k : Nat) : (s.onChannel k fun x => x) = s := by
  have h : s.sin.channels.modify k (fun x => x) = s.sin.channels := List.modify_id k s.sin.channels
  simp only [State.onChannel, State.onSin, h]

/-! ### Tracking, capture and gathering (R13, R14, R131) -/

variable {x : ChannelState}

/-- A channel without a baseline is not tracked (R13). -/
theorem trackChannel_of_none (k : Nat) (r : Int) (h : x.baseline = none) : trackChannel k r x = x := by
  unfold trackChannel
  rw [h]

/-- A tracking step moves the baseline by the rounded part of its distance, and marks it fresh (R13). -/
theorem trackChannel_of_some (k : Nat) (r : Int) {z : Int} (h : x.baseline = some z) :
    trackChannel k r x = { x with baseline := some (z + divRound (r * 256 - z) (2 ^ k)), fresh := true } := by
  unfold trackChannel
  rw [h]
  rfl

/-- The first raw sample begins a capture (R14). -/
theorem captureRaw_of_none (r : Int) (h : x.capture = none) : captureRaw r x = { x with capture := some ⟨1, r, r, r⟩ } := by
  unfold captureRaw
  rw [h]

/-- A further raw sample joins the capture (R14). -/
theorem captureRaw_of_some (r : Int) {p : Capture} (h : x.capture = some p) :
    captureRaw r x = { x with capture := some ⟨p.count + 1, p.sum + r, min p.low r, max p.high r⟩ } := by
  unfold captureRaw
  rw [h]

/-- The first converted sample begins a gathering (R131). -/
theorem gatherTemp_of_none (v : Int) (h : x.gather = none) : gatherTemp v x = { x with gather := some ⟨1, v⟩ } := by
  unfold gatherTemp
  rw [h]

/-- A further converted sample joins the gathering (R131). -/
theorem gatherTemp_of_some (v : Int) {g : Gather} (h : x.gather = some g) :
    gatherTemp v x = { x with gather := some ⟨g.count + 1, g.sum + v⟩ } := by
  unfold gatherTemp
  rw [h]

/-! ### One sample -/

/-- What a released sample does to the state of its channel (R13, R14, R131). -/
def releaseStep (s : State) (e : ChannelEntry) (x : ChannelState) (y : LineSample) : ChannelState :=
  match e.kind with
  | .crib =>
    if s.scu.site = .checking ∧ s.inCapture y.time then if s.gathering then captureRaw y.raw x else x
    else if s.scu.site = .armed ∨ s.scu.site = .checking then trackChannel e.shift y.raw x
    else x
  | .scanner =>
    match y.temp with
    | some v => if s.gathering ∧ s.inReference y.time then gatherTemp v x else x
    | none => x
  | .ambient => x

/-- In ARMED a crib sample steps the baseline (R13). -/
theorem releaseStep_armed (hk : e.kind = .crib) (hs : s.scu.site = .armed) :
    releaseStep s e = fun x y => trackChannel e.shift y.raw x := by
  funext x y
  simp [releaseStep, hk, hs]

/-- In CHECKING a crib sample of the capture period is captured while gathering, and another steps the baseline (R13, R14). -/
theorem releaseStep_checking (hk : e.kind = .crib) (hs : s.scu.site = .checking) :
    releaseStep s e = fun x y =>
      if s.inCapture y.time then if s.gathering then captureRaw y.raw x else x else trackChannel e.shift y.raw x := by
  funext x y
  simp [releaseStep, hk, hs]

/-- Elsewhere a crib sample leaves its channel (R13). -/
theorem releaseStep_frozen (hk : e.kind = .crib) (ha : s.scu.site ≠ .armed) (hc : s.scu.site ≠ .checking) :
    releaseStep s e = fun x _ => x := by
  funext x y
  simp [releaseStep, hk, ha, hc]

/-- A scanner sample of the reference period is gathered while gathering (R131). -/
theorem releaseStep_scanner (hk : e.kind = .scanner) :
    releaseStep s e = fun x y =>
      match y.temp with
      | some v => if s.gathering ∧ s.inReference y.time then gatherTemp v x else x
      | none => x := by
  funext x y
  unfold releaseStep
  rw [hk]

/-- A sample of the ambient channel leaves its state (R16). -/
theorem releaseStep_ambient (hk : e.kind = .ambient) : releaseStep s e = fun x _ => x := by
  funext x y
  unfold releaseStep
  rw [hk]

/-- The release of a sample but for WIN (R13, R14, R131). -/
def State.stepChannel (y : LineSample) (s : State) : State :=
  match channelEntry s.tables y.channel with
  | some e => s.onChannel y.channel fun x => releaseStep s e x y
  | none => s

/-- A crib sample's release is its channel's step. -/
theorem cribRelease_eq (hk : e.kind = .crib) (y : LineSample) :
    s.cribRelease e y = s.onChannel y.channel fun x => releaseStep s e x y := by
  simp only [State.cribRelease, releaseStep, hk]
  split
  · split
    · rfl
    · exact (onChannel_id s _).symm
  · split
    · rfl
    · exact (onChannel_id s _).symm

/-- A scanner sample's release is its channel's step. -/
theorem scannerRelease_eq (hk : e.kind = .scanner) (y : LineSample) :
    s.scannerRelease y = s.onChannel y.channel fun x => releaseStep s e x y := by
  unfold State.scannerRelease
  cases hv : y.temp with
  | none =>
    simp only [releaseStep, hk, hv]
    exact (onChannel_id s _).symm
  | some v =>
    simp only [releaseStep, hk, hv]
    split
    · rfl
    · exact (onChannel_id s _).symm

/-- A sample is released by its channel's step and then handed to WIN (R13, R14, R19, R131). -/
theorem releaseSample_eq (l : List LineSample) (y : LineSample) : s.releaseSample l y = (s.stepChannel y).winSample l y := by
  unfold State.releaseSample State.stepChannel
  dsimp only
  congr 1
  cases channelEntry s.tables y.channel with
  | none => rfl
  | some e =>
    dsimp only
    split
    · next hk => exact cribRelease_eq hk y
    · next hk => exact scannerRelease_eq hk y
    · next hk =>
      rw [releaseStep_ambient hk]
      exact (onChannel_id s _).symm

/-! ### What a release reads stays as it is -/

/-- `t` agrees with `b` in all that the release of samples reads: loop time, tables, Site Control and the number of channels. -/
structure SameRelease (b t : State) : Prop where
  now : t.now = b.now
  tables : t.tables = b.tables
  scu : t.scu = b.scu
  channels : t.sin.channels.length = b.sin.channels.length

/-- A state agrees with itself. -/
theorem sameRelease_self (s : State) : SameRelease s s := ⟨rfl, rfl, rfl, rfl⟩

/-- Measuring leaves what a release reads. -/
theorem SameRelease.measured {t : State} (h : SameRelease b s) (hm : Measured s t) : SameRelease b t :=
  ⟨hm.now.trans h.now, hm.tables.trans h.tables, hm.scu.trans h.scu, (congrArg (·.channels.length) hm.sin).trans h.channels⟩

/-- A channel's step leaves what a release reads. -/
theorem SameRelease.stepChannel (h : SameRelease b s) (y : LineSample) : SameRelease b (s.stepChannel y) := by
  unfold State.stepChannel
  split
  · exact ⟨h.now, h.tables, h.scu, (List.length_modify ..).trans h.channels⟩
  · exact h

/-- The release of a sample leaves what a release reads. -/
theorem SameRelease.releaseSample (h : SameRelease b s) (l : List LineSample) (y : LineSample) :
    SameRelease b (s.releaseSample l y) := by
  rw [releaseSample_eq]
  exact (h.stepChannel y).measured (measured_winSample (measured_self _) l y)

/-- The release of samples leaves what a release reads. -/
theorem SameRelease.releaseSamples (h : SameRelease b s) (fr l : List LineSample) :
    SameRelease b (forEach l (State.releaseSample fr) s) := by
  unfold forEach
  induction l generalizing s with
  | nil => exact h
  | cons y l ih => exact ih (h.releaseSample fr y)

/-- A frame's gap mark leaves what a release reads. -/
theorem SameRelease.gapMark (h : SameRelease b s) (f : LineFrame) : SameRelease b (if f.gap then s.gapFlag f.node else s) := by
  split
  · exact h.measured (measured_gapFlag (measured_self s) f.node)
  · exact h

/-- A frame's leaving the line leaves what a release reads. -/
theorem SameRelease.leaveLine (h : SameRelease b s) (f : LineFrame) (rest : List LineFrame) :
    SameRelease b (s.onSin fun x => { x with line := rest, released := some f.last }) :=
  ⟨h.now, h.tables, h.scu, h.channels⟩

/-- The release of the head leaves what a release reads. -/
theorem SameRelease.releaseHead (h : SameRelease b s) : SameRelease b s.releaseHead := by
  unfold State.releaseHead
  split
  · exact h
  · next f rest _ => exact ((h.leaveLine f rest).gapMark f).releaseSamples _ _

/-- A channel's step reads Site Control alone. -/
theorem SameRelease.releaseStep_eq (h : SameRelease b s) : releaseStep s e = releaseStep b e := by
  unfold releaseStep State.inCapture State.inReference State.gathering
  rw [h.scu]

/-- Whether a frame is due rests on loop time and the tables alone (R18). -/
theorem SameRelease.frameDue_eq (h : SameRelease b s) (t : LoopTime) : s.frameDue t = b.frameDue t := by
  simp only [State.frameDue, State.holdDelay, h.now, h.tables]

/-! ### One channel through a release -/

/-- The samples of one channel. -/
def samplesOf (c : Nat) (l : List LineSample) : List LineSample := l.filter fun y => y.channel == c

/-- A released sample takes its channel one step and leaves every other (R13, R14, R131). -/
theorem channel_releaseSample (h : SameRelease b s) (he : channelEntry b.tables c = some e) (hc : c < b.sin.channels.length)
    (l : List LineSample) (y : LineSample) :
    (s.releaseSample l y).channel c = if y.channel == c then releaseStep b e (s.channel c) y else s.channel c := by
  have hw : (s.releaseSample l y).channel c = (s.stepChannel y).channel c := by
    unfold State.channel
    rw [releaseSample_eq, (measured_winSample (measured_self _) l y).sin]
  rw [hw]
  unfold State.stepChannel
  by_cases hy : y.channel = c
  · rw [hy, h.tables, he, if_pos (beq_self_eq_true c)]
    dsimp only
    rw [channel_onChannel_self (h.channels.symm ▸ hc), h.releaseStep_eq]
  · rw [if_neg (by simpa using hy)]
    split
    · exact channel_onChannel_of_ne hy _
    · rfl

/-- Released samples take a channel through the steps of its own, in order (R13, R14, R131). -/
theorem channel_releaseSamples (h : SameRelease b s) (he : channelEntry b.tables c = some e) (hc : c < b.sin.channels.length)
    (fr l : List LineSample) :
    (forEach l (State.releaseSample fr) s).channel c = (samplesOf c l).foldl (releaseStep b e) (s.channel c) := by
  unfold forEach samplesOf
  rw [List.foldl_filter]
  induction l generalizing s with
  | nil => rfl
  | cons y l ih =>
    rw [List.foldl_cons, ih (h.releaseSample fr y), channel_releaseSample h he hc fr y]
    rfl

/-- The head frame's samples take a channel through the steps of its own (R19). -/
theorem channel_releaseHead (h : SameRelease b s) (he : channelEntry b.tables c = some e) (hc : c < b.sin.channels.length)
    {f : LineFrame} {rest : List LineFrame} (hl : s.sin.line = f :: rest) :
    s.releaseHead.channel c = (samplesOf c f.samples).foldl (releaseStep b e) (s.channel c) := by
  have hd : s.releaseHead = (s.onSin fun x => { x with line := rest, released := some f.last }).deliver f := by
    unfold State.releaseHead
    rw [hl]
  rw [hd]
  unfold State.deliver
  rw [channel_releaseSamples ((h.leaveLine f rest).gapMark f) he hc]
  split <;> rfl

/-- The samples of the heads that are due, in order (R19). -/
def State.dueSamples (b : State) (l : List LineFrame) : List LineSample :=
  (l.takeWhile fun f => b.frameDue f.last).flatMap LineFrame.samples

/-- The due heads' samples take a channel through the steps of its own (R19). -/
theorem channel_releaseDueHeads (h : SameRelease b s) (he : channelEntry b.tables c = some e) (hc : c < b.sin.channels.length)
    {n : Nat} (hn : s.sin.line.length ≤ n) :
    (s.releaseDueHeads n).channel c = (samplesOf c (b.dueSamples s.sin.line)).foldl (releaseStep b e) (s.channel c) := by
  induction n generalizing s with
  | zero =>
    rw [List.eq_nil_of_length_eq_zero (Nat.le_zero.mp hn)]
    rfl
  | succ n ih =>
    unfold State.releaseDueHeads
    split
    · next hl => rw [hl]; rfl
    · next f rest hl =>
      rw [h.frameDue_eq, hl]
      have hrest : s.releaseHead.sin.line = rest := by rw [line_releaseHead, hl]; rfl
      by_cases hdue : b.frameDue f.last = true
      · have hlen : rest.length ≤ n := by rw [hl] at hn; simpa using hn
        have hsplit : b.dueSamples (f :: rest) = f.samples ++ b.dueSamples rest := by
          unfold State.dueSamples
          rw [List.takeWhile_cons_of_pos (p := fun f : LineFrame => b.frameDue f.last) hdue, List.flatMap_cons]
        rw [if_pos hdue, ih h.releaseHead (hrest ▸ hlen), hrest, channel_releaseHead h he hc hl, hsplit]
        unfold samplesOf
        rw [List.filter_append, List.foldl_append]
      · have hnone : b.dueSamples (f :: rest) = [] := by
          unfold State.dueSamples
          rw [List.takeWhile_cons_of_neg (p := fun f : LineFrame => b.frameDue f.last) hdue, List.flatMap_nil]
        rw [if_neg hdue, hnone]
        rfl

/-- Steps that change nothing leave what they start from. -/
theorem foldl_keeps {α β : Type} (l : List β) (x : α) : l.foldl (fun x _ => x) x = x := by
  induction l with
  | nil => rfl
  | cons _ _ ih => exact ih

/-- DELAY_LINE_RELEASE takes a channel through the steps of its due samples, in order (R13, R14, R19, R131). -/
theorem channel_delayLineRelease (hp : s.powered = true) (dt : Nat) (he : channelEntry s.tables c = some e)
    (hc : c < s.sin.channels.length) :
    ∃ t, exec (.delayLineRelease dt) s = .next t
      ∧ t.channel c = (samplesOf c ((s.elapse dt).dueSamples s.sin.line)).foldl (releaseStep (s.elapse dt) e) (s.channel c) :=
  ⟨_, (exec_delayLineRelease s dt).trans (timed_powered s dt _ hp),
    channel_releaseDueHeads (b := s.elapse dt) (s := s.elapse dt) (sameRelease_self _) he hc (Nat.le_refl _)⟩

/-! ### The periods of a check (R13, R179) -/

/-- A time lies in a span exactly where its distance from the start does. -/
theorem inSpan_iff (start : LoopTime) (m n : Nat) (t : LoopTime) :
    inSpan start m n t = true ↔ (m : Int) ≤ timeDiff t start ∧ timeDiff t start < n := by
  simp [inSpan]

/-- The capture period of a check past its settle wait (R13, R179). -/
theorem inCapture_iff (s : State) (t : LoopTime) :
    s.inCapture t = true ↔ (s.scu.check = .run .capture ∨ s.scu.check = .run .reference)
      ∧ 0 ≤ timeDiff t s.scu.sampleStart ∧ timeDiff t s.scu.sampleStart < 2000000 := by
  unfold State.inCapture
  rw [Bool.and_eq_true, inSpan_iff]
  simp [Config.capturePeriod]

/-- The reference period of a check (R179). -/
theorem inReference_iff (s : State) (t : LoopTime) :
    s.inReference t = true ↔ 2000000 ≤ timeDiff t s.scu.sampleStart ∧ timeDiff t s.scu.sampleStart < 3000000 := by
  unfold State.inReference
  rw [inSpan_iff]
  simp [Config.capturePeriod, Config.referencePeriod]

/-- A check gathers past its settle wait and before the moment gathering ends (R179). -/
theorem gathering_iff (s : State) :
    s.gathering = true ↔ (s.scu.check = .run .capture ∨ s.scu.check = .run .reference) ∧ s.scu.endTimer ≠ some 0 := by
  simp [State.gathering, expired]

/-! ### The obligation -/

/-- What DELAY_LINE_RELEASE does to a channel by its kind and the site state (R13, R14, R131). -/
theorem delayLineRelease_moves (hp : s.powered = true) (dt : Nat) (he : channelEntry s.tables c = some e)
    (hc : c < s.sin.channels.length) {l : List LineSample} (hl : l = samplesOf c ((s.elapse dt).dueSamples s.sin.line)) :
    ∃ t, exec (.delayLineRelease dt) s = .next t
      ∧ (e.kind = .crib →
        (s.scu.site = .armed → t.channel c = l.foldl (fun x y => trackChannel e.shift y.raw x) (s.channel c))
        ∧ (s.scu.site = .checking → t.channel c = l.foldl (fun x y =>
            if (s.elapse dt).inCapture y.time then if (s.elapse dt).gathering then captureRaw y.raw x else x
            else trackChannel e.shift y.raw x) (s.channel c))
        ∧ (s.scu.site ≠ .armed → s.scu.site ≠ .checking → t.channel c = s.channel c))
      ∧ (e.kind = .scanner → t.channel c = l.foldl (fun x y =>
          match y.temp with
          | some v => if (s.elapse dt).gathering ∧ (s.elapse dt).inReference y.time then gatherTemp v x else x
          | none => x) (s.channel c))
      ∧ (e.kind = .ambient → t.channel c = s.channel c) := by
  subst hl
  obtain ⟨t, ht, hch⟩ := channel_delayLineRelease hp dt he hc
  refine ⟨t, ht, fun hk => ⟨fun hs => ?_, fun hs => ?_, fun ha hcheck => ?_⟩, fun hk => ?_, fun hk => ?_⟩
  · rw [hch, releaseStep_armed (s := s.elapse dt) hk hs]
  · rw [hch, releaseStep_checking (s := s.elapse dt) hk hs]
  · rw [hch, releaseStep_frozen (s := s.elapse dt) hk ha hcheck, foldl_keeps]
  · rw [hch, releaseStep_scanner hk]
  · rw [hch, releaseStep_ambient hk, foldl_keeps]

/-- Settles O42: each clause by the lemma on the function it speaks of. -/
theorem calibrationHoldsTheForce : Obligations.CalibrationHoldsTheForce :=
  ⟨fun s c _ t r hk => ⟨calibrated_crib_none s c t r hk, fun _ => calibrated_crib_force s c t r hk⟩,
    fun a b hb => ⟨divRound_nearest hb, divRound_neg a b⟩,
    fun _ _ hl =>
      ⟨fun _ ha hx => convert_below hl ha hx,
        fun _ ha hx => by rw [convert_last hl ha (Int.le_of_lt hx), decide_eq_true hx],
        fun _ ha hx => hx ▸ convert_at_point hl ha,
        fun _ _ _ ha hb hax hxb => convert_between hl ha hb (Int.le_of_lt hax) hxb⟩,
    fun s _ x => ⟨convertBy_invalid s x, convertBy_valid s x⟩,
    fun s c _ t r hk => ⟨calibrated_scanner_none s c t r hk, fun _ => calibrated_scanner_some s c t r hk⟩,
    mem_frameSamples_iff,
    fun _ dt _ _ _ hp he hc hl => delayLineRelease_moves hp dt he hc hl,
    fun _ k r v => ⟨trackChannel_of_none k r, fun _ => trackChannel_of_some k r, captureRaw_of_none r,
      fun _ => captureRaw_of_some r, gatherTemp_of_none v, fun _ => gatherTemp_of_some v⟩,
    fun s t => ⟨inCapture_iff s t, inReference_iff s t, gathering_iff s⟩⟩

end Sys2Proof.Machine
end

section
/-! PROOFS. O4, O5: the part after reset is within its capacities, and every step keeps them. -/

namespace Sys2Proof.Machine

variable {s t : State} {i : Instr}

/-! ### Fields that no capacity bounds -/

/-- The levels of the inputs bear on no capacity. -/
theorem within_pins (h : s.Within) (p : Pins) : ({ s with pins := p } : State).Within :=
  { h with coupled := ⟨h.coupled.passage, h.coupled.check⟩ }

/-- The program's queue bears on no capacity. -/
theorem within_pending (h : s.Within) (l : List Instr) : ({ s with pending := l } : State).Within :=
  { h with coupled := ⟨h.coupled.passage, h.coupled.check⟩ }

/-! ### One row -/

/-- The part without supply is within its capacities: it rests in OFFLINE with every collection empty (R184). -/
theorem within_powerDown (s : State) (n : Nat) : (s.powerDown n).Within := within_of_kept (kept_powerDown s n) ⟨rfl, rfl⟩

/-- Every row of the powered part keeps the capacities: it lands in a site state with every capacity kept, or the supply goes. -/
theorem within_exec_powered (hw : s.Within) (hp : s.powered = true) (h : exec i s = .next t) : t.Within := by
  cases i with
  | powerOn =>
    cases h
    exact (lands_powerUp s).within
  | powerLoss dt n =>
    rw [exec_powerLoss] at h
    rw [← timed_next h hp]
    exact within_powerDown _ n
  | writeTable dt g r =>
    obtain ⟨_, _, hl⟩ := rowLands_writeTable g r hw hp h
    exact hl.within
  | storeComplete dt failed =>
    obtain ⟨_, hl⟩ := rowLands_storeComplete failed hw hp h
    exact hl.within
  | readbackInputChange dt l b => exact (rowLands_readbackInputChange l b hw hp h).within
  | approachAssertion dt => exact (rowLands_approachAssertion hw hp h).within
  | approachRelease dt => exact (rowLands_approachRelease hw hp h).within
  | shutterFeedbackChange dt r b => exact (rowLands_shutterFeedbackChange r b hw hp h).within
  | _ => exact (rowLands_all _ rfl s t hw hp h).within

/-- Without supply a row keeps the capacities: POWER_ON loads the part anew, an input's row sets its level, every other row changes nothing. -/
theorem within_exec_unpowered (hw : s.Within) (hp : s.powered = false) (h : exec i s = .next t) : t.Within := by
  by_cases hi : i = .powerOn
  · subst hi
    cases h
    exact (lands_powerUp s).within
  · obtain ⟨dt, f, he, -⟩ | ⟨dt, c, f, p, he, -⟩ := exec_shape i hi
    · rw [he, timed_unpowered s hp] at h
      cases h
      exact hw
    · rw [he, pinRow_unpowered s hp] at h
      cases h
      exact within_pins hw _

/-- Every row keeps the capacities. -/
theorem within_exec (hw : s.Within) (h : exec i s = .next t) : t.Within := by
  cases hp : s.powered with
  | true => exact within_exec_powered hw hp h
  | false => exact within_exec_unpowered hw hp h

/-! ### The step and the reset -/

/-- Settles O5: a step is the row at the front of the queue, the row due first, or nothing, and every row keeps the capacities. -/
theorem stepKeepsCapacities : Obligations.StepKeepsCapacities := by
  intro s t hw h
  unfold step at h
  split at h
  · exact within_exec (within_pending hw _) h
  · split at h
    · exact within_exec hw h
    · cases h
      exact hw

/-- Settles O4: every collection is empty after reset, and the site state is OFFLINE. -/
theorem resetWithinCapacities : Obligations.ResetWithinCapacities where
  lif := within_lifReset Config.blankStation false
  crossings := Nat.zero_le _
  passage := fun _ h => nomatch h
  alarms := Nat.zero_le _
  slots := rfl
  ring := Nat.zero_le _
  line := Nat.zero_le _
  history := Nat.zero_le _
  leftRecord := Nat.zero_le _
  rightRecord := Nat.zero_le _
  coupled := ⟨rfl, rfl⟩

end Sys2Proof.Machine
end

section
/-! PROOFS. O41: the oscillator's count, the gate's conversion, and the ambient value. -/

namespace Sys2Proof.Machine

variable {s : State} {dt : Nat} {c : Converted}

/-! ### The oscillator (R16) -/

/-- A count that saturates is one more, held to its limit (R3). -/
theorem satInc_eq_min (limit n : Nat) : satInc limit n = min limit (n + 1) := by
  unfold satInc
  split <;> omega

/-- AMBIENT_OSCILLATOR_CYCLE counts one, up to 65,535 (R16). -/
theorem exec_ambientOscillatorCycle_counts (hp : s.powered = true) :
    exec (.ambientOscillatorCycle dt) s = .next { s.elapse dt with
      sin := { (s.elapse dt).sin with gateCount := min 65535 (s.sin.gateCount + 1) } } := by
  rw [exec_ambientOscillatorCycle, timed_powered s dt _ hp, ← satInc_eq_min]
  rfl

/-! ### A gate's conversion (R16, R17) -/

/-- A conversion is good where it was not clamped and lies within −50.0..+70.0 °C (R16). -/
theorem goodAmbient_iff : goodAmbient c = true ↔ c.clamped = false ∧ -500 ≤ c.value ∧ c.value ≤ 700 := by
  simp [goodAmbient, and_assoc]

/-- A good conversion joins the history and clears the fault (R16, R17). -/
theorem sin_takeConversion_good (h : goodAmbient c = true) : (s.takeConversion c).sin =
    { s.sin with ambientFault := false, history := joinHistory c.value s.sin.history, ambientFresh := true } := by
  unfold State.takeConversion
  rw [if_pos h]
  dsimp only
  split <;> simp

/-- Another conversion sets the fault and leaves the history (R16). -/
theorem sin_takeConversion_bad (h : ¬ goodAmbient c = true) :
    (s.takeConversion c).sin = { s.sin with ambientFault := true } := by
  unfold State.takeConversion
  rw [if_neg h]
  dsimp only
  split <;> simp

/-- A conversion that changes the fault raises EQUIPMENT_CHANGED (R16, R140). -/
theorem raised_takeConversion (h : (s.takeConversion c).sin.ambientFault ≠ s.sin.ambientFault) :
    (s.takeConversion c).raised .equipmentChanged := by
  revert h
  unfold State.takeConversion
  extract_lets t
  split
  · next hsame => exact fun h => absurd hsame h
  · exact fun _ => raised_equipmentChanged_self t

/-! ### The end of a gate (R16) -/

/-- The next gate starts at 0. -/
def State.newGate (s : State) : State := s.onSin fun x => { x with gateLeft := Config.ambientGate, gateCount := 0 }

/-- AMBIENT_GATE_END converts the count, if anything serves, and starts the next gate (R16). -/
theorem exec_ambientGateEnd_due (hp : s.powered = true) (h : s.sin.gateLeft ≤ dt) :
    exec (.ambientGateEnd dt) s = .next (s.elapse dt).endGate :=
  (exec_ambientGateEnd s dt).trans (timed_when s hp dt (b := fun t => t.sin.gateLeft == 0) (by simp [tickSin]; omega))

/-- A gate whose count converts to nothing discards it (R16). -/
theorem endGate_none (h : s.gateConversion = none) : s.endGate = s.newGate := by
  unfold State.endGate
  rw [h]
  rfl

/-- A gate whose count converts takes the conversion (R16). -/
theorem endGate_some (h : s.gateConversion = some c) : s.endGate = (s.takeConversion c).newGate := by
  unfold State.endGate
  rw [h]
  rfl

/-- A gate ends with the next one started (R16). -/
theorem gate_endGate (s : State) : s.endGate.sin.gateLeft = 250000 ∧ s.endGate.sin.gateCount = 0 := ⟨rfl, rfl⟩

/-- The end of a gate with a good conversion (R16, R17). -/
theorem endGate_good (hc : s.gateConversion = some c) (h : goodAmbient c = true) :
    s.endGate.sin.ambientFault = false ∧ s.endGate.sin.ambientFresh = true
      ∧ s.endGate.sin.history = (s.sin.history ++ [c.value]).drop (s.sin.history.length + 1 - 4)
      ∧ (s.sin.ambientFault = true → s.endGate.raised .equipmentChanged) := by
  rw [endGate_some hc]
  have e := sin_takeConversion_good (s := s) h
  refine ⟨congrArg Sin.ambientFault e, congrArg Sin.ambientFresh e, congrArg Sin.history e, fun hf => ?_⟩
  refine raised_congr (s := s.takeConversion c) rfl (raised_takeConversion ?_)
  rw [e, hf]
  exact Bool.false_ne_true

/-- The end of a gate with another conversion (R16). -/
theorem endGate_bad (hc : s.gateConversion = some c) (h : ¬ goodAmbient c = true) :
    s.endGate.sin.ambientFault = true ∧ s.endGate.sin.history = s.sin.history
      ∧ s.endGate.sin.ambientFresh = s.sin.ambientFresh
      ∧ (s.sin.ambientFault = false → s.endGate.raised .equipmentChanged) := by
  rw [endGate_some hc]
  have e := sin_takeConversion_bad (s := s) h
  refine ⟨congrArg Sin.ambientFault e, (congrArg Sin.history e :), (congrArg Sin.ambientFresh e :), fun hf => ?_⟩
  refine raised_congr (s := s.takeConversion c) rfl (raised_takeConversion ?_)
  rw [e, hf]
  exact Bool.false_ne_true.symm

/-! ### The ambient value (R17) -/

/-- The ambient value is UNKNOWN with an empty history (R17). -/
theorem ambient_of_nil (h : s.sin.history = []) : s.ambient = none := by simp [State.ambient, h]

/-- The ambient value is else the rounded mean of the conversions held (R17). -/
theorem ambient_of_ne_nil (h : s.sin.history ≠ []) :
    s.ambient = some (divRound (sumInt s.sin.history) s.sin.history.length) := by simp [State.ambient, h]

/-- Settles O41: the oscillator's row, the gate's row by what the count converts to, and the ambient value by the history. -/
theorem ambientIsMeasuredByGates : Obligations.AmbientIsMeasuredByGates :=
  ⟨fun _ _ hp _ => exec_ambientOscillatorCycle_counts hp,
    fun s dt hp hg => ⟨_, exec_ambientGateEnd_due hp hg, (gate_endGate _).1, (gate_endGate _).2, fun h => endGate_none h,
      fun _ hc h => endGate_good (s := s.elapse dt) hc (goodAmbient_iff.mpr h),
      fun _ hc h => endGate_bad (s := s.elapse dt) hc fun hg => h (goodAmbient_iff.mp hg)⟩,
    fun _ => ⟨ambient_of_nil, ambient_of_ne_nil⟩⟩

end Sys2Proof.Machine
end

section
/-! PROOFS. O40: nodes that fall silent and are heard again, and the SMP frames that are refused. -/

namespace Sys2Proof.Machine

variable {s : State} {dt node : Nat} {bytes : List Byte} {f : Frame}

/-! ### Nodes and the fault set (R6, R140) -/

/-- Loop time leaves a node PRESENT or SILENT (R6). -/
theorem silent_node_elapse (s : State) (dt n : Nat) : ((s.elapse dt).node n).silent = (s.node n).silent := by
  simp only [State.node, sin_elapse, tickSin, List.getD_eq_getElem?_getD, List.getElem?_map]
  cases s.sin.nodes[n - 1]? <;> rfl

/-- A running node timer counts down with loop time (R6). -/
theorem timer_node_elapse {n k : Nat} (h : (s.node n).timer = some k) :
    ((s.elapse dt).node n).timer = tick dt (some k) := by
  revert h
  simp only [State.node, sin_elapse, tickSin, List.getD_eq_getElem?_getD, List.getElem?_map]
  cases s.sin.nodes[n - 1]? with
  | none => exact fun h => nomatch h
  | some x => exact fun h => congrArg (tick dt) h

/-- A SILENT node has a place in SIN: one without is PRESENT (R6). -/
theorem le_length_of_silent {n : Nat} (h1 : 1 ≤ n) (h : (s.node n).silent = true) : n ≤ s.sin.nodes.length := by
  refine Nat.le_of_not_lt fun hn => ?_
  have hnone : s.sin.nodes[n - 1]? = none := List.getElem?_eq_none (by omega)
  rw [State.node, List.getD_eq_getElem?_getD, hnone] at h
  exact absurd h Bool.false_ne_true

/-- No channel places a node in the fault set (R140). -/
theorem channelMember_ne_nodeSilent (s : State) (c n : Nat) : channelMember s c ≠ some (.nodeSilent n) := by
  unfold channelMember
  split
  · exact nofun
  · split
    · split <;> exact nofun
    · exact nofun

/-- A node places NODE_SILENT where it is used and SILENT, for itself alone (R6, R140). -/
theorem nodeMember_eq_some_iff {k n : Nat} : nodeMember s k = some (.nodeSilent n) ↔
    ((nodeEntry s.tables k).isSome = true ∧ (s.node k).silent = true) ∧ k = n := by
  simp [nodeMember]

/-- NODE_SILENT stands in the fault set exactly where its node is used and SILENT (R6, R140). -/
theorem nodeSilent_mem_faultSet_iff {n : Nat} : .nodeSilent n ∈ s.faultSet ↔
    n ∈ List.range' 1 12 ∧ (nodeEntry s.tables n).isSome = true ∧ (s.node n).silent = true := by
  have hnodes : .nodeSilent n ∈ (List.range' 1 12).filterMap (nodeMember s) ↔
      n ∈ List.range' 1 12 ∧ (nodeEntry s.tables n).isSome = true ∧ (s.node n).silent = true := by
    simp only [List.mem_filterMap, nodeMember_eq_some_iff]
    exact ⟨fun ⟨_, hk, hs, he⟩ => he ▸ ⟨hk, hs⟩, fun ⟨hk, hs⟩ => ⟨n, hk, hs, rfl⟩⟩
  rw [← hnodes]
  simp [State.faultSet, channelMember_ne_nodeSilent]

/-- Judging the lines leaves every node. -/
theorem node_equipmentChanged (s : State) (n : Nat) : s.equipmentChanged.node n = s.node n := by
  unfold State.node
  rw [sin_equipmentChanged]

/-! ### A node that falls silent (R6) -/

/-- A node's change with EQUIPMENT_CHANGED: the node is changed, every other stands, and the kind is raised (R6, R140). -/
theorem node_changed (h1 : 1 ≤ node) (hn : node ≤ s.sin.nodes.length) (g : NodeState → NodeState) :
    (s.onNode node g).equipmentChanged.node node = g (s.node node)
      ∧ (∀ k, k ≠ node → 1 ≤ k → (s.onNode node g).equipmentChanged.node k = s.node k)
      ∧ (s.onNode node g).equipmentChanged.raised .equipmentChanged := by
  refine ⟨?_, fun k hk hk1 => ?_, raised_equipmentChanged_self _⟩
  · rw [node_equipmentChanged, node_onNode_self s h1 hn]
  · rw [node_equipmentChanged, node_onNode_of_ne s h1 hk1 hk]

/-- NODE_SILENCE_EXPIRY (R6). -/
theorem exec_nodeSilenceExpiry_due {n : Nat} (hp : s.powered = true) (h1 : 1 ≤ node) (h12 : node ≤ 12)
    (hl : s.sin.nodes.length = 12) (ht : (s.node node).timer = some n) (hn : n ≤ dt) :
    ∃ t, exec (.nodeSilenceExpiry dt node) s = .next t
      ∧ (t.node node).silent = true ∧ (t.node node).timer = none ∧ (t.node node).order = (s.node node).order
      ∧ t.raised .equipmentChanged
      ∧ ((nodeEntry s.tables node).isSome = true → .nodeSilent node ∈ t.faultSet)
      ∧ (∀ k, k ≠ node → 1 ≤ k → t.node k = (s.elapse dt).node k)
      ∧ t.lif = (s.elapse dt).lif ∧ t.scu = (s.elapse dt).scu ∧ t.passage = (s.elapse dt).passage
      ∧ t.axt = s.axt ∧ t.brg = (s.elapse dt).brg := by
  have hdue : expired ((s.elapse dt).node node).timer = true := by
    rw [timer_node_elapse ht]
    exact expired_tick rfl hn
  have hlen : node ≤ (s.elapse dt).sin.nodes.length := by simp [tickSin]; omega
  obtain ⟨hself, hother, hraised⟩ :=
    node_changed (s := s.elapse dt) h1 hlen fun n => { n with silent := true, timer := none }
  refine ⟨_, (exec_nodeSilenceExpiry s dt node).trans (timed_when s hp dt (b := fun t => expired (t.node node).timer) hdue),
    ?_, ?_, ?_, hraised, fun hu => ?_, hother, ?_, ?_, ?_, ?_, ?_⟩
  · rw [hself]
  · rw [hself]
  · rw [hself]
    exact order_node_elapse s dt node
  · refine nodeSilent_mem_faultSet_iff.mpr ⟨List.mem_range'_1.mpr ⟨h1, by omega⟩, ?_, by rw [hself]⟩
    rw [tables_equipmentChanged]
    exact hu
  · rw [lif_equipmentChanged]; rfl
  · rw [scu_equipmentChanged]; rfl
  · rw [passage_equipmentChanged]; rfl
  · rw [axt_equipmentChanged]; rfl
  · rw [brg_equipmentChanged]; rfl

/-! ### A node that is heard (R6) -/

/-- The number of the node at a station is one of the table's (R5). -/
theorem nodeAt_mem {t : Tables} {station n : Nat} (h : nodeAt t station = some n) : 1 ≤ n ∧ n ≤ 12 := by
  have hm := List.mem_of_find?_eq_some h
  rw [List.mem_range'_1] at hm
  omega

/-- A node as a frame that the part consumes reaches its block: only loop time has run. -/
theorem node_heard (s : State) (dt : Nat) (f : Frame) (n : Nat) : (s.heard dt f).node n = (s.elapse dt).node n := by
  unfold State.node
  rw [sin_heard]

/-- The site state as a frame that the part consumes reaches its block. -/
theorem site_heard (s : State) (dt : Nat) (f : Frame) : (s.heard dt f).scu.site = s.scu.site := by
  rw [scu_heard]
  rfl

/-- FRAME_RECEIVED of an NST frame is SIN taking it (R6, R188). -/
theorem exec_nst (dt : Nat) (h : s.Hears bytes f) (hk : f.kind = 3) :
    exec (.frameReceived dt s.lif.rate bytes) s = .next ((s.heard dt f).takeNst f.source) := by
  rw [exec_traffic dt h (.inr (.inr hk))]
  unfold State.takeTraffic
  rw [hk]
  rfl

/-- FRAME_RECEIVED of an SMP frame is SIN taking it (R10, R188). -/
theorem exec_smp (dt : Nat) (h : s.Hears bytes f) (hk : f.kind = 1) :
    exec (.frameReceived dt s.lif.rate bytes) s = .next ((s.heard dt f).takeSmp f.source f.payload) := by
  rw [exec_traffic dt h (.inl hk)]
  unfold State.takeTraffic
  rw [hk]
  rfl

/-- An NST frame in OFFLINE or from no node's station changes nothing (R6). -/
theorem takeNst_ignored {source : Nat} (h : s.scu.site = .offline ∨ nodeAt s.tables source = none) :
    s.takeNst source = s := by
  unfold State.takeNst
  split
  · rfl
  · next ho => rw [h.resolve_left ho]

/-- An NST frame outside OFFLINE from a node's station starts its timer anew, and raises EQUIPMENT_CHANGED where the node was SILENT (R6). -/
theorem takeNst_heard {source : Nat} (hs : s.scu.site ≠ .offline) (hn : nodeAt s.tables source = some node) :
    s.takeNst source
      = if (s.node node).silent then (s.onNode node hearNode).equipmentChanged else s.onNode node hearNode := by
  unfold State.takeNst
  rw [if_neg hs, hn]

/-- An NST frame brings a SILENT node back to PRESENT (R6, R140). -/
theorem exec_nst_silent (h : s.Hears bytes f) (hk : f.kind = 3) (hs : s.scu.site ≠ .offline)
    (hn : nodeAt s.tables f.source = some node) (hsil : (s.node node).silent = true) :
    ∃ t, exec (.frameReceived dt s.lif.rate bytes) s = .next t
      ∧ (t.node node).silent = false ∧ (t.node node).timer = some 1000000 ∧ (t.node node).order = (s.node node).order
      ∧ .nodeSilent node ∉ t.faultSet ∧ t.raised .equipmentChanged
      ∧ (∀ k, k ≠ node → 1 ≤ k → t.node k = (s.elapse dt).node k)
      ∧ t.lif = (s.heard dt f).lif ∧ t.scu = (s.elapse dt).scu ∧ t.passage = (s.elapse dt).passage := by
  have h1 := (nodeAt_mem hn).1
  have hsil' : ((s.heard dt f).node node).silent = true := by
    rw [node_heard, silent_node_elapse]
    exact hsil
  obtain ⟨hself, hother, hraised⟩ :=
    node_changed (s := s.heard dt f) h1 (le_length_of_silent h1 hsil') hearNode
  have he := takeNst_heard (s := s.heard dt f) (source := f.source) (by rw [site_heard]; exact hs)
    (by rw [tables_heard]; exact hn)
  rw [if_pos hsil'] at he
  refine ⟨_, (exec_nst dt h hk).trans (congrArg _ he), ?_, ?_, ?_, ?_, hraised, fun k hk hk1 => ?_, ?_, ?_, ?_⟩
  · rw [hself]; rfl
  · rw [hself]; rfl
  · rw [hself]
    show ((s.heard dt f).node node).order = _
    rw [node_heard, order_node_elapse]
  · rw [nodeSilent_mem_faultSet_iff, hself]
    exact fun hc => Bool.false_ne_true hc.2.2
  · rw [hother k hk hk1, node_heard]
  · rw [lif_equipmentChanged]; rfl
  · rw [scu_equipmentChanged]
    exact scu_heard s dt f
  · rw [passage_equipmentChanged]
    exact passage_heard s dt f

/-- An NST frame starts the timer of a PRESENT node anew (R6). -/
theorem exec_nst_present (h : s.Hears bytes f) (hk : f.kind = 3) (hs : s.scu.site ≠ .offline)
    (hn : nodeAt s.tables f.source = some node) (hpres : (s.node node).silent = false) :
    exec (.frameReceived dt s.lif.rate bytes) s = .next ((s.heard dt f).onNode node hearNode) := by
  have hpres' : ¬ ((s.heard dt f).node node).silent = true := by
    rw [node_heard, silent_node_elapse, hpres]
    exact Bool.false_ne_true
  rw [exec_nst dt h hk, takeNst_heard (by rw [site_heard]; exact hs) (by rw [tables_heard]; exact hn), if_neg hpres']

/-! ### SMP frames that are refused (R10, R11, R22) -/

/-- A counter of SIN counts one, held to its limit (R22). -/
theorem bump_eq_min (n : Nat) : bump n = min 65535 (n + 1) := satInc_eq_min _ n

/-- The counters of SIN as a frame that the part consumes reaches its block. -/
theorem counters_heard (s : State) (dt : Nat) (f : Frame) : (s.heard dt f).sin.counters = s.sin.counters := by
  rw [sin_heard]
  rfl

/-- A change of SIN's counters as a frame reaches its block. -/
theorem onSinCounters_heard (s : State) (dt : Nat) (f : Frame) (g : SinCounters → SinCounters) :
    (s.heard dt f).onSinCounters g
      = { s.heard dt f with sin := { (s.heard dt f).sin with counters := g s.sin.counters } } := by
  unfold State.onSinCounters State.onSin
  dsimp only
  rw [counters_heard]

/-- An SMP frame in OFFLINE is discarded uncounted (R10). -/
theorem takeSmp_offline (hs : s.scu.site = .offline) (source : Nat) (l : List Byte) : s.takeSmp source l = s := if_pos hs

/-- An SMP frame outside OFFLINE whose station is no digitizer's counts as from an unknown node (R10, R22). -/
theorem takeSmp_unknown {source : Nat} (hs : s.scu.site ≠ .offline) (l : List Byte)
    (h : nodeAt s.tables source = none
      ∨ ∃ node e, nodeAt s.tables source = some node ∧ nodeEntry s.tables node = some e ∧ e.kind = .transducer) :
    s.takeSmp source l = s.onSinCounters fun c => { c with unknownNode := bump c.unknownNode } := by
  unfold State.takeSmp
  rw [if_neg hs]
  obtain hn | ⟨node, e, hn, he, hk⟩ := h
  · rw [hn]
    rfl
  · rw [hn, Option.bind_some, he]
    exact if_pos hk

/-- A frame not later than its node's order record is an order fault (R11, R22). -/
theorem acceptSmp_order {e : NodeEntry} {r : OrderRecord} {samples : Nat} {l : List Byte} (hr : (s.node node).order = some r)
    (hd : timeDiff (timeAt l 4) r.first ≤ 0) :
    s.acceptSmp node e samples l = s.onSinCounters fun c => { c with order := bump c.order } := by
  have ho : orderCheck (s.node node).order (timeAt l 4) = none := by
    rw [hr]
    exact if_pos hd
  unfold State.acceptSmp
  dsimp only
  rw [ho]

/-- An SMP frame's form is judged alike before and after loop time has run. -/
theorem samples_heard {e : NodeEntry} (h : (s.heard dt f).Samples f node e) : s.Samples f node e :=
  { h with
    site := site_heard s dt f ▸ h.site
    station := tables_heard s dt f ▸ h.station
    entry := tables_heard s dt f ▸ h.entry }

/-- An SMP frame from an unknown node is counted (R10, R22). -/
theorem exec_smp_unknown (h : s.Hears bytes f) (hk : f.kind = 1) (hs : s.scu.site ≠ .offline)
    (hu : nodeAt s.tables f.source = none
      ∨ ∃ node e, nodeAt s.tables f.source = some node ∧ nodeEntry s.tables node = some e ∧ e.kind = .transducer) :
    exec (.frameReceived dt s.lif.rate bytes) s = .next { s.heard dt f with sin := { (s.heard dt f).sin with
      counters := { s.sin.counters with unknownNode := min 65535 (s.sin.counters.unknownNode + 1) } } } := by
  rw [exec_smp dt h hk, takeSmp_unknown (by rw [site_heard]; exact hs) _ (by rw [tables_heard]; exact hu),
    onSinCounters_heard, bump_eq_min]

/-- An SMP frame of another form than its node's is counted (R10, R22). -/
theorem exec_smp_malformed {e : NodeEntry} (h : s.Hears bytes f) (hk : f.kind = 1) (hs : s.scu.site ≠ .offline)
    (hn : nodeAt s.tables f.source = some node) (he : nodeEntry s.tables node = some e) (hd : e.kind ≠ .transducer)
    (hm : ¬ s.Samples f node e) :
    exec (.frameReceived dt s.lif.rate bytes) s = .next { s.heard dt f with sin := { (s.heard dt f).sin with
      counters := { s.sin.counters with malformed := min 65535 (s.sin.counters.malformed + 1) } } } := by
  rw [exec_smp dt h hk, takeSmp_malformed hk (by rw [site_heard]; exact hs) (by rw [tables_heard]; exact hn)
    (by rw [tables_heard]; exact he) hd fun hc => hm (samples_heard hc), onSinCounters_heard, bump_eq_min]

/-- An SMP frame not later than its node's order record is counted (R11, R22). -/
theorem exec_smp_order {e : NodeEntry} {r : OrderRecord} (h : s.Hears bytes f) (hf : s.Samples f node e)
    (hr : (s.node node).order = some r) (hd : timeDiff (timeAt f.payload 4) r.first ≤ 0) :
    exec (.frameReceived dt s.lif.rate bytes) s = .next { s.heard dt f with sin := { (s.heard dt f).sin with
      counters := { s.sin.counters with order := min 65535 (s.sin.counters.order + 1) } } } := by
  have hr' : ((s.heard dt f).node node).order = some r := by
    rw [node_heard, order_node_elapse]
    exact hr
  rw [exec_smp dt h hf.kind, takeSmp_samples hf (tables_heard s dt f) (site_heard s dt f), acceptSmp_order hr' hd,
    onSinCounters_heard, bump_eq_min]

/-- Settles O40: the expiry of a node's timer, and each frame's fate by its kind, the site state and its node. -/
theorem silentNodesAreFaults : Obligations.SilentNodesAreFaults :=
  ⟨fun _ _ _ _ hp h1 h12 hl ht hn => exec_nodeSilenceExpiry_due hp h1 h12 hl ht hn,
    fun s dt _ f h hk =>
      ⟨fun hi => (exec_nst dt h hk).trans
          (congrArg _ (takeNst_ignored (by rw [site_heard, tables_heard]; exact hi))),
        fun _ hs hn => ⟨exec_nst_present h hk hs hn, exec_nst_silent h hk hs hn⟩⟩,
    fun s dt _ f h hk =>
      ⟨fun hs => (exec_smp dt h hk).trans (congrArg _ (takeSmp_offline ((site_heard s dt f).trans hs) _ _)),
        fun hs => ⟨exec_smp_unknown h hk hs, fun _ _ hn he hd =>
          ⟨exec_smp_malformed h hk hs hn he hd, fun _ hf hr ho => exec_smp_order h hf hr ho⟩⟩⟩⟩

end Sys2Proof.Machine
end

section
/-! PROOFS. O44: the delay line: what its release takes out and leaves alone, and where an arriving frame goes. -/

namespace Sys2Proof.Machine

variable {s v : State} {f g : LineFrame} {dt n : Nat}

/-! ### What handing a frame to WIN leaves alone (R19) -/

/-- A released sample leaves whatever measuring and the change of a channel leave. -/
theorem releaseSample_keeps {β : Type} (p : State → β) (hm : ∀ b t, Measured b t → p t = p b)
    (hc : ∀ (t : State) c u, p (t.onChannel c u) = p t) (l : List LineSample) (y : LineSample) (s : State) :
    p (s.releaseSample l y) = p s := by
  rw [releaseSample_eq, hm _ _ (measured_winSample (measured_self _) l y)]
  unfold State.stepChannel
  split
  · exact hc _ _ _
  · rfl

/-- A frame handed to WIN leaves whatever measuring and the change of a channel leave. -/
theorem deliver_keeps {β : Type} (p : State → β) (hm : ∀ b t, Measured b t → p t = p b)
    (hc : ∀ (t : State) c u, p (t.onChannel c u) = p t) (f : LineFrame) (s : State) : p (s.deliver f) = p s := by
  unfold State.deliver
  rw [forEach_keeps p fun y t => releaseSample_keeps p hm hc _ y t]
  split
  · exact hm _ _ (measured_gapFlag (measured_self s) f.node)
  · rfl

/-- A frame handed to WIN leaves the frame most recently released (R18). -/
theorem released_deliver (f : LineFrame) (s : State) : (s.deliver f).sin.released = s.sin.released :=
  deliver_keeps (fun t => t.sin.released) (fun _ _ h => congrArg Sin.released h.sin) (fun _ _ _ => rfl) f s

/-- A frame handed to WIN leaves the counters of SIN (R22). -/
theorem counters_deliver (f : LineFrame) (s : State) : (s.deliver f).sin.counters = s.sin.counters :=
  deliver_keeps (fun t => t.sin.counters) (fun _ _ h => congrArg Sin.counters h.sin) (fun _ _ _ => rfl) f s

/-! ### The head leaves the line (R19) -/

/-- The part as the head has left the line, before the frame is handed on (R18, R19). -/
def State.dropLine (f : LineFrame) (rest : List LineFrame) (s : State) : State :=
  { s with sin := { s.sin with line := rest, released := some f.last } }

/-- A head released leaves the line, becomes the frame most recently released, and is handed to WIN (R18, R19). -/
theorem releaseHead_cons {rest : List LineFrame} (h : s.sin.line = f :: rest) :
    s.releaseHead = (s.dropLine f rest).deliver f := by
  unfold State.releaseHead
  rw [h]
  rfl

/-- Nothing leaves an empty line. -/
theorem releaseHead_nil (h : s.sin.line = []) : s.releaseHead = s := by
  unfold State.releaseHead
  rw [h]

/-- The release of the head leaves whatever measuring, the change of a channel and the line's own change leave. -/
theorem releaseHead_keeps {β : Type} (p : State → β) (hm : ∀ b t, Measured b t → p t = p b)
    (hc : ∀ (t : State) c u, p (t.onChannel c u) = p t) (hd : ∀ (t : State) f l, p (t.dropLine f l) = p t) (s : State) :
    p s.releaseHead = p s := by
  cases h : s.sin.line with
  | nil => rw [releaseHead_nil h]
  | cons f rest => rw [releaseHead_cons h, deliver_keeps p hm hc, hd]

/-- The release of a number of heads leaves the same. -/
theorem releaseHeads_keeps {β : Type} (p : State → β) (hm : ∀ b t, Measured b t → p t = p b)
    (hc : ∀ (t : State) c u, p (t.onChannel c u) = p t) (hd : ∀ (t : State) f l, p (t.dropLine f l) = p t) (n : Nat)
    (s : State) : p (s.releaseHeads n) = p s := by
  induction n generalizing s with
  | zero => rfl
  | succ n ih => exact (ih s.releaseHead).trans (releaseHead_keeps p hm hc hd s)

@[simp] theorem tables_releaseHeads (n : Nat) (s : State) : (s.releaseHeads n).tables = s.tables :=
  releaseHeads_keeps State.tables (fun _ _ h => h.tables) (fun _ _ _ => rfl) (fun _ _ _ => rfl) n s

@[simp] theorem axt_releaseHeads (n : Nat) (s : State) : (s.releaseHeads n).axt = s.axt :=
  releaseHeads_keeps State.axt (fun _ _ h => h.axt) (fun _ _ _ => rfl) (fun _ _ _ => rfl) n s

@[simp] theorem lif_releaseHeads (n : Nat) (s : State) : (s.releaseHeads n).lif = s.lif :=
  releaseHeads_keeps State.lif (fun _ _ h => h.lif) (fun _ _ _ => rfl) (fun _ _ _ => rfl) n s

/-- Which frames are due does not change as heads are released (R18). -/
theorem frameDue_releaseHeads (n : Nat) (s : State) : (s.releaseHeads n).frameDue = s.frameDue :=
  releaseHeads_keeps State.frameDue (fun b t h => by unfold State.frameDue State.holdDelay; rw [h.now, h.tables])
    (fun _ _ _ => rfl) (fun _ _ _ => rfl) n s

/-- Which frames are due does not change as a frame is handed to WIN (R18). -/
theorem frameDue_deliver (f : LineFrame) (s : State) : (s.deliver f).frameDue = s.frameDue :=
  deliver_keeps State.frameDue (fun b t h => by unfold State.frameDue State.holdDelay; rw [h.now, h.tables])
    (fun _ _ _ => rfl) f s

/-- A number of heads leaves the line (R19). -/
theorem line_releaseHeads (n : Nat) (s : State) : (s.releaseHeads n).sin.line = s.sin.line.drop n := by
  induction n generalizing s with
  | zero => rfl
  | succ n ih => exact (ih s.releaseHead).trans (by rw [line_releaseHead, List.drop_tail])

/-- The last of the heads released is the frame most recently released (R18). -/
theorem released_releaseHeads (n : Nat) (s : State) :
    (s.releaseHeads n).sin.released = ((s.sin.line.take n).getLast?.map LineFrame.last).or s.sin.released := by
  induction n generalizing s with
  | zero => rfl
  | succ n ih =>
    refine (ih s.releaseHead).trans ?_
    cases h : s.sin.line with
    | nil => rw [releaseHead_nil h, h, List.take_nil, List.take_nil]
    | cons f rest =>
      have hrel : s.releaseHead.sin.released = some f.last := by rw [releaseHead_cons h, released_deliver]; rfl
      rw [line_releaseHead, h, hrel, List.tail_cons, List.take_succ_cons, List.getLast?_cons]
      cases (rest.take n).getLast? <;> rfl

/-! ### The due frames leave the line (R18, R19) -/

/-- The frames at the head of a line that are due (R18). -/
def State.dueHeads (s : State) (l : List LineFrame) : List LineFrame := l.takeWhile fun f => s.frameDue f.last

/-- Releasing while the head is due, with fuel for every frame, releases the due heads (R19). -/
theorem releaseDueHeads_eq (h : s.sin.line.length ≤ n) :
    s.releaseDueHeads n = s.releaseHeads (s.dueHeads s.sin.line).length := by
  induction n generalizing s with
  | zero =>
    rw [List.eq_nil_of_length_eq_zero (Nat.le_zero.mp h)]
    rfl
  | succ n ih =>
    unfold State.releaseDueHeads
    cases hl : s.sin.line with
    | nil => rfl
    | cons f rest =>
      dsimp only
      have hrest : s.releaseHead.sin.line = rest := by rw [line_releaseHead, hl]; rfl
      have hdue : s.releaseHead.frameDue = s.frameDue := frameDue_releaseHeads 1 s
      by_cases hf : s.frameDue f.last = true
      · rw [if_pos hf, ih (by rw [hrest]; rw [hl] at h; exact Nat.le_of_succ_le_succ h)]
        unfold State.dueHeads
        rw [hdue, hrest, List.takeWhile_cons_of_pos (p := fun f : LineFrame => s.frameDue f.last) hf]
        rfl
      · unfold State.dueHeads
        rw [if_neg hf, List.takeWhile_cons_of_neg (p := fun f : LineFrame => s.frameDue f.last) hf]
        rfl

/-- The release of the due frames is the release of the heads that are due (R19). -/
theorem releaseDue_eq (s : State) : s.releaseDue = s.releaseHeads (s.dueHeads s.sin.line).length :=
  releaseDueHeads_eq (Nat.le_refl _)

/-- The due heads leave the line (R19). -/
theorem line_releaseDue (s : State) : s.releaseDue.sin.line = s.sin.line.dropWhile fun f => s.frameDue f.last := by
  rw [releaseDue_eq, line_releaseHeads]
  exact (congrArg (List.drop _) List.takeWhile_append_dropWhile.symm).trans List.drop_left

/-- The last of the due heads is the frame most recently released (R18). -/
theorem released_releaseDue (s : State) :
    s.releaseDue.sin.released = ((s.dueHeads s.sin.line).getLast?.map LineFrame.last).or s.sin.released := by
  rw [releaseDue_eq, released_releaseHeads]
  congr 3
  exact (congrArg (List.take _) List.takeWhile_append_dropWhile.symm).trans List.take_left

/-- DELAY_LINE_RELEASE (R18, R19). -/
theorem exec_delayLineRelease_due (hp : s.powered = true) : ∃ t, exec (.delayLineRelease dt) s = .next t
    ∧ t = (s.elapse dt).releaseHeads ((s.elapse dt).dueHeads s.sin.line).length
    ∧ t.sin.line = s.sin.line.dropWhile (fun f => (s.elapse dt).frameDue f.last)
    ∧ t.sin.released = (((s.elapse dt).dueHeads s.sin.line).getLast?.map LineFrame.last).or s.sin.released
    ∧ t.tables = s.tables ∧ t.axt = s.axt ∧ t.lif = (s.elapse dt).lif := by
  refine ⟨_, (exec_delayLineRelease s dt).trans (timed_powered s dt _ hp), releaseDue_eq _, line_releaseDue _,
    released_releaseDue _, ?_, ?_, ?_⟩
  · rw [releaseDue_eq, tables_releaseHeads]; rfl
  · rw [releaseDue_eq, axt_releaseHeads]; rfl
  · rw [releaseDue_eq, lif_releaseHeads]

/-! ### The place of an arriving frame (R18) -/

/-- A frame is placed behind the frames before its place (R18). -/
theorem placeFrame_eq (g : LineFrame) (l : List LineFrame) :
    placeFrame g l = l.take (placeOf g l) ++ g :: l.drop (placeOf g l) := by
  induction l with
  | nil => rfl
  | cons x l ih =>
    unfold placeFrame placeOf
    split
    · rfl
    · rw [ih]; rfl

/-- The frame is earlier than none before its place: it stands behind those of equal time (R18). -/
theorem not_earlier_of_mem_take (g : LineFrame) (l : List LineFrame) :
    ∀ x ∈ l.take (placeOf g l), earlier g.last x.last = false := by
  induction l with
  | nil => exact nofun
  | cons y l ih =>
    unfold placeOf
    split
    · exact nofun
    · next hy =>
      intro x hx
      rw [List.take_succ_cons, List.mem_cons] at hx
      obtain rfl | hx := hx
      · exact Bool.eq_false_iff.mpr hy
      · exact ih x hx

/-- The frame is earlier than the one at its place (R18). -/
theorem earlier_at_placeOf (g : LineFrame) (l : List LineFrame) :
    ∀ x, l[placeOf g l]? = some x → earlier g.last x.last = true := by
  induction l with
  | nil => exact nofun
  | cons y l ih =>
    unfold placeOf
    split
    · next hy =>
      intro x hx
      obtain rfl := Option.some.inj hx
      exact hy
    · exact ih

/-! ### An arriving frame (R18, R20) -/

/-- A frame is late where it is earlier than the one most recently released (R18). -/
theorem frameLate_eq_false_iff {t : LoopTime} :
    v.frameLate t = false ↔ ∀ r, v.sin.released = some r → earlier t r = false := Option.any_eq_false _ _

/-- A frame judged against the one most recently released (R18). -/
theorem frameLate_of_released {t r : LoopTime} (h : v.sin.released = some r) : v.frameLate t = earlier t r := by
  simp [State.frameLate, h]

/-- A late frame is dropped (R18). -/
theorem offerFrame_late (h : v.frameLate g.last = true) : v.offerFrame g = v.dropLate := if_pos h

/-- A frame due on arrival passes at its place (R18). -/
theorem offerFrame_due (h : v.frameLate g.last = false) (hd : v.frameDue g.last = true) :
    v.offerFrame g = v.passFrame g := by
  unfold State.offerFrame
  rw [h, hd]
  rfl

/-- A frame that is not due is placed where the line has room (R18). -/
theorem offerFrame_room (h : v.frameLate g.last = false) (hd : v.frameDue g.last = false)
    (hl : v.sin.line.length < 256) : v.offerFrame g = v.putFrame g := by
  unfold State.offerFrame
  rw [h, hd]
  exact if_pos hl

/-- To a full line the head is released early, and the frame is judged anew (R20). -/
theorem offerFrame_full (h : v.frameLate g.last = false) (hd : v.frameDue g.last = false)
    (hl : 256 ≤ v.sin.line.length) :
    v.offerFrame g = if v.releaseEarly.frameLate g.last then v.releaseEarly.dropLate else v.releaseEarly.putFrame g := by
  unfold State.offerFrame
  rw [h, hd]
  exact if_neg (Nat.not_lt.mpr hl)

/-- The part as its head has left a full line, counted in SIN and in a current passage, before the frame is handed on (R20). -/
def State.dropEarly (x : LineFrame) (rest : List LineFrame) (s : State) : State :=
  { s with
    sin := { s.sin with
      line := rest, released := some x.last
      counters := { s.sin.counters with early := min 65535 (s.sin.counters.early + 1) } }
    passage := if s.scu.site = .passage ∨ s.scu.site = .closing then s.passage.map fun p =>
        { p with counters := { p.counters with early := min 65535 (p.counters.early + 1) } }
      else s.passage }

/-- A passage is current in PASSAGE and in CLOSING (R142). -/
theorem inPassage_iff (s : State) : s.inPassage = true ↔ s.scu.site = .passage ∨ s.scu.site = .closing := by
  simp [State.inPassage]

/-- The early release of the head of a full line (R20). -/
theorem releaseEarly_cons {x : LineFrame} {rest : List LineFrame} (h : v.sin.line = x :: rest) :
    v.releaseEarly = (v.dropEarly x rest).deliver x := by
  unfold State.releaseEarly State.dropEarly
  simp only [← bump_eq_min, inPassage_iff, State.onSinCounters, scu_onSin]
  by_cases hp : v.scu.site = .passage ∨ v.scu.site = .closing
  · rw [if_pos hp, if_pos hp]
    exact releaseHead_cons h
  · rw [if_neg hp, if_neg hp]
    exact releaseHead_cons h

/-! ### FRAME_RECEIVED of an accepted SMP frame (R10, R11) -/

/-- A frame that is later than its node's order record is in order, with a gap mark where more than 1.5 frame lengths lie between (R11). -/
theorem orderCheck_accepts {o : Option OrderRecord} {first : LoopTime} (h : ∀ r, o = some r → 0 < timeDiff first r.first) :
    ∃ gap, orderCheck o first = some gap
      ∧ (gap = true ↔ ∃ r, o = some r ∧ (divRoundNat (3 * r.length) 2 : Int) < timeDiff first r.first) := by
  cases o with
  | none => exact ⟨false, rfl, by simp⟩
  | some r =>
    refine ⟨_, if_neg (Int.not_le.mpr (h r rfl)), ?_⟩
    rw [decide_eq_true_iff]
    exact ⟨fun hr => ⟨r, rfl, hr⟩, fun ⟨_, hr, hlt⟩ => Option.some.inj hr ▸ hlt⟩

/-- A node's order record as an accepted frame leaves it (R11). -/
def State.noteSample (node : Nat) (r : OrderRecord) (s : State) : State :=
  { s with sin := { s.sin with nodes := s.sin.nodes.modify (node - 1) fun n => { n with order := some r } } }

/-- The frame that an SMP payload brings to the delay line (R10, R11). -/
def State.lineFrame (s : State) (node : Nat) (e : NodeEntry) (payload : List Byte) (gap : Bool) : LineFrame where
  node := node
  last := later (timeAt payload 4) ((byteAt payload 1 - 1) * samplePeriod e.kind)
  gap := gap
  samples := s.frameSamples node e.channelCount (byteAt payload 1) (samplePeriod e.kind) payload

/-- An SMP frame in order notes its node's order record and is offered to the line (R10, R11). -/
theorem acceptSmp_in_order {node : Nat} {e : NodeEntry} {payload : List Byte} {gap : Bool}
    (h : orderCheck (s.node node).order (timeAt payload 4) = some gap) :
    s.acceptSmp node e (byteAt payload 1) payload
      = (s.noteSample node ⟨timeAt payload 4, byteAt payload 1 * samplePeriod e.kind⟩).offerFrame
          (s.lineFrame node e payload gap) := by
  unfold State.acceptSmp
  dsimp only
  rw [h]
  rfl

/-- `v` shows the delay line, its record, SIN's counters and the site state of `s`, after `dt` µs of loop time. -/
structure SameLine (s v : State) (dt : Nat) : Prop where
  now : v.now = later s.now dt
  tables : v.tables = s.tables
  site : v.scu.site = s.scu.site
  line : v.sin.line = s.sin.line
  released : v.sin.released = s.sin.released
  counters : v.sin.counters = s.sin.counters

/-- An accepted SMP frame meets the delay line as it stood (R10). -/
theorem sameLine_noteSample (s : State) (dt : Nat) (f : Frame) (node : Nat) (r : OrderRecord) :
    SameLine s ((s.heard dt f).noteSample node r) dt where
  now := now_heard s dt f
  tables := tables_heard s dt f
  site := site_heard s dt f
  line := (congrArg Sin.line (sin_heard s dt f) :)
  released := (congrArg Sin.released (sin_heard s dt f) :)
  counters := counters_heard s dt f

/-- A frame is due by the loop time and the delay as the row found it (R18). -/
theorem SameLine.frameDue_eq (h : SameLine s v dt) (t : LoopTime) :
    v.frameDue t = reached (later s.now dt) (later t s.holdDelay) := by
  unfold State.frameDue State.holdDelay
  rw [h.now, h.tables]

/-- A late frame is dropped and counted (R18, R22). -/
theorem SameLine.late (h : SameLine s v dt) {r : LoopTime} (hr : s.sin.released = some r) (hl : earlier g.last r = true) :
    v.offerFrame g = { v with sin := { v.sin with
      counters := { s.sin.counters with late := min 65535 (s.sin.counters.late + 1) } } } := by
  rw [offerFrame_late ((frameLate_of_released (h.released.trans hr)).trans hl), ← bump_eq_min, ← h.counters]
  rfl

/-- A frame that is not late by the record as the row found it (R18). -/
theorem SameLine.not_late (h : SameLine s v dt) (hr : ∀ r, s.sin.released = some r → earlier g.last r = false) :
    v.frameLate g.last = false := frameLate_eq_false_iff.mpr (h.released ▸ hr)

/-- A frame due on arrival leaves at its place, with all that are due (R18, R19). -/
theorem SameLine.due (h : SameLine s v dt) (hr : ∀ r, s.sin.released = some r → earlier g.last r = false)
    (hd : reached (later s.now dt) (later g.last s.holdDelay) = true) :
    (v.offerFrame g).sin.released.isSome = true
      ∧ (v.offerFrame g).sin.line = (s.sin.line.drop (placeOf g s.sin.line)).dropWhile
          (fun x => reached (later s.now dt) (later x.last s.holdDelay))
      ∧ ∃ u : State, v.offerFrame g = u.releaseDue ∧ u = State.deliver g { v.releaseHeads (placeOf g s.sin.line) with
          sin := { (v.releaseHeads (placeOf g s.sin.line)).sin with released := some g.last } } := by
  have hpass : v.offerFrame g = (State.deliver g { v.releaseHeads (placeOf g s.sin.line) with
      sin := { (v.releaseHeads (placeOf g s.sin.line)).sin with released := some g.last } }).releaseDue := by
    rw [offerFrame_due (h.not_late hr) ((h.frameDue_eq _).trans hd), ← h.line]
    rfl
  refine ⟨?_, ?_, _, hpass, rfl⟩
  · rw [hpass, released_releaseDue, released_deliver, Option.isSome_or]
    exact Bool.or_true _
  · rw [hpass, line_releaseDue, frameDue_deliver, line_deliver]
    simp only [← h.frameDue_eq, ← h.line, ← frameDue_releaseHeads (placeOf g v.sin.line) v, ← line_releaseHeads]
    rfl

/-- A frame that is neither late nor due is placed where the line has room (R18). -/
theorem SameLine.room (h : SameLine s v dt) (hr : ∀ r, s.sin.released = some r → earlier g.last r = false)
    (hd : reached (later s.now dt) (later g.last s.holdDelay) = false) (hl : s.sin.line.length < 256) :
    v.offerFrame g = { v with sin := { v.sin with line := placeFrame g s.sin.line } } := by
  rw [offerFrame_room (h.not_late hr) ((h.frameDue_eq _).trans hd) (h.line ▸ hl), ← h.line]
  rfl

/-- To a full line the head is released early, and the frame is placed, or dropped where it is late against that head (R20). -/
theorem SameLine.full (h : SameLine s v dt) (hr : ∀ r, s.sin.released = some r → earlier g.last r = false)
    (hd : reached (later s.now dt) (later g.last s.holdDelay) = false) {x : LineFrame} {rest : List LineFrame}
    (hx : s.sin.line = x :: rest) (hl : 256 ≤ s.sin.line.length) :
    ∃ u : State, u = State.deliver x { v with
        sin := { v.sin with
          line := rest, released := some x.last
          counters := { s.sin.counters with early := min 65535 (s.sin.counters.early + 1) } }
        passage := if s.scu.site = .passage ∨ s.scu.site = .closing then v.passage.map fun p =>
            { p with counters := { p.counters with early := min 65535 (p.counters.early + 1) } }
          else v.passage }
      ∧ (earlier g.last x.last = false → v.offerFrame g = { u with sin := { u.sin with line := placeFrame g rest } })
      ∧ (earlier g.last x.last = true → v.offerFrame g
          = { u with sin := { u.sin with
              counters := { u.sin.counters with late := min 65535 (s.sin.counters.late + 1) } } }) := by
  have hfull := offerFrame_full (h.not_late hr) ((h.frameDue_eq _).trans hd) (h.line ▸ hl)
  rw [releaseEarly_cons (h.line.trans hx), frameLate_of_released (released_deliver x (v.dropEarly x rest))] at hfull
  have hlate : ((v.dropEarly x rest).deliver x).sin.counters.late = s.sin.counters.late := by
    rw [counters_deliver, ← h.counters]
    rfl
  refine ⟨(v.dropEarly x rest).deliver x, ?_, fun he => ?_, fun he => ?_⟩
  · rw [← h.site, ← h.counters]
    rfl
  · rw [hfull, if_neg (Bool.eq_false_iff.mp he)]
    have hrest : ((v.dropEarly x rest).deliver x).sin.line = rest := line_deliver x
    unfold State.putFrame State.onSin
    dsimp only
    rw [hrest]
  · rw [hfull, if_pos he, ← hlate, ← bump_eq_min]
    rfl

/-- FRAME_RECEIVED of an accepted SMP frame is its offer to the delay line, with its node's order record noted (R10, R11). -/
theorem exec_smp_accepted {bytes : List Byte} {f : Frame} {node : Nat} {e : NodeEntry} {gap : Bool} (h : s.Hears bytes f)
    (hf : s.Samples f node e) (hg : orderCheck (s.node node).order (timeAt f.payload 4) = some gap) :
    exec (.frameReceived dt s.lif.rate bytes) s = .next
      (((s.heard dt f).noteSample node ⟨timeAt f.payload 4, byteAt f.payload 1 * samplePeriod e.kind⟩).offerFrame
        ((s.heard dt f).lineFrame node e f.payload gap)) := by
  rw [exec_smp dt h hf.kind, takeSmp_samples hf (tables_heard s dt f) (site_heard s dt f), acceptSmp_in_order]
  rw [node_heard, order_node_elapse]
  exact hg

/-- A sample reaches WIN in PASSAGE, its pacing instants before its attribution (R55). -/
theorem winSample_passage (h : s.scu.site = .passage) (l : List LineSample) (y : LineSample) :
    s.winSample l y = (s.pace (channelsAt l y.time) y.channel y.time).attributeSample y := if_pos h

/-- Outside PASSAGE a sample changes nothing in WIN (R55). -/
theorem winSample_elsewhere (h : s.scu.site ≠ .passage) (l : List LineSample) (y : LineSample) : s.winSample l y = s :=
  if_neg h

/-- Settles O44: the line's release, the frames handed on, the offer of an accepted frame, and its place. -/
theorem dueFramesAreReleased : Obligations.DueFramesAreReleased := by
  refine ⟨fun _ _ hp => exec_delayLineRelease_due hp, fun s n f rest hl => ?_,
    fun _ f y => ⟨rfl, fun hs => winSample_passage hs _ y, fun hs => winSample_elsewhere hs _ y⟩,
    fun s dt node bytes f e h hf ho => ?_,
    fun g l => ⟨placeFrame_eq g l, not_earlier_of_mem_take g l, earlier_at_placeOf g l⟩⟩
  · exact congrArg (State.releaseHeads n) (releaseHead_cons hl)
  · obtain ⟨gap, hgap, hiff⟩ := orderCheck_accepts ho
    have hexec := exec_smp_accepted (dt := dt) h hf hgap
    have hsame := sameLine_noteSample s dt f node ⟨timeAt f.payload 4, byteAt f.payload 1 * samplePeriod e.kind⟩
    refine ⟨(s.heard dt f).lineFrame node e f.payload gap, _, rfl, rfl, hiff, rfl, rfl,
      fun r hr hl => hexec.trans (congrArg _ (hsame.late hr hl)), fun hr => ⟨fun hd => ⟨_, hexec, hsame.due hr hd⟩,
        fun hd => ⟨fun hl => hexec.trans (congrArg _ (hsame.room hr hd hl)), fun x rest hx hl => ?_⟩⟩⟩
    obtain ⟨u, hu, hput, hdrop⟩ := hsame.full hr hd hx hl
    exact ⟨u, hu, fun he => hexec.trans (congrArg _ (hput he)), fun he => hexec.trans (congrArg _ (hdrop he))⟩

end Sys2Proof.Machine
end

section
/-! PROOFS. O26: the phases and the end of a channel check, and what its verdicts do to a channel. -/

namespace Sys2Proof.Machine

variable {s : State} {dt n : Nat} {x : ChannelState}

/-! ### Leaving a check (R178 to R181) -/

/-- SCU as the entry into ARMED leaves it (R169). -/
theorem scu_enterArmed (s : State) : s.enterArmed.scu = (s.changeSite .armed).scu := by
  unfold State.enterArmed
  simp

/-- The interval timer a check leaves running: the committed interval, or none where it is 0 (R181). -/
theorem interval_startInterval (s : State) :
    s.startInterval.scu.interval = if s.checkInterval = 0 then none else some s.checkInterval := rfl

/-- The entry into ARMED leaves the interval timer (R181). -/
theorem interval_enterArmed (s : State) : s.enterArmed.scu.interval = s.scu.interval := by
  rw [scu_enterArmed]
  rfl

/-- A check aborted into ARMED (R178, R180). -/
theorem abortCheck_enterArmed (s : State) (r : AbortReason) :
    (s.abortCheck r).enterArmed.scu.site = .armed ∧ (s.abortCheck r).enterArmed.scu.check = .aborted r
      ∧ (s.abortCheck r).enterArmed.raised .checkEnded ∧ (s.abortCheck r).enterArmed.raised .stateChanged
      ∧ (s.abortCheck r).enterArmed.scu.interval = (if s.checkInterval = 0 then none else some s.checkInterval) :=
  ⟨site_enterArmed _, check_enterArmed _, raised_enterArmed (raised_abortCheck_self r s), raised_enterArmed_self _,
    interval_enterArmed _⟩

/-! ### The timers of a check (R178, R179) -/

/-- POWER_SETTLE_END (R178). -/
theorem exec_powerSettleEnd_due (hp : s.powered = true) (ht : s.scu.powerTimer = some n) (hn : n ≤ dt) :
    exec (.powerSettleEnd dt) s
      = .next { s.elapse dt with scu := { (s.elapse dt).scu with powerTimer := none, powerMark := true } } :=
  (exec_powerSettleEnd s dt).trans
    (timed_when s hp dt (b := fun t => expired t.scu.powerTimer) (expired_tick ht hn))

/-- SETTLE_WAIT_END acts once the settle wait and the power settle have ended (R178). -/
theorem exec_settleWaitEnd_due (hp : s.powered = true) (hc : s.scu.check = .run .settle) (ht : s.scu.settle = some n)
    (hn : n ≤ dt) (hm : s.scu.powerMark = true) : exec (.settleWaitEnd dt) s = .next (s.elapse dt).endSettle := by
  refine (exec_settleWaitEnd s dt).trans (timed_when s hp dt
    (b := fun t => t.scu.check == .run .settle && expired t.scu.settle && t.scu.powerMark) ?_)
  have hexp : expired (tickScu dt s.scu).settle = true := expired_tick ht hn
  simp only [scu_elapse, hexp]
  simp [tickScu, hc, hm]

/-- A settle wait that ends with the approach RELEASED and the loop LOCKED gives way to CAPTURE with its times (R178, R179). -/
theorem endSettle_capture (ha : s.pins.approach = false) (hl : s.lif.locked = true) :
    s.endSettle = { s with scu := { s.scu with
      check := .run .capture, settle := none, sampleStart := s.now, phaseTimer := some 2000000
      endTimer := some (3000000 + s.holdDelay + 8000) } } := by
  unfold State.endSettle
  rw [ha, hl]
  rfl

/-- A settle wait that ends with the approach ASSERTED or the loop lost aborts the check, the approach first (R178, R180). -/
theorem endSettle_abort (h : s.pins.approach = true ∨ s.lif.locked = false) :
    s.endSettle = (s.abortCheck (if s.pins.approach then .approach else .loop)).enterArmed := by
  unfold State.endSettle
  cases ha : s.pins.approach with
  | true => rfl
  | false =>
    rw [h.resolve_left (by rw [ha]; exact Bool.false_ne_true)]
    rfl

/-- CHECK_REFERENCE_PHASE (R179). -/
theorem exec_checkReferencePhase_due (hp : s.powered = true) (hn : n ≤ dt) (hc : s.scu.check = .run .capture)
    (ht : s.scu.phaseTimer = some n) : exec (.checkReferencePhase dt) s
      = .next { s.elapse dt with scu := { (s.elapse dt).scu with check := .run .reference, phaseTimer := none } } := by
  refine (exec_checkReferencePhase s dt).trans (timed_when s hp dt
    (b := fun t => t.scu.check == .run .capture && expired t.scu.phaseTimer) ?_)
  have hexp : expired (tickScu dt s.scu).phaseTimer = true := expired_tick ht hn
  simp only [scu_elapse, hexp]
  simp [tickScu, hc]

/-- CHECK_END acts in phase REFERENCE once the end timer has run out (R179). -/
theorem exec_checkEnd_due (hp : s.powered = true) (hn : n ≤ dt) (hc : s.scu.check = .run .reference)
    (ht : s.scu.endTimer = some n) : exec (.checkEnd dt) s = .next (s.elapse dt).endCheck := by
  refine (exec_checkEnd s dt).trans (timed_when s hp dt
    (b := fun t => t.scu.check == .run .reference && expired t.scu.endTimer) ?_)
  have hexp : expired (tickScu dt s.scu).endTimer = true := expired_tick ht hn
  simp only [scu_elapse, hexp]
  simp [tickScu, hc]

/-! ### The end of a check (R179) -/

/-- A channel as a check leaves it: judged, its pending capture and gathering discarded (R14, R131, R179). -/
def State.judgedChannel (s : State) (c : Nat) (x : ChannelState) : ChannelState :=
  { s.endChannel c x with capture := none, gather := none }

/-- Every channel is judged and its pending samples discarded (R179). -/
theorem channels_endChannels (s : State) :
    s.endChannels.sin.channels = s.sin.channels.zipIdx.map fun y => s.judgedChannel y.2 y.1 := by
  unfold State.endChannels
  rw [sin_equipmentSince]
  exact List.map_map

/-- The judging of the channels leaves the tables. -/
theorem tables_endChannels (s : State) : s.endChannels.tables = s.tables := tables_equipmentSince _ _

/-- The judging of the channels leaves the commit. -/
theorem commit_endChannels (s : State) : s.endChannels.commit = s.commit := commit_equipmentSince _ _

/-- The judging of the channels leaves Site Control. -/
theorem scu_endChannels (s : State) : s.endChannels.scu = s.scu := scu_equipmentSince _ _

/-- The check interval rests on the commit alone (R181). -/
theorem checkInterval_congr {s t : State} (h : t.commit = s.commit) : t.checkInterval = s.checkInterval := by
  unfold State.checkInterval State.inUse
  rw [h]

/-- The end of a check: ARMED, with every channel judged and the interval timer started (R179, R181). -/
theorem endCheck_ends (s : State) : s.endCheck.scu.site = .armed ∧ s.endCheck.scu.check = .ended
    ∧ s.endCheck.scu.checkTime = some s.now ∧ s.endCheck.raised .checkEnded ∧ s.endCheck.raised .stateChanged
    ∧ s.endCheck.scu.interval = (if s.checkInterval = 0 then none else some s.checkInterval)
    ∧ s.endCheck.sin.channels = (s.sin.channels.zipIdx.map fun y => s.judgedChannel y.2 y.1)
    ∧ s.endCheck.tables = s.tables ∧ s.endCheck.commit = s.commit := by
  unfold State.endCheck
  refine ⟨site_enterArmed _, check_enterArmed _, ?_, raised_enterArmed ?_, raised_enterArmed_self _, ?_, ?_, ?_, ?_⟩
  · rw [scu_enterArmed]; rfl
  · exact raised_congr (rps_startInterval _) (raised_raise_self _ _)
  · rw [interval_enterArmed, interval_startInterval, checkInterval_congr (s := s)]
    rw [commit_raise, commit_onScu, commit_endChannels]
  · rw [sin_enterArmed, sin_startInterval, sin_raise, sin_onScu, channels_endChannels]
  · rw [tables_enterArmed, tables_startInterval, tables_raise, tables_onScu, tables_endChannels]
  · rw [commit_enterArmed, commit_startInterval, commit_raise, commit_onScu, commit_endChannels]

/-! ### Verdicts (R9) -/

/-- A first failure makes a channel SUSPECT, with its failure run at 1 (R9). -/
theorem applyVerdict_fail_first (h : x.health = .ok ∨ x.health = .notReady) :
    applyVerdict .fail x = { x with health := .suspect, run := 1 } := by
  unfold applyVerdict
  obtain h | h := h <;> rw [h]

/-- A further failure makes a channel FAULTY, with its failure run at 2 (R9). -/
theorem applyVerdict_fail_again (h : x.health = .suspect ∨ x.health = .faulty) :
    applyVerdict .fail x = { x with health := .faulty, run := 2 } := by
  unfold applyVerdict
  obtain h | h := h <;> rw [h]

/-- An undecided verdict makes a channel that is not FAULTY SUSPECT (R9). -/
theorem applyVerdict_undecided (h : x.health ≠ .faulty) : applyVerdict .undecided x = { x with health := .suspect } := by
  unfold applyVerdict
  cases hx : x.health with
  | faulty => exact absurd hx h
  | _ => rfl

/-- An undecided verdict leaves a FAULTY channel (R9). -/
theorem applyVerdict_undecided_faulty (h : x.health = .faulty) : applyVerdict .undecided x = x := by
  unfold applyVerdict
  rw [h]

/-- An undecided verdict leaves the failure run (R9). -/
theorem run_applyVerdict_undecided (x : ChannelState) : (applyVerdict .undecided x).run = x.run := by
  by_cases h : x.health = .faulty
  · rw [applyVerdict_undecided_faulty h]
  · rw [applyVerdict_undecided h]

/-- A verdict acts on health and failure run alone (R9). -/
theorem applyVerdict_frame (v : Verdict) (x : ChannelState) :
    (applyVerdict v x).baseline = x.baseline ∧ (applyVerdict v x).fresh = x.fresh := by
  unfold applyVerdict
  cases v with
  | pass => exact ⟨rfl, rfl⟩
  | fail => dsimp only; split <;> exact ⟨rfl, rfl⟩
  | undecided => dsimp only; split <;> exact ⟨rfl, rfl⟩

/-! ### One channel at the end of a check (R14, R131) -/

variable {c : Nat} {e : ChannelEntry}

/-- A channel that is not in use or ABSENT gets no verdict (R14, R131). -/
theorem endChannel_unjudged (h : channelEntry s.tables c = none ∨ s.effHealth c = some .absent) : s.endChannel c x = x := by
  unfold State.endChannel
  split
  · rfl
  · next he => exact if_pos (h.resolve_left (by rw [he]; exact nofun))

/-- A channel in use and not ABSENT is judged by its kind (R14, R131). -/
theorem endChannel_present (he : channelEntry s.tables c = some e) (ha : s.effHealth c ≠ some .absent) :
    s.endChannel c x =
      match e.kind with
      | .crib => installBaseline (siteParam s.tables.site 2) (siteParam s.tables.site 3) x
      | .scanner =>
        judgeReference (s.threshold 15) s.ambient
          (openWithin (s.brg.records.get e.rail) (later s.scu.sampleStart Config.capturePeriod) Config.referencePeriod) x
      | .ambient => x := by
  unfold State.endChannel
  rw [he]
  exact if_neg ha

/-- A crib channel without a capture stands (R14). -/
theorem installBaseline_none (zLim nLim : Nat) (h : x.capture = none) : installBaseline zLim nLim x = x := by
  unfold installBaseline
  rw [h]

/-- A crib channel with a capture gets the captured baseline and its verdict (R14). -/
theorem installBaseline_some (zLim nLim : Nat) {p : Capture} (h : x.capture = some p) :
    installBaseline zLim nLim x
      = applyVerdict (if (divRound (p.sum * 256) p.count).natAbs ≤ zLim * 256 ∧ p.high - p.low ≤ nLim then .pass else .fail)
          { x with baseline := some (divRound (p.sum * 256) p.count), fresh := true } := by
  unfold installBaseline
  rw [h]
  rfl

variable {rTol : Nat} {sawOpen : Bool} {g : Gather}

/-- A scanner channel without a gathering stands (R131). -/
theorem judgeReference_none (a : Option Int) (h : x.gather = none) : judgeReference rTol a sawOpen x = x := by
  unfold judgeReference
  rw [h]

/-- A scanner channel with a gathering gets its reference verdict (R131). -/
theorem judgeReference_some (a : Option Int) (h : x.gather = some g) :
    judgeReference rTol a sawOpen x = applyVerdict (referenceVerdict rTol a sawOpen g) x := by
  unfold judgeReference
  rw [h]

/-- A gathering under an open shutter decides nothing (R131). -/
theorem referenceVerdict_open (a : Int) : referenceVerdict rTol (some a) true g = .undecided := rfl

/-- A gathering under a closed shutter is held against the ambient value (R131). -/
theorem referenceVerdict_closed (a : Int) : referenceVerdict rTol (some a) false g
    = if (divRound g.sum g.count - a).natAbs ≤ rTol then .pass else .fail := rfl

/-- An ambient channel stands at the end of a check. -/
theorem endChannel_ambient (he : channelEntry s.tables c = some e) (ha : s.effHealth c ≠ some .absent)
    (hk : e.kind = .ambient) : s.endChannel c x = x := by
  rw [endChannel_present he ha, hk]

/-- A crib channel at the end of a check (R14). -/
theorem endChannel_crib (he : channelEntry s.tables c = some e) (ha : s.effHealth c ≠ some .absent) (hk : e.kind = .crib) :
    s.endChannel c x = installBaseline (siteParam s.tables.site 2) (siteParam s.tables.site 3) x := by
  rw [endChannel_present he ha, hk]

/-- A scanner channel at the end of a check (R131). -/
theorem endChannel_scanner (he : channelEntry s.tables c = some e) (ha : s.effHealth c ≠ some .absent)
    (hk : e.kind = .scanner) : s.endChannel c x = judgeReference (s.threshold 15) s.ambient
      (openWithin (s.brg.records.get e.rail) (later s.scu.sampleStart 2000000) 1000000) x := by
  rw [endChannel_present he ha, hk]
  rfl

/-- A scanner channel with a gathering at the end of a check (R131). -/
theorem endChannel_gathered (he : channelEntry s.tables c = some e) (ha : s.effHealth c ≠ some .absent)
    (hk : e.kind = .scanner) (hg : x.gather = some g) : s.endChannel c x = applyVerdict (referenceVerdict (s.threshold 15)
      s.ambient (openWithin (s.brg.records.get e.rail) (later s.scu.sampleStart 2000000) 1000000) g) x := by
  rw [endChannel_scanner he ha hk, judgeReference_some _ hg]

/-- Settles O26: each timer's row, the verdicts, and a channel by its kind and its samples. -/
theorem checkPhasesFollow : Obligations.CheckPhasesFollow := by
  refine ⟨fun _ _ _ => exec_powerSettleEnd_due, fun s dt n hp hc ht hn hm => ?_, fun s dt n hp hn => ?_, fun x => ?_,
    fun s c x => ⟨endChannel_unjudged, fun e he ha => ⟨endChannel_ambient he ha, fun hk => ?_, fun hk => ?_⟩⟩⟩
  · have hexec := exec_settleWaitEnd_due hp hc ht hn hm
    exact ⟨fun ha hl => hexec.trans (congrArg _ (endSettle_capture (s := s.elapse dt) ha hl)),
      fun h => ⟨_, hexec.trans (congrArg _ (endSettle_abort (s := s.elapse dt) h)), abortCheck_enterArmed _ _⟩⟩
  · exact ⟨exec_checkReferencePhase_due hp hn, fun hc ht => ⟨_, exec_checkEnd_due hp hn hc ht, endCheck_ends _⟩⟩
  · refine ⟨⟨rfl, rfl⟩, fun h => ?_, fun h => ?_, fun h => ?_, applyVerdict_undecided_faulty,
      run_applyVerdict_undecided x, fun v => applyVerdict_frame v x⟩
    · rw [applyVerdict_fail_first h, applyVerdict_undecided (by obtain h | h := h <;> rw [h] <;> exact nofun)]
      exact ⟨rfl, rfl, rfl⟩
    · rw [applyVerdict_fail_again h]
      exact ⟨rfl, rfl⟩
    · rw [applyVerdict_undecided (by rw [h]; exact nofun)]
  · rw [endChannel_crib he ha hk]
    exact ⟨installBaseline_none _ _, fun _ => installBaseline_some _ _⟩
  · refine ⟨fun hg => (endChannel_scanner he ha hk).trans (judgeReference_none _ hg), fun g hg => ?_⟩
    rw [endChannel_gathered he ha hk hg]
    refine ⟨fun hn => ?_, fun a hn => ⟨fun ho => ?_, fun ho => ?_⟩⟩
    · rw [hn]
      rfl
    · rw [hn, ho, referenceVerdict_open]
    · rw [hn, ho, referenceVerdict_closed]

end Sys2Proof.Machine
end

section
/-! PROOFS. O17: a WRITE_TABLE that its checks accept: what it writes, what it resets, and what it leaves alone. -/

namespace Sys2Proof.Machine

variable {s : State} {dt table first count c : Nat} {tag : Byte} {args rest bytes : List Byte} {r : EntryRange}
  {w : Written Tables} {t : Tables}

/-! ### The judging of a write (R193) -/

/-- A WRITE_TABLE whose table, state, entry numbers and entries are accepted writes them, clamped or not (R193). -/
theorem judgeWrite_accepted (ha : take4 args = some (table, rest)) (hr : entryRange table = some r)
    (hs : writable table s.scu.site = true) (hp : takePair take4 take4 rest = some ((first, count), bytes))
    (hf : entriesFit r first count = true) (hw : writeEntries s.tables table first count bytes = some w) :
    s.judgeWrite args = ⟨if w.clamped then .doneClamped else .done, table, first, count, some w.value⟩ := by
  unfold State.judgeWrite
  simp only [ha, hr, hs, if_true]
  unfold judgeEntries
  simp only [hp, hf, hw, if_true]

/-- A WRITE_TABLE that is accepted writes and answers (R193). -/
theorem writeTable_accepted {a : AnswerCode} (h : s.judgeWrite args = ⟨a, table, first, count, some t⟩) :
    writeTable tag args s = (s.write table first count t).answer 4 tag a [] := by
  unfold writeTable
  rw [h]
  rfl

/-! ### What a write leaves alone (R193) -/

/-- The further effects of a write leave whatever changes of nodes, channels and lines leave. -/
theorem afterWrite_keeps {β : Type} (p : State → β) (hn : ∀ (u : State) k g, p (u.onNode k g) = p u)
    (hc : ∀ (u : State) k g, p (u.onChannel k g) = p u) (hl : ∀ (u : State) l g, p (u.onLine l g) = p u)
    (table first count : Nat) (s : State) : p (s.afterWrite table first count) = p s := by
  unfold State.afterWrite
  dsimp only
  split
  · exact forEach_keeps p (fun k u => hn u k _) _ s
  · exact forEach_keeps p (fun k u => hc u k _) _ s
  · refine forEach_keeps p (fun k u => ?_) _ s
    unfold State.restartPhase
    split
    · exact hl _ _ _
    · rfl
  · rfl

/-- A write of a table other than nodes and channels leaves SIN (R193). -/
theorem sin_afterWrite (h3 : table ≠ 3) (h4 : table ≠ 4) (first count : Nat) (s : State) :
    (s.afterWrite table first count).sin = s.sin := by
  unfold State.afterWrite
  dsimp only
  split
  · exact absurd rfl h3
  · exact absurd rfl h4
  · refine forEach_keeps State.sin (fun k u => ?_) _ s
    unfold State.restartPhase
    split <;> rfl
  · rfl

/-- A write changes the tables, their marks, nodes, channels, the lines and the pending events alone (R193). -/
structure Writes (s v : State) (table : Nat) (t : Tables) : Prop where
  tables : v.tables = t
  invalid : v.invalid = s.invalid.set (table - 1) false
  lif : v.lif = s.lif
  scu : v.scu = s.scu
  passage : v.passage = s.passage
  brg : v.brg = s.brg
  axt : v.axt = s.axt
  commit : v.commit = s.commit
  store : v.store = s.store
  alarms : v.aou.alarms = s.aou.alarms
  slots : v.rps.slots = s.rps.slots
  ring : v.rps.ring = s.rps.ring

/-- A write leaves whatever the judging of equipment and lines and the changes of nodes, channels and lines leave, but for the tables put in place. -/
theorem write_keeps {β : Type} (p : State → β) (he : ∀ u b, p (State.equipmentSince b u) = p u)
    (hj : ∀ u : State, p u.judgeLines = p u) (s : State) (table first count : Nat) (t : Tables)
    (hn : ∀ (u : State) k g, p (u.onNode k g) = p u := by exact fun _ _ _ => rfl)
    (hc : ∀ (u : State) k g, p (u.onChannel k g) = p u := by exact fun _ _ _ => rfl)
    (hl : ∀ (u : State) l g, p (u.onLine l g) = p u := by exact fun _ _ _ => rfl) :
    p (s.write table first count t) = p (s.putTables table t) := by
  unfold State.write
  rw [he, hj, afterWrite_keeps p hn hc hl]

/-- The frame of a write (R193). -/
theorem writes_write (s : State) (table first count : Nat) (t : Tables) : Writes s (s.write table first count t) table t := by
  have hrps := write_keeps (fun u => u.rps.told) (fun u b => told_equipmentSince b u)
    (fun u => congrArg Rps.told (rps_judgeLines u)) s table first count t
  obtain ⟨hslots, hring, -, -⟩ := reports_of_told hrps
  exact {
    tables := write_keeps State.tables tables_equipmentSince tables_judgeLines _ _ _ _ _
    invalid := write_keeps State.invalid invalid_equipmentSince invalid_judgeLines _ _ _ _ _
    lif := write_keeps State.lif lif_equipmentSince lif_judgeLines _ _ _ _ _
    scu := write_keeps State.scu scu_equipmentSince scu_judgeLines _ _ _ _ _
    passage := write_keeps State.passage passage_equipmentSince passage_judgeLines _ _ _ _ _
    brg := write_keeps State.brg brg_equipmentSince brg_judgeLines _ _ _ _ _
    axt := write_keeps State.axt axt_equipmentSince axt_judgeLines _ _ _ _ _
    commit := write_keeps State.commit commit_equipmentSince commit_judgeLines _ _ _ _ _
    store := write_keeps State.store store_equipmentSince store_judgeLines _ _ _ _ _
    alarms := write_keeps (fun u => u.aou.alarms) alarms_equipmentSince alarms_judgeLines _ _ _ _ _
    slots := hslots
    ring := hring }

/-- A write of a table other than nodes and channels leaves SIN (R193). -/
theorem sin_write (h3 : table ≠ 3) (h4 : table ≠ 4) : (s.write table first count t).sin = s.sin := by
  unfold State.write
  rw [sin_equipmentSince, sin_judgeLines, sin_afterWrite h3 h4]
  rfl

/-! ### The channels a write resets (R8) -/

/-- A channel as the write of its entry resets it (R8). -/
def freshChannel (t : Tables) (c : Nat) : ChannelState := ChannelState.reset (initialHealth (channelEntry t c))

/-- Each channel whose entry is among those written is reset (R8). -/
theorem channel_resetChannels {l : List Nat} (hc : c < s.sin.channels.length)
    (h : c ∈ l ∨ s.channel c = freshChannel s.tables c) :
    (forEach l State.resetChannel s).channel c = freshChannel s.tables c := by
  unfold forEach
  induction l generalizing s with
  | nil => exact h.resolve_left nofun
  | cons k l ih =>
    refine ih (s := s.resetChannel k) (by simpa [State.resetChannel, State.onChannel] using hc) ?_
    by_cases hk : k = c
    · subst hk
      exact .inr (channel_onChannel_self hc _)
    · rw [List.mem_cons, or_assoc] at h
      refine (h.resolve_left fun e => hk e.symm).imp_right fun hs => ?_
      exact (channel_onChannel_of_ne hk _).trans hs

/-- A write of channel entries resets their channels (R8). -/
theorem channel_write (hc : c < s.sin.channels.length) (h1 : first ≤ c) (h2 : c < first + count) :
    (s.write 4 first count t).channel c = freshChannel t c := by
  have hch : (s.write 4 first count t).channel c
      = (forEach (List.range' first count) State.resetChannel (s.putTables 4 t)).channel c := by
    unfold State.write State.channel
    rw [sin_equipmentSince, sin_judgeLines]
    rfl
  rw [hch]
  exact channel_resetChannels (s := s.putTables 4 t) hc (.inl (List.mem_range'_1.mpr ⟨h1, h2⟩))

/-- Settles O17: the accepted write, its frame, and the channels it resets. -/
theorem writeTableWritesEntries : Obligations.WriteTableWritesEntries := by
  intro s dt tag args rest bytes table first count r w h ha hr hs hp hf hw
  have hj := judgeWrite_accepted (s := s.taken dt) ha hr hs hp hf hw
  have hv := writes_write (s.taken dt) table first count w.value
  refine ⟨(s.taken dt).write table first count w.value, command_answers s h dt (writeTable_accepted hj), hv.tables,
    hv.invalid, hv.lif, hv.scu, hv.passage, hv.brg, hv.axt, hv.commit, hv.store, hv.alarms, hv.slots, hv.ring,
    sin_write, ?_⟩
  rintro rfl c h1 h2 hc
  exact channel_write (s := s.taken dt) (by simpa [State.taken, tickSin] using hc) h1 h2

end Sys2Proof.Machine
end

section
/-! PROOFS. O20: START in OFFLINE: the commit and the entry into CHECKING, or the first failure of validation. -/

namespace Sys2Proof.Machine

variable {s : State} {dt n : Nat} {tag : Byte} {l : Line}

/-! ### The entry into CHECKING leaves (R169, R178) -/

/-- The entry into CHECKING leaves the nodes (R6). -/
theorem nodes_enterChecking (s : State) (n : Nat) : (s.enterChecking n).sin.nodes = s.sin.nodes := by
  unfold State.enterChecking
  rw [sin_judgeLines, sin_closeShutters]
  rfl

/-- The entry into CHECKING leaves a line's test level (R147). -/
theorem test_enterChecking (s : State) (n : Nat) (l : Line) :
    ((s.enterChecking n).aou.lines.get l).test = (s.aou.lines.get l).test := by
  unfold State.enterChecking
  rw [test_judgeLines, test_closeShutters]
  rfl

/-- The entry into CHECKING changes of RPS the raised events alone (R164). -/
theorem told_enterChecking (s : State) (n : Nat) : (s.enterChecking n).rps.told = s.rps.told := by
  unfold State.enterChecking
  rw [rps_judgeLines, told_closeShutters]
  rfl

/-! ### Leaving OFFLINE (R6, R11, R147, R198) -/

/-- The nodes as the site state leaves OFFLINE (R6, R11). -/
theorem nodes_leaveOffline (s : State) : s.leaveOffline.sin.nodes = (superviseNodes s.tables s.sin).nodes := by
  unfold State.leaveOffline
  rw [sin_onAou, sin_startSupervision]
  rfl

/-- LIF as the site state leaves OFFLINE (R198). -/
theorem lif_leaveOffline (s : State) : s.leaveOffline.lif
    = if s.supervised then { s.lif with supTimer := some s.supervisionLimit } else s.lif := by
  unfold State.leaveOffline State.startSupervision
  rw [lif_onAou]
  exact apply_ite State.lif _ _ _

/-- No line is under test as the site state leaves OFFLINE (R147). -/
theorem test_leaveOffline (s : State) (l : Line) : (s.leaveOffline.aou.lines.get l).test = false := by
  unfold State.leaveOffline
  rw [aou_onAou, PerLine.get_map]

/-- Every node is PRESENT with an empty order record as supervision begins (R6, R11). -/
theorem present_of_mem_superviseNodes {t : Tables} {x : Sin} : ∀ n ∈ (superviseNodes t x).nodes, n.silent = false ∧ n.order = none := by
  intro n hn
  obtain ⟨y, -, rfl⟩ := List.mem_map.mp hn
  exact ⟨rfl, rfl⟩

/-- Every used node runs on a fresh timer of 1 s as supervision begins (R6). -/
theorem timer_superviseNodes {t : Tables} {x : Sin} (h1 : 1 ≤ n) (hn : n ≤ x.nodes.length) :
    ((superviseNodes t x).nodes.getD (n - 1) NodeState.reset).timer
      = if (nodeEntry t n).isSome then some 1000000 else none := by
  have hlt : n - 1 < x.nodes.length := by omega
  have hadd : n - 1 + 1 = n := by omega
  simp only [superviseNodes, List.getD_eq_getElem?_getD, List.getElem?_map, List.getElem?_zipIdx,
    List.getElem?_eq_getElem hlt, Option.map_some, Option.getD_some, nodeUsed, Nat.zero_add, hadd]
  rfl

/-! ### The committed start (R24, R170, R178) -/

/-- The part with its working tables committed, as START leaves OFFLINE with it (R24, R170). -/
def State.committed (s : State) : State := (s.onScu fun u => { u with validation := .passed }).commitTables

/-- A start is the commit, the leaving of OFFLINE and the entry into CHECKING (R170). -/
theorem startSite_eq (s : State) (n : Nat) : s.startSite n = s.committed.leaveOffline.enterChecking n := rfl

/-- Supervision is enabled by the parameter committed (R198). -/
theorem supervised_committed (s : State) : s.committed.supervised = decide (siteParam s.tables.site 17 ≠ 0) := rfl

/-- The supervision limit rests on the commit alone (R198). -/
theorem supervisionLimit_congr {s t : State} (h : t.commit = s.commit) : t.supervisionLimit = s.supervisionLimit := by
  unfold State.supervisionLimit State.inUse
  rw [h]

/-- A start commits the working site parameters, with t_dp (R24, R170). -/
theorem commit_startSite (s : State) (n : Nat) : (s.startSite n).commit = s.committed.commit := by
  rw [startSite_eq, commit_enterChecking, commit_leaveOffline]

/-- The supervision limit of a start is that of the parameters committed (R198). -/
theorem supervisionLimit_startSite (s : State) (n : Nat) : (s.startSite n).supervisionLimit = 1000 *
    (siteParam s.tables.site 18 * (if siteParam s.tables.site 19 * siteParam s.tables.site 20 = 1 then 2
      else siteParam s.tables.site 19 * siteParam s.tables.site 20)) :=
  supervisionLimit_congr (s := s.committed) (commit_startSite s n)

/-- LIF at a start: the supervision timer starts where supervision is enabled (R198). -/
theorem lif_startSite (s : State) (n : Nat) : (s.startSite n).lif = if siteParam s.tables.site 17 ≠ 0
    then { s.lif with supTimer := some (s.startSite n).supervisionLimit } else s.lif := by
  rw [supervisionLimit_congr (commit_startSite s n), startSite_eq, lif_enterChecking, lif_leaveOffline, supervised_committed]
  simp only [decide_eq_true_eq]
  rfl

/-- The supervision timer starts at a start where supervision is enabled (R198). -/
theorem supTimer_startSite (n : Nat) (h : siteParam s.tables.site 17 ≠ 0) :
    (s.startSite n).lif.supTimer = some (s.startSite n).supervisionLimit := by
  rw [lif_startSite, if_pos h]

/-- The supervision timer stands at a start where supervision is not enabled (R198). -/
theorem supTimer_startSite_unsupervised (n : Nat) (h : siteParam s.tables.site 17 = 0) :
    (s.startSite n).lif.supTimer = s.lif.supTimer := by
  rw [lif_startSite, if_neg fun hc => hc h]

/-- SCU at a start: the validation has passed and the check has begun (R170, R178). -/
theorem scu_startSite (s : State) (n : Nat) :
    (s.startSite n).scu = beginCheck n (s.committed.leaveOffline.changeSite .checking).scu := by
  rw [startSite_eq, scu_enterChecking]

/-- The nodes at a start (R6, R11). -/
theorem nodes_startSite (s : State) (n : Nat) : (s.startSite n).sin.nodes = (superviseNodes s.tables s.sin).nodes := by
  rw [startSite_eq, nodes_enterChecking, nodes_leaveOffline]
  rfl

/-- A start leaves SCU's auto-arm flag and notes that validation has passed (R170, R183). -/
theorem validation_startSite (s : State) (n : Nat) :
    (s.startSite n).scu.validation = .passed ∧ (s.startSite n).scu.autoArm = s.scu.autoArm := by
  rw [scu_startSite]
  simp only [beginCheck, State.changeSite, scu_raise, scu_onScu, scu_leaveOffline]
  exact ⟨rfl, rfl⟩

/-- What a start leaves alone (R170). -/
theorem startSite_frame (s : State) (n : Nat) :
    (s.startSite n).tables = s.tables ∧ (s.startSite n).invalid = s.invalid ∧ (s.startSite n).axt = s.axt
      ∧ (s.startSite n).passage = s.passage ∧ (s.startSite n).aou.alarms = s.aou.alarms
      ∧ (s.startSite n).rps.told = s.rps.told := by
  rw [startSite_eq]
  refine ⟨?_, ?_, ?_, ?_, ?_, ?_⟩
  · rw [tables_enterChecking, tables_leaveOffline]; rfl
  · rw [invalid_enterChecking, invalid_leaveOffline]; rfl
  · rw [axt_enterChecking, axt_leaveOffline]; rfl
  · rw [passage_enterChecking, passage_leaveOffline]; rfl
  · rw [alarms_enterChecking, alarms_leaveOffline]; rfl
  · rw [told_enterChecking, rps_leaveOffline]; rfl

/-! ### START (R170, R171) -/

/-- START is not refused in OFFLINE (R170). -/
theorem refusal_start (h : s.scu.site = .offline) : s.refusal 6 = none := by
  unfold State.refusal
  rw [h]
  rfl

/-- START with valid tables starts the site and answers DONE (R170). -/
theorem start_valid (hs : s.scu.site = .offline) (hv : s.validation = none) :
    start tag [] s = (s.startSite 5000000).answer 6 tag .done [] := by
  unfold start
  rw [plainCommand_takes s (refusal_start hs), hv]
  rfl

/-- START with a table that fails notes the failure and answers it (R170, R171). -/
theorem start_invalid {f : Failure} (hs : s.scu.site = .offline) (hv : s.validation = some f) :
    start tag [] s = (s.onScu fun u => { u with validation := .failed f }).answer 6 tag .tableInvalid (putFailure f) := by
  unfold start
  rw [plainCommand_takes s (refusal_start hs), hv]

/-- Validation is not changed by a command's being taken (R171). -/
theorem validation_taken (s : State) (dt : Nat) : (s.taken dt).validation = s.validation := validation_congr rfl rfl rfl

/-- Settles O20: START with valid tables by what a start leaves, START with a failing table by its answer. -/
theorem startCommitsAndChecks : Obligations.StartCommitsAndChecks := by
  refine ⟨fun s dt tag h hs hv => ?_, fun s dt tag f h hs hv => ?_⟩
  · obtain ⟨htables, hinvalid, haxt, hpassage, halarms, htold⟩ := startSite_frame (s.taken dt) 5000000
    obtain ⟨hslots, hring, -, -⟩ := reports_of_told htold
    obtain ⟨hpassed, harm⟩ := validation_startSite (s.taken dt) 5000000
    have hcommit := commit_startSite (s.taken dt) 5000000
    have hnodes := nodes_startSite (s.taken dt) 5000000
    refine ⟨(s.taken dt).startSite 5000000,
      command_answers s h dt (start_valid (s := s.taken dt) hs ((validation_taken s dt).trans hv)),
      checks_enterChecking _ _, hpassed, congrArg Commit.site hcommit, (congrArg Commit.loaded hcommit :),
      congrArg Commit.tdp hcommit, hnodes ▸ present_of_mem_superviseNodes, fun hl n h1 h12 => ?_,
      supTimer_startSite (s := s.taken dt) _, supTimer_startSite_unsupervised (s := s.taken dt) _,
      supervisionLimit_startSite _ _, fun l => ?_, htables, hinvalid, haxt, hpassage, halarms, hslots, hring,
      (congrArg Rps.mask htold :), harm⟩
    · unfold State.node
      rw [hnodes]
      exact timer_superviseNodes h1 (by simp [State.taken, tickSin]; omega)
    · rw [startSite_eq, test_enterChecking, test_leaveOffline]
  · exact command_answers s h dt (start_invalid (s := s.taken dt) hs ((validation_taken s dt).trans hv))

end Sys2Proof.Machine
end

section
/-! PROOFS. O55: the level of an impact part and its recomputation, the bearing part of a context, and the settled judgment. -/

namespace Sys2Proof.Machine

/-! ### The level of an impact part (R105, R108) -/

section

variable {m : ImpactLimits} {low : Bool} {peak : Option Int} {dose : Option Nat} {ratio : Option Ratio}

/-- A value that may be absent reaches a limit where it is there and does so. -/
theorem any_reaches_iff {n : Nat} : peak.any (fun p => (n : Int) ≤ p) = true ↔ ∃ p, peak = some p ∧ (n : Int) ≤ p := by
  simp [Option.any_eq_true]

/-- A value that may be absent does not reach a limit where it lies below it or is not there. -/
theorem any_reaches_eq_false_iff {n : Nat} :
    peak.any (fun p => (n : Int) ≤ p) = false ↔ ∀ p, peak = some p → p < (n : Int) := by
  simp [Option.any_eq_false]

/-- The ALARM row's condition: the dose or the ratio reaches its limit (R105). -/
def reachesAlarm (m : ImpactLimits) (dose : Option Nat) (ratio : Option Ratio) : Bool :=
  (dose.any fun d => m.dose ≤ d) || (ratio.any fun r => m.ratio ≤ r.value)

theorem reachesAlarm_iff : reachesAlarm m dose ratio = true ↔
    (∃ d, dose = some d ∧ m.dose ≤ d) ∨ ∃ r, ratio = some r ∧ m.ratio ≤ r.value := by
  simp [reachesAlarm, Option.any_eq_true]

theorem reachesAlarm_eq_false_iff : reachesAlarm m dose ratio = false ↔
    (∀ d, dose = some d → d < m.dose) ∧ ∀ r, ratio = some r → r.value < m.ratio := by
  simp [reachesAlarm, Option.any_eq_false]

/-- The rows of R105 in their order. -/
theorem computedLevel_eq : computedLevel m low peak dose ratio =
    if peak.any (fun p => (m.crit : Int) ≤ p) then .critical
    else if low then .none
    else if reachesAlarm m dose ratio then .alarm
    else if peak.any (fun p => (m.warn : Int) ≤ p) then .watch
    else .none := rfl

/-- CRITICAL is the first row (R105). -/
theorem computedLevel_eq_critical_iff :
    computedLevel m low peak dose ratio = .critical ↔ ∃ p, peak = some p ∧ (m.crit : Int) ≤ p := by
  rw [computedLevel_eq, ← any_reaches_iff]
  split
  · next h => exact ⟨fun _ => h, fun _ => rfl⟩
  · next h =>
    refine ⟨fun hl => ?_, fun hc => absurd hc h⟩
    repeat' split at hl
    all_goals cases hl

/-- ALARM needs a part that is neither CRITICAL nor LOW_SPEED, and dose or ratio at its limit (R105). -/
theorem computedLevel_eq_alarm_iff : computedLevel m low peak dose ratio = .alarm ↔
    (∀ p, peak = some p → p < (m.crit : Int)) ∧ low = false
      ∧ ((∃ d, dose = some d ∧ m.dose ≤ d) ∨ ∃ r, ratio = some r ∧ m.ratio ≤ r.value) := by
  rw [computedLevel_eq, ← any_reaches_eq_false_iff, ← reachesAlarm_iff]
  cases peak.any fun p => (m.crit : Int) ≤ p with
  | true => simp
  | false =>
    cases low with
    | true => simp
    | false =>
      cases reachesAlarm m dose ratio with
      | true => simp
      | false => cases peak.any fun p => (m.warn : Int) ≤ p <;> simp

/-- WATCH needs a part that no row before it takes, and the peak at P_warn (R105). -/
theorem computedLevel_eq_watch_iff : computedLevel m low peak dose ratio = .watch ↔
    (∃ p, peak = some p ∧ p < (m.crit : Int) ∧ (m.warn : Int) ≤ p) ∧ low = false
      ∧ (∀ d, dose = some d → d < m.dose) ∧ ∀ r, ratio = some r → r.value < m.ratio := by
  have hpeak : (∃ p, peak = some p ∧ p < (m.crit : Int) ∧ (m.warn : Int) ≤ p) ↔
      peak.any (fun p => (m.crit : Int) ≤ p) = false ∧ peak.any (fun p => (m.warn : Int) ≤ p) = true := by
    cases peak <;> simp
  rw [computedLevel_eq, hpeak, ← reachesAlarm_eq_false_iff]
  cases peak.any fun p => (m.crit : Int) ≤ p with
  | true => simp
  | false =>
    cases low with
    | true => simp
    | false =>
      cases reachesAlarm m dose ratio with
      | true => simp
      | false => cases peak.any fun p => (m.warn : Int) ≤ p <;> simp

/-- The level that R108 computes anew for a part, from the wheel's load as now stored. -/
def renewedLevel (m : ImpactLimits) (load : Option Int) (p : ImpactPart) : Level :=
  computedLevel m p.lowSpeed (p.peak.map Peak.value) p.dose (recomputeImpact m load p).ratio

variable {load : Option Int} {p : ImpactPart}

/-- A recomputed part takes the renewed level where that is higher, and else keeps its own (R108). -/
theorem level_recomputeImpact : (recomputeImpact m load p).level =
    if levelRank p.level < levelRank (renewedLevel m load p) then renewedLevel m load p else p.level := rfl

/-- LEVEL_HELD marks a part whose renewed level is lower than its own (R108). -/
theorem levelHeld_recomputeImpact :
    (recomputeImpact m load p).levelHeld = true ↔ levelRank (renewedLevel m load p) < levelRank p.level :=
  decide_eq_true_iff

/-- A recomputed part never falls (R108). -/
theorem levelRank_le_recomputeImpact : levelRank p.level ≤ levelRank (recomputeImpact m load p).level := by
  rw [level_recomputeImpact]
  split
  · next h => exact Nat.le_of_lt h
  · exact Nat.le_refl _

theorem level_recomputeImpact_of_lt (h : levelRank p.level < levelRank (renewedLevel m load p)) :
    (recomputeImpact m load p).level = renewedLevel m load p := by
  rw [level_recomputeImpact, if_pos h]

theorem level_recomputeImpact_of_le (h : levelRank (renewedLevel m load p) ≤ levelRank p.level) :
    (recomputeImpact m load p).level = p.level := by
  rw [level_recomputeImpact, if_neg (Nat.not_lt.mpr h)]

end

/-! ### The greatest peak (R101, R124) -/

/-- Of the first two peaks the greater stands for both, the first where they are equal (R124). -/
theorem greatestPeak_cons_cons (y z : Peak) (l : List Peak) :
    greatestPeak (y :: z :: l) = greatestPeak ((if y.value < z.value then z else y) :: l) := by
  unfold greatestPeak
  rw [List.foldl_cons, List.foldl_cons, List.foldl_cons]
  by_cases h : y.value < z.value
  · simp only [if_pos h]
  · simp only [if_neg h]

/-- The greatest peak is one of the list: greater than every one before it and not less than one after it (R124). -/
theorem greatestPeak_split (y : Peak) (l : List Peak) : ∃ pre x post, y :: l = pre ++ x :: post
    ∧ greatestPeak (y :: l) = some x ∧ (∀ z ∈ pre, z.value < x.value) ∧ ∀ z ∈ post, z.value ≤ x.value := by
  induction l generalizing y with
  | nil => exact ⟨[], y, [], rfl, rfl, nofun, nofun⟩
  | cons z l ih =>
    rw [greatestPeak_cons_cons]
    by_cases hyz : y.value < z.value
    · rw [if_pos hyz]
      obtain ⟨pre, x, post, hsplit, hx, hpre, hpost⟩ := ih z
      have hzx : z.value ≤ x.value := by
        have hz : z ∈ pre ++ x :: post := hsplit ▸ List.mem_cons_self
        rcases List.mem_append.mp hz with hz | hz
        · exact Int.le_of_lt (hpre z hz)
        · rcases List.mem_cons.mp hz with rfl | hz
          · exact Int.le_refl _
          · exact hpost z hz
      refine ⟨y :: pre, x, post, congrArg (y :: ·) hsplit, hx, fun w hw => ?_, hpost⟩
      rcases List.mem_cons.mp hw with rfl | hw
      · exact Int.lt_of_lt_of_le hyz hzx
      · exact hpre w hw
    · have hzy : z.value ≤ y.value := Int.not_lt.mp hyz
      rw [if_neg hyz]
      obtain ⟨pre, x, post, hsplit, hx, hpre, hpost⟩ := ih y
      cases pre with
      | nil =>
        obtain ⟨rfl, rfl⟩ := List.cons.inj hsplit
        refine ⟨[], y, z :: l, rfl, hx, nofun, fun w hw => ?_⟩
        rcases List.mem_cons.mp hw with rfl | hw
        · exact hzy
        · exact hpost w hw
      | cons v pre =>
        obtain ⟨rfl, rfl⟩ := List.cons.inj hsplit
        have hyx : y.value < x.value := hpre y List.mem_cons_self
        refine ⟨y :: z :: pre, x, post, rfl, hx, fun w hw => ?_, hpost⟩
        rcases List.mem_cons.mp hw with rfl | hw
        · exact hyx
        · rcases List.mem_cons.mp hw with rfl | hw
          · exact Int.lt_of_le_of_lt hzy hyx
          · exact hpre w (List.mem_cons_of_mem _ hw)

/-- The peak that a channel entry contributes, if it holds one (R100, R123). -/
def entryPeak (e : ContextEntry) : Option Peak := e.peak.bind fun v => e.peakTime.map fun t => ⟨v, e.channel, t⟩

theorem contributingPeaks_eq (l : List ContextEntry) : contributingPeaks l = l.filterMap entryPeak :=
  congrArg (List.filterMap · l) <| funext fun e => by
    unfold entryPeak
    cases e.peak <;> cases e.peakTime <;> rfl

/-- The entry holds a peak with its time. -/
def holdsPeak (e : ContextEntry) : Bool := e.peak.isSome && e.peakTime.isSome

theorem isSome_entryPeak (e : ContextEntry) : (entryPeak e).isSome = holdsPeak e := by
  unfold entryPeak holdsPeak
  cases e.peak <;> cases e.peakTime <;> rfl

theorem entryPeak_eq_some {e : ContextEntry} {x : Peak} (h : entryPeak e = some x) :
    ∃ v u, e.peak = some v ∧ e.peakTime = some u ∧ x = ⟨v, e.channel, u⟩ := by
  obtain ⟨v, hv, hx⟩ := Option.bind_eq_some_iff.mp h
  obtain ⟨u, hu, rfl⟩ := Option.map_eq_some_iff.mp hx
  exact ⟨v, u, hv, hu, rfl⟩

/-- Entries that hold no peak contribute none (R123). -/
theorem contributingPeaks_filter (l : List ContextEntry) :
    contributingPeaks (l.filter holdsPeak) = contributingPeaks l := by
  have hnone : (fun e => if holdsPeak e = true then entryPeak e else none) = entryPeak := funext fun e => by
    by_cases h : holdsPeak e = true
    · exact if_pos h
    · rw [if_neg h]
      rw [← isSome_entryPeak] at h
      exact (Option.not_isSome_iff_eq_none.mp h).symm
  rw [contributingPeaks_eq, contributingPeaks_eq, List.filterMap_filter, hnone]

variable {l : List ContextEntry}

/-- Of entries that all hold a peak each contributes one (R123). -/
theorem length_contributingPeaks (h : ∀ e ∈ l, holdsPeak e = true) : (contributingPeaks l).length = l.length := by
  rw [contributingPeaks_eq]
  exact List.filterMap_length_eq_length.mpr fun e he => (isSome_entryPeak e).trans (h e he)

/-- Of entries that hold peaks, the one whose peak is the greatest, the first in list order (R124). -/
theorem greatestPeak_contributingPeaks (h : ∀ e ∈ l, holdsPeak e = true) (hl : l ≠ []) :
    ∃ pre e post v u, l = pre ++ e :: post ∧ e.peak = some v ∧ e.peakTime = some u
      ∧ greatestPeak (contributingPeaks l) = some ⟨v, e.channel, u⟩
      ∧ (∀ x ∈ pre, ∀ w, x.peak = some w → w < v) ∧ ∀ x ∈ post, ∀ w, x.peak = some w → w ≤ v := by
  have hne : contributingPeaks l ≠ [] := by
    rw [← List.length_pos_iff, length_contributingPeaks h]
    exact List.length_pos_iff.mpr hl
  obtain ⟨y, rest, hcons⟩ := List.exists_cons_of_ne_nil hne
  obtain ⟨before, x, after, hsplit, hx, hbefore, hafter⟩ := greatestPeak_split y rest
  rw [← hcons] at hsplit hx
  rw [contributingPeaks_eq] at hsplit
  obtain ⟨pre, rest, rfl, hpre, hrest⟩ := List.filterMap_eq_append_iff.mp hsplit
  obtain ⟨skipped, e, post, rfl, hskipped, he, hpost⟩ := List.filterMap_eq_cons_iff.mp hrest
  obtain rfl : skipped = [] := List.eq_nil_iff_forall_not_mem.mpr fun y hy => by
    have hholds := h y (by simp [hy])
    rw [← isSome_entryPeak, hskipped y hy] at hholds
    cases hholds
  obtain ⟨v, u, hv, hu, rfl⟩ := entryPeak_eq_some he
  have contributes : ∀ y ∈ pre ++ [] ++ e :: post, ∀ w, y.peak = some w → ∃ z, entryPeak y = some z ∧ z.value = w :=
    fun y hy w hw => by
      obtain ⟨z, hz⟩ := Option.isSome_iff_exists.mp ((isSome_entryPeak y).trans (h y (by simpa using hy)))
      obtain ⟨w', _, hw', _, rfl⟩ := entryPeak_eq_some hz
      exact ⟨_, hz, Option.some.inj (hw'.symm.trans hw)⟩
  refine ⟨pre, e, post, v, u, rfl, hv, hu, hx, fun y hy w hw => ?_, fun y hy w hw => ?_⟩
  · obtain ⟨z, hz, rfl⟩ := contributes y (by simp [hy]) w hw
    exact hbefore z (hpre ▸ List.mem_filterMap.mpr ⟨y, hy, hz⟩)
  · obtain ⟨z, hz, rfl⟩ := contributes y (by simp [hy]) w hw
    exact hafter z (hpost ▸ List.mem_filterMap.mpr ⟨y, hy, hz⟩)

/-! ### The bearing part (R123 to R125) -/

/-- The entries of a context that contribute to its bearing part (R123). -/
def contributing (nMin : Nat) (c : Context) : List ContextEntry :=
  c.entries.filter fun e => nMin ≤ e.count && e.peak.isSome && e.peakTime.isSome

variable {nMin : Nat} {c : Context}

theorem holdsPeak_of_mem_contributing : ∀ e ∈ contributing nMin c, holdsPeak e = true := fun e he => by
  have h := (List.mem_filter.mp he).2
  rw [Bool.and_assoc, Bool.and_eq_true] at h
  exact h.2

/-- The peaks of a bearing part are those of its contributing entries (R123). -/
theorem contributingPeaks_contributing :
    contributingPeaks (c.entries.filter fun e => nMin ≤ e.count) = contributingPeaks (contributing nMin c) := by
  rw [← contributingPeaks_filter, List.filter_filter]
  congr 2
  funext e
  exact (Bool.and_comm _ _).trans (Bool.and_assoc _ _ _).symm

variable (rHot tAbs : Nat) (ambient : Option Int) (notOpen : Bool) (t : LoopTime)

theorem peak_bearingPart : (bearingPart nMin rHot tAbs ambient notOpen c t).peak
    = greatestPeak (contributingPeaks (contributing nMin c)) := by
  rw [← contributingPeaks_contributing]
  rfl

theorem contributing_bearingPart :
    (bearingPart nMin rHot tAbs ambient notOpen c t).contributing = (contributing nMin c).length := by
  rw [← length_contributingPeaks holdsPeak_of_mem_contributing, ← contributingPeaks_contributing]
  rfl

/-- A reason stands exactly where there is no reading (R124). -/
theorem noReading_bearingPart : (bearingPart nMin rHot tAbs ambient notOpen c t).noReading
    = if (bearingPart nMin rHot tAbs ambient notOpen c t).peak.isSome then none else some (noReadingReason c) := rfl

/-- The rise is the peak less the ambient (R125). -/
theorem rise_bearingPart : (bearingPart nMin rHot tAbs ambient notOpen c t).rise
    = (bearingPart nMin rHot tAbs ambient notOpen c t).peak.bind fun x => ambient.map fun a => x.value - a := rfl

theorem hot_bearingPart : (bearingPart nMin rHot tAbs ambient notOpen c t).hot
    = isHot rHot tAbs ((bearingPart nMin rHot tAbs ambient notOpen c t).peak.map Peak.value)
        (bearingPart nMin rHot tAbs ambient notOpen c t).rise := rfl

/-- The reasons in the order of R124. -/
theorem noReadingReason_eq (c : Context) : noReadingReason c = if ∃ e ∈ c.entries, e.exclusion = some .excluded then .excluded
    else if c.flags.unsettled = true then .notSettled else .thin := by
  unfold noReadingReason
  simp only [List.any_eq_true, beq_iff_eq]

/-- A part is hot by its rise or by its temperature (R125). -/
theorem isHot_iff {peak : Option Peak} {rise : Option Int} : isHot rHot tAbs (peak.map Peak.value) rise = true ↔
    (∃ r, rise = some r ∧ (rHot : Int) ≤ r) ∨ ∃ x, peak = some x ∧ (tAbs : Int) ≤ x.value := by
  unfold isHot
  rw [Bool.or_eq_true, any_reaches_iff, any_reaches_iff]
  refine or_congr Iff.rfl ?_
  cases peak with
  | none => exact ⟨nofun, nofun⟩
  | some x =>
    exact ⟨fun ⟨_, hv, hle⟩ => ⟨x, rfl, Option.some.inj hv ▸ hle⟩, fun ⟨_, hz, hle⟩ => ⟨_, congrArg (Option.map Peak.value) hz, hle⟩⟩

/-- Without a contributing entry there is no peak, and the reason is given (R124). -/
theorem bearingPart_of_none (h : contributing nMin c = []) : (bearingPart nMin rHot tAbs ambient notOpen c t).peak = none
    ∧ (bearingPart nMin rHot tAbs ambient notOpen c t).noReading = some (noReadingReason c) := by
  have hpeak : (bearingPart nMin rHot tAbs ambient notOpen c t).peak = none := by
    rw [peak_bearingPart, h]
    rfl
  exact ⟨hpeak, by rw [noReading_bearingPart, hpeak]; rfl⟩

/-- With contributing entries the peak is the greatest of theirs, the first in list order (R124). -/
theorem bearingPart_of_some (h : contributing nMin c ≠ []) :
    (bearingPart nMin rHot tAbs ambient notOpen c t).noReading = none
    ∧ ∃ pre e post v u, contributing nMin c = pre ++ e :: post ∧ e.peak = some v ∧ e.peakTime = some u
      ∧ (bearingPart nMin rHot tAbs ambient notOpen c t).peak = some ⟨v, e.channel, u⟩
      ∧ (∀ x ∈ pre, ∀ w, x.peak = some w → w < v) ∧ ∀ x ∈ post, ∀ w, x.peak = some w → w ≤ v := by
  obtain ⟨pre, e, post, v, u, hsplit, hv, hu, hx, hpre, hpost⟩ :=
    greatestPeak_contributingPeaks holdsPeak_of_mem_contributing h
  rw [← peak_bearingPart rHot tAbs ambient notOpen t] at hx
  exact ⟨by rw [noReading_bearingPart, hx]; rfl, pre, e, post, v, u, hsplit, hv, hu, hx, hpre, hpost⟩

/-- Without an ambient value or without a peak there is no rise (R125). -/
theorem rise_bearingPart_none
    (h : ambient = none ∨ (bearingPart nMin rHot tAbs ambient notOpen c t).peak = none) :
    (bearingPart nMin rHot tAbs ambient notOpen c t).rise = none := by
  rw [rise_bearingPart]
  rcases h with rfl | h
  · cases (bearingPart nMin rHot tAbs none notOpen c t).peak <;> rfl
  · rw [h]
    rfl

/-- A stored bearing part stands in its axle's record: the links it drops and the judgment of HOT are none of the passage's (R65, R126). -/
theorem axle_storeBearing {s : State} {i : Nat} {a : AxleRecord} (ha : s.axle i = some a) (r : Rail) (b : BearingPart) :
    (s.storeBearing i r b).axle i = some { a with bearing := a.bearing.set r (some b) } := by
  obtain ⟨_, _, hi, _⟩ := axle_at ha
  have hu : (s.unlink ⟨i, .bearing, r⟩).axle i = some a := ha
  unfold State.storeBearing State.axle
  rw [passage_evaluateHot]
  refine (axle_onAxle _ i i _ hi).trans ?_
  rw [hu, Option.map_some, if_pos rfl]

/-- The bearing part that a closed context stores is judged by the passage's ambient and not-open mark (R120, R123 to R125). -/
theorem axle_storePart_bearing {s : State} {p : Passage} {a : AxleRecord} (hp : s.passage = some p) (ha : p.axle c.axle = some a) :
    (s.storePart c t .bearing).axle c.axle = some { a with bearing := a.bearing.set c.rail (some
      (bearingPart (siteParam s.inUse 12) (s.threshold 10) (s.threshold 11) p.ambient (p.notOpen.get c.rail) c t)) } := by
  have hs : s.axle c.axle = some a := by
    unfold State.axle
    rw [hp]
    exact ha
  unfold State.storePart
  rw [axle_storeBearing hs, hp]
  rfl

/-! ### The settled judgment (R121) -/

variable {r : FeedbackRecord}

/-- A loop time is not earlier where their difference is not negative (R1). -/
theorem earlier_eq_false_iff {a b : LoopTime} : earlier a b = false ↔ 0 ≤ timeDiff a b := by
  unfold earlier
  rw [decide_eq_false_iff_not, Int.not_lt]

/-- With no change in the record the base level and the base time decide (R121). -/
theorem settledAt_base_iff (h : r.changes = []) :
    settledAt r t = true ↔ r.baseOpen = true ∧ 0 ≤ timeDiff (t - 100000#32) r.baseTime := by
  unfold settledAt levelAt
  rw [h, ← earlier_eq_false_iff]
  simp [Config.settleTime, and_comm]

/-- A settled sample's scanner was open 100 ms before (R121). -/
theorem levelAt_of_settledAt (h : settledAt r t = true) : levelAt r (t - 100000#32) = true := by
  unfold settledAt at h
  simp only [Bool.and_eq_true] at h
  exact h.1.2

end Sys2Proof.Machine
end

section
/-! PROOFS. O55: vehicles: how spacings are read and types judged, what an attempt of the segmenter makes, and a vehicle's loads and evaluation. -/

namespace Sys2Proof.Machine

/-! ### Reading a spacing (R88) -/

section

variable {closing : Bool} {p : Passage} {i j : Nat}

theorem readSpacing_value {a : AxleRecord} {v : Nat} (ha : p.axle (j + 1) = some a) (h : a.spacing = .value v) :
    readSpacing closing p j = .value v := by
  unfold readSpacing
  rw [ha, Option.map_some, h]

theorem readSpacing_absent {a : AxleRecord} (ha : p.axle (j + 1) = some a) (h : a.spacing = .absent) :
    readSpacing closing p j = .absent := by
  unfold readSpacing
  rw [ha, Option.map_some, h]

/-- A spacing not yet known is absent in CLOSING (R88). -/
theorem readSpacing_pending (h : ∀ a, p.axle (j + 1) = some a → a.spacing = .pending) :
    readSpacing closing p j = if closing = true then .absent else .unknown := by
  unfold readSpacing
  cases ha : p.axle (j + 1) with
  | none => rfl
  | some a => rw [Option.map_some, h a ha]

/-! ### Judging a type (R90, R92) -/

/-- The spacing after axle `j` is known and within the tolerance of a nominal spacing (R90). -/
def SpacingFits (closing : Bool) (p : Passage) (tol j m : Nat) : Prop :=
  ∃ v, readSpacing closing p j = .value v ∧ ((v : Int) - m).natAbs ≤ tol

variable {tol : Nat} {nominal : List Nat}

/-- A spacing that fits hands the judgment on to the next (R90). -/
theorem judgeInner_cons_of_fits {m : Nat} (h : SpacingFits closing p tol i m) (l : List Nat) :
    judgeInner closing p tol i (m :: l) = judgeInner closing p tol (i + 1) l := by
  obtain ⟨v, hv, hm⟩ := h
  rw [judgeInner, hv]
  exact if_neg (Nat.not_lt.mpr hm)

/-- After the spacings that fit, the judgment is that of those that remain (R90). -/
theorem judgeInner_drop (k : Nat) (h : ∀ j m, j < k → nominal[j]? = some m → SpacingFits closing p tol (i + j) m) :
    judgeInner closing p tol i nominal = judgeInner closing p tol (i + k) (nominal.drop k) := by
  induction k generalizing i nominal with
  | zero => rfl
  | succ k ih =>
    cases nominal with
    | nil => rfl
    | cons m l =>
      have hrest : ∀ j n, j < k → l[j]? = some n → SpacingFits closing p tol (i + 1 + j) n := fun j n hj hn => by
        rw [Nat.add_assoc, Nat.add_comm 1]
        exact h (j + 1) n (Nat.succ_lt_succ hj) hn
      have hfirst : SpacingFits closing p tol i m := h 0 m (Nat.succ_pos k) rfl
      rw [judgeInner_cons_of_fits hfirst, ih hrest, List.drop_succ_cons, Nat.add_assoc, Nat.add_comm 1]

/-- The first spacing that does not fit decides the judgment (R90). -/
theorem judgeInner_at {k n : Nat} (hk : nominal[k]? = some n)
    (h : ∀ j m, j < k → nominal[j]? = some m → SpacingFits closing p tol (i + j) m) :
    judgeInner closing p tol i nominal = judgeInner closing p tol (i + k) (n :: nominal.drop (k + 1)) := by
  obtain ⟨hlt, rfl⟩ := List.getElem?_eq_some_iff.mp hk
  rw [judgeInner_drop k h, List.drop_eq_getElem_cons hlt]

/-- A type whose spacings all fit is not failed by them (R90). -/
theorem judgeInner_of_fits (h : ∀ j m, nominal[j]? = some m → SpacingFits closing p tol (i + j) m) :
    judgeInner closing p tol i nominal = .fit false := by
  rw [judgeInner_drop nominal.length fun j m _ => h j m, List.drop_length]
  rfl

variable {t : VehicleType}

/-- An inner spacing of a type is one of those judged (R86, R90). -/
theorem getElem?_inner {k n : Nat} : (t.spacings.take (t.axles - 1))[k]? = some n ↔ k + 1 < t.axles ∧ t.spacings[k]? = some n := by
  rw [List.getElem?_take]
  split
  · next h => exact ⟨fun hn => ⟨by omega, hn⟩, fun hn => hn.2⟩
  · next h => exact ⟨nofun, fun hn => absurd hn.1 (by omega)⟩

/-- The first inner spacing that does not fit decides a type (R90). -/
theorem judgeType_at {k n : Nat} (hk : k + 1 < t.axles) (hn : t.spacings[k]? = some n)
    (h : ∀ j m, j < k → t.spacings[j]? = some m → SpacingFits closing p t.tolerance (i + j) m) :
    (readSpacing closing p (i + k) = .absent → judgeType closing p i t = .fail)
    ∧ (readSpacing closing p (i + k) = .unknown → judgeType closing p i t = .wait)
    ∧ ∀ v, readSpacing closing p (i + k) = .value v → t.tolerance < ((v : Int) - n).natAbs → judgeType closing p i t = .fail := by
  have hinner := judgeInner_at (getElem?_inner.mpr ⟨hk, hn⟩) fun j m hj hm => h j m hj (getElem?_inner.mp hm).2
  unfold judgeType
  rw [hinner, judgeInner]
  exact ⟨fun hr => by rw [hr], fun hr => by rw [hr], fun v hr hv => by rw [hr]; dsimp only; rw [if_pos hv]⟩

/-- A type whose inner spacings fit is decided by its gap (R90). -/
theorem judgeType_of_fits (h : ∀ j m, j + 1 < t.axles → t.spacings[j]? = some m → SpacingFits closing p t.tolerance (i + j) m) :
    judgeType closing p i t = judgeGap closing p t.gap (i + t.axles - 1) := by
  unfold judgeType
  rw [judgeInner_of_fits fun j m hm => h j m (getElem?_inner.mp hm).1 (getElem?_inner.mp hm).2]

variable {gap last : Nat}

/-- At closing the end of the train serves as coupling (R92). -/
theorem judgeGap_end (hc : closing = true) (hl : last = p.axles.length) : judgeGap closing p gap last = .fit true := by
  unfold judgeGap
  rw [hc, hl]
  simp

/-- Elsewhere the spacing after the last axle is held against the gap (R90). -/
theorem judgeGap_inside (h : closing = false ∨ last ≠ p.axles.length) :
    (readSpacing closing p last = .absent → judgeGap closing p gap last = .fail)
    ∧ (readSpacing closing p last = .unknown → judgeGap closing p gap last = .wait)
    ∧ ∀ v, readSpacing closing p last = .value v →
      (v < gap → judgeGap closing p gap last = .fail) ∧ (gap ≤ v → judgeGap closing p gap last = .fit false) := by
  have hend : ¬ (closing && last == p.axles.length) = true := by
    simpa [Classical.or_iff_not_imp_left] using h
  unfold judgeGap
  rw [if_neg hend]
  refine ⟨fun hr => by rw [hr], fun hr => by rw [hr], fun v hr => ?_⟩
  rw [hr]
  exact ⟨fun hv => if_pos hv, fun hv => if_neg (Nat.not_lt.mpr hv)⟩

/-! ### A step of the segmenter (R89, R91) -/

/-- A type that fails leaves the step to those after it (R89). -/
theorem segmentStep_cons_of_fail (h : judgeType closing p i t = .fail) (l : List VehicleType) :
    segmentStep closing p i (t :: l) = segmentStep closing p i l := by
  rw [segmentStep, h]

theorem segmentStep_append_of_fail {l : List VehicleType} (h : ∀ x ∈ l, judgeType closing p i x = .fail) (r : List VehicleType) :
    segmentStep closing p i (l ++ r) = segmentStep closing p i r := by
  induction l with
  | nil => rfl
  | cons x l ih =>
    rw [List.cons_append, segmentStep_cons_of_fail (h x List.mem_cons_self), ih fun y hy => h y (List.mem_cons_of_mem x hy)]

/-- If every type fails the axle is unclassified (R91). -/
theorem segmentStep_of_fail {l : List VehicleType} (h : ∀ x ∈ l, judgeType closing p i x = .fail) :
    segmentStep closing p i l = .make 0 1 false := by
  rw [← List.append_nil l, segmentStep_append_of_fail h]
  rfl

/-- The first type that does not fail waits or makes its vehicle (R89). -/
theorem segmentStep_first {pre post : List VehicleType} (h : ∀ x ∈ pre, judgeType closing p i x = .fail) :
    (judgeType closing p i t = .wait → segmentStep closing p i (pre ++ t :: post) = .wait)
    ∧ ∀ e, judgeType closing p i t = .fit e → segmentStep closing p i (pre ++ t :: post) = .make t.code t.axles e := by
  rw [segmentStep_append_of_fail h, segmentStep]
  exact ⟨fun ht => by rw [ht], fun e ht => by rw [ht]⟩

/-- Every vehicle made has an axle, if every type has one (R86, R91). -/
theorem axles_pos_of_segmentStep {types : List VehicleType} {code n : Nat} {e : Bool} (ht : ∀ t ∈ types, 1 ≤ t.axles)
    (h : segmentStep closing p i types = .make code n e) : 1 ≤ n := by
  induction types with
  | nil =>
    cases h
    exact Nat.le_refl 1
  | cons t l ih =>
    rw [segmentStep] at h
    split at h
    · exact ih (fun x hx => ht x (List.mem_cons_of_mem t hx)) h
    · cases h
    · cases h
      exact ht t List.mem_cons_self

end

/-! ### Members and their loads (R93 to R95) -/

section

variable {p q : Passage} {v : Vehicle}

/-- The loads of members are part of what stands in a record's parts. -/
theorem memberAxles_parts (p : Passage) (v : Vehicle) : (memberAxles p v).map AxleRecord.parts =
    (List.range' v.first v.axles).filterMap fun k => if k = 0 then none else (p.axles.map AxleRecord.parts)[k - 1]? := by
  have haxle : ∀ k, (p.axle k).map AxleRecord.parts = if k = 0 then none else (p.axles.map AxleRecord.parts)[k - 1]? := fun k => by
    unfold Passage.axle
    by_cases hk : k = 0
    · rw [if_pos hk, if_pos hk]
      rfl
    · rw [if_neg hk, if_neg hk, List.getElem?_map]
  unfold memberAxles
  rw [List.map_filterMap]
  exact congrArg (List.filterMap · _) (funext haxle)

/-- The member axle loads are those of the records' parts (R94). -/
theorem memberLoads_congr (h : p.axles.map AxleRecord.parts = q.axles.map AxleRecord.parts) : memberLoads p v = memberLoads q v := by
  have hloads : ∀ r, (memberAxles r v).filterMap (·.axleLoad) = ((memberAxles r v).map AxleRecord.parts).filterMap (·.axleLoad) :=
    fun r => by
      rw [List.filterMap_map]
      rfl
  unfold memberLoads
  rw [hloads p, hloads q, memberAxles_parts, memberAxles_parts, h]

/-- The members' load parts are those of the records' parts (R95). -/
theorem memberParts_congr (h : p.axles.map AxleRecord.parts = q.axles.map AxleRecord.parts) : memberParts p v = memberParts q v := by
  have hparts : ∀ r, memberParts r v = ((memberAxles r v).map AxleRecord.parts).flatMap
      fun a => [a.load.left, a.load.right].filterMap id := fun r => by
    rw [List.flatMap_map]
    rfl
  rw [hparts p, hparts q, memberAxles_parts, memberAxles_parts, h]

/-- A vehicle as VEH leaves it when it has seen to it: computed, and evaluated if it is load-complete (R94 to R96). -/
def assessedVehicle (p : Passage) (v : Vehicle) : Vehicle :=
  if loadComplete p v = true then evaluatedVehicle p (computeVehicle p v) else computeVehicle p v

theorem assessedVehicle_congr (h : p.axles.map AxleRecord.parts = q.axles.map AxleRecord.parts) :
    assessedVehicle p v = assessedVehicle q v := by
  have hparts : ∀ w, memberParts p w = memberParts q w := fun w => memberParts_congr h
  unfold assessedVehicle loadComplete evaluatedVehicle computeVehicle
  simp only [hparts, memberLoads_congr h]

theorem number_assessedVehicle (p : Passage) (v : Vehicle) : (assessedVehicle p v).number = v.number := by
  unfold assessedVehicle
  split <;> rfl

/-- The member axle loads, read one axle after the other (R94). -/
theorem memberLoads_eq (p : Passage) (v : Vehicle) : memberLoads p v =
    if ((List.range' v.first v.axles).filterMap fun k => (p.axle k).bind (·.axleLoad)).length = v.axles
    then some ((List.range' v.first v.axles).filterMap fun k => (p.axle k).bind (·.axleLoad)) else none := by
  unfold memberLoads memberAxles
  rw [List.filterMap_filterMap]

/-- Every member has an axle load (R94). -/
theorem memberLoads_some {l : List Nat}
    (h : (List.range' v.first v.axles).map (fun k => (p.axle k).bind (·.axleLoad)) = l.map some) : memberLoads p v = some l := by
  have hl : (List.range' v.first v.axles).filterMap (fun k => (p.axle k).bind (·.axleLoad)) = l := by
    have hmap := congrArg (List.filterMap id) h
    simpa [List.filterMap_map, Function.comp_def] using hmap
  have hlength := congrArg List.length h
  rw [List.length_map, List.length_map, List.length_range'] at hlength
  rw [memberLoads_eq, hl, if_pos hlength.symm]

/-- A member without an axle load leaves the vehicle without loads (R94). -/
theorem memberLoads_none {k : Nat} (h1 : v.first ≤ k) (h2 : k < v.first + v.axles) (h : (p.axle k).bind (·.axleLoad) = none) :
    memberLoads p v = none := by
  have hlt : ((List.range' v.first v.axles).filterMap fun k => (p.axle k).bind (·.axleLoad)).length < _ :=
    List.length_filterMap_lt_length_iff_exists.mpr ⟨k, List.mem_range'_1.mpr ⟨h1, h2⟩, h⟩
  rw [List.length_range'] at hlt
  rw [memberLoads_eq, if_neg (Nat.ne_of_lt hlt)]

/-- The gross load is the sum of the member axle loads, the end imbalance that of an even number of them (R94). -/
theorem computeVehicle_some {l : List Nat} (h : memberLoads p v = some l) :
    (computeVehicle p v).gross = some (sumNat l)
    ∧ (v.axles % 2 = 0 → 0 < sumNat l → (computeVehicle p v).endImbalance = some (divRoundNat
        (1000 * ((sumNat (l.take (v.axles / 2)) : Int) - sumNat (l.drop (v.axles / 2))).natAbs) (sumNat l)))
    ∧ (v.axles % 2 = 1 ∨ sumNat l = 0 → (computeVehicle p v).endImbalance = none) := by
  unfold computeVehicle
  rw [h]
  refine ⟨rfl, fun h2 hpos => if_pos ⟨h2, hpos⟩, fun hodd => if_neg fun heven => ?_⟩
  obtain ⟨h2, hpos⟩ := heven
  omega

theorem computeVehicle_none (h : memberLoads p v = none) :
    (computeVehicle p v).gross = none ∧ (computeVehicle p v).endImbalance = none := by
  unfold computeVehicle
  rw [h]
  exact ⟨rfl, rfl⟩

theorem loadComplete_iff : loadComplete p v = true ↔
    (memberParts p v).length = 2 * v.axles ∧ ∀ x ∈ memberParts p v, x.common.settlement ≠ .provisional := by
  simp [loadComplete]

/-! ### The evaluation of a vehicle (R95) -/

/-- One of the members' load parts has a settlement. -/
def hasMember (p : Passage) (v : Vehicle) (st : Settlement) : Bool := (memberParts p v).any fun x => x.common.settlement == st

theorem hasMember_iff {st : Settlement} : hasMember p v st = true ↔ ∃ x ∈ memberParts p v, x.common.settlement = st := by
  simp [hasMember]

theorem hasMember_eq_false_iff {st : Settlement} : hasMember p v st = false ↔ ∀ x ∈ memberParts p v, x.common.settlement ≠ st := by
  simp [hasMember]

theorem unsteadySource_evaluatedVehicle : (evaluatedVehicle p v).unsteadySource = hasMember p v .unsteady := rfl

/-- UNSTEADY goes first, then UNCONFIRMED, also of a vehicle without a load part, then CONFIRMED (R95). -/
theorem eval_evaluatedVehicle : (evaluatedVehicle p v).eval =
    if hasMember p v .unsteady then .unsteady
    else if (memberParts p v).isEmpty || hasMember p v .unconfirmed then .unconfirmed else .confirmed := rfl

theorem evaluatedVehicle_unsteady (h : ∃ x ∈ memberParts p v, x.common.settlement = .unsteady) :
    (evaluatedVehicle p v).eval = .unsteady ∧ (evaluatedVehicle p v).unsteadySource = true := by
  rw [eval_evaluatedVehicle, unsteadySource_evaluatedVehicle, hasMember_iff.mpr h]
  exact ⟨rfl, rfl⟩

theorem evaluatedVehicle_steady (h : ∀ x ∈ memberParts p v, x.common.settlement ≠ .unsteady) :
    (evaluatedVehicle p v).unsteadySource = false
    ∧ ((memberParts p v = [] ∨ ∃ x ∈ memberParts p v, x.common.settlement = .unconfirmed) →
        (evaluatedVehicle p v).eval = .unconfirmed)
    ∧ (memberParts p v ≠ [] → (∀ x ∈ memberParts p v, x.common.settlement ≠ .unconfirmed) →
        (evaluatedVehicle p v).eval = .confirmed) := by
  rw [eval_evaluatedVehicle, unsteadySource_evaluatedVehicle, hasMember_eq_false_iff.mpr h]
  refine ⟨rfl, fun hu => (if_neg Bool.false_ne_true).trans (if_pos ?_), fun hne hu => ?_⟩
  · rw [Bool.or_eq_true, List.isEmpty_iff, hasMember_iff]
    exact hu
  · rw [hasMember_eq_false_iff.mpr hu, List.isEmpty_eq_false_iff.mpr hne]
    rfl

end

/-! ### A vehicle is made (R93) -/

section

variable {s : State} {p : Passage}

/-- Replaces the vehicles of a number (R93). -/
def replaceVehicle (v : Vehicle) (l : List Vehicle) : List Vehicle := l.map fun x => if x.number = v.number then v else x

/-- Of two replacements of the same number the later stands. -/
theorem replaceVehicle_replaceVehicle {v w : Vehicle} (h : w.number = v.number) (l : List Vehicle) :
    replaceVehicle w (replaceVehicle v l) = replaceVehicle w l := by
  unfold replaceVehicle
  rw [List.map_map]
  refine List.map_congr_left fun x _ => ?_
  dsimp only [Function.comp]
  by_cases hx : x.number = v.number <;> simp [hx, h]

theorem passage_putVehicle (hp : s.passage = some p) (v : Vehicle) :
    (s.putVehicle v).passage = some { p with vehicles := replaceVehicle v p.vehicles } := by
  unfold State.putVehicle
  rw [passage_onPassage, hp]
  rfl

/-- An evaluation replaces the vehicle by the evaluated one (R95). -/
theorem passage_evaluateVehicle (hp : s.passage = some p) (v : Vehicle) :
    (s.evaluateVehicle v).passage = some { p with vehicles := replaceVehicle (evaluatedVehicle p v) p.vehicles } := by
  unfold State.evaluateVehicle
  rw [hp]
  exact (passage_judgeVehicle _ _).trans (passage_putVehicle hp _)

/-- VEH, seeing to a vehicle, replaces it by the assessed one (R94 to R96). -/
theorem passage_refreshVehicle (hp : s.passage = some p) (v : Vehicle) :
    (s.refreshVehicle v).passage = some { p with vehicles := replaceVehicle (assessedVehicle p v) p.vehicles } := by
  have hput := passage_putVehicle hp (computeVehicle p v)
  unfold State.refreshVehicle assessedVehicle
  rw [hp]
  dsimp only
  split
  · next h =>
    have hnumber : (evaluatedVehicle p (computeVehicle p v)).number = (computeVehicle p v).number := rfl
    rw [if_pos (show loadComplete p v = true from h), passage_evaluateVehicle hput, ← replaceVehicle_replaceVehicle hnumber]
    rfl
  · next h => rw [if_neg (show ¬ loadComplete p v = true from h), hput]

variable (code n : Nat) (e : Bool)

/-- With a full list a vehicle is counted and its axles passed over, and VEHICLES_TRUNCATED is set (R93). -/
theorem makeVehicle_full (hp : s.passage = some p) (h : 512 ≤ p.vehicles.length) : s.makeVehicle code n e = { s with passage := some { p with
      vehicleCount := min 65535 (p.vehicleCount + 1), segmentStart := p.segmentStart + n, flags := { p.flags with vehiclesTruncated := true } } } := by
  unfold State.makeVehicle
  rw [hp]
  dsimp only
  rw [if_neg (show ¬ p.vehicles.length < Config.vehicleListDepth from Nat.not_lt.mpr h), satInc_eq_min]
  rfl

/-- With room in the list a vehicle is recorded, numbers its axles and is assessed (R93). -/
theorem passage_makeVehicle_room (hp : s.passage = some p) (h : p.vehicles.length < 512) {v : Vehicle}
    (hv : v = newVehicle (min 65535 (p.vehicleCount + 1)) code p.segmentStart n e) :
    (s.makeVehicle code n e).passage = some { p with
      vehicleCount := min 65535 (p.vehicleCount + 1), segmentStart := p.segmentStart + n,
      vehicles := replaceVehicle (assessedVehicle p v) (p.vehicles ++ [v]), axles := numberAxles v p.axles } := by
  unfold State.makeVehicle
  rw [hp]
  dsimp only
  rw [if_pos (show p.vehicles.length < Config.vehicleListDepth from h), satInc_eq_min, show Config.counterMax = 65535 from rfl, ← hv, passage_refreshVehicle rfl,
    assessedVehicle_congr (q := p) (parts_numberAxles v p.axles)]

/-- The last of a list that ends in a vehicle's number is what replaces it. -/
theorem getLast?_replaceVehicle {v w : Vehicle} (h : w.number = v.number) (l : List Vehicle) :
    (replaceVehicle w (l ++ [v])).getLast? = some w := by
  unfold replaceVehicle
  rw [List.map_append, List.map_singleton, if_pos h.symm, List.getLast?_concat]

/-- What a vehicle's making leaves in either case (R91, R93). -/
theorem makeVehicle_next (hp : s.passage = some p) : ∃ q, (s.makeVehicle code n e).passage = some q
    ∧ q.axles.length = p.axles.length ∧ q.segmentStart = p.segmentStart + n := by
  by_cases h : p.vehicles.length < 512
  · refine ⟨_, passage_makeVehicle_room code n e hp h rfl, ?_, rfl⟩
    unfold numberAxles
    exact List.length_map _
  · rw [makeVehicle_full code n e hp (Nat.not_lt.mp h)]
    exact ⟨_, rfl, rfl, rfl⟩

/-! ### An attempt of the segmenter (R89) -/

variable {closing : Bool}

/-- With no axle left the segmenter is done (R89). -/
theorem segment_done (hp : s.passage = some p) (h : p.axles.length < p.segmentStart) (k : Nat) :
    s.segment closing (k + 1) = s := by
  rw [State.segment, hp]
  exact if_pos h

/-- A step that waits ends the attempt (R89). -/
theorem segment_wait (hp : s.passage = some p) (h : p.segmentStart ≤ p.axles.length)
    (hw : segmentStep closing p p.segmentStart (typesOf s.tables) = .wait) (k : Nat) : s.segment closing (k + 1) = s := by
  rw [State.segment, hp]
  refine (if_neg (Nat.not_lt.mpr h)).trans ?_
  rw [hw]

/-- A step that makes a vehicle goes on from the axle after it (R89). -/
theorem segment_make {code n : Nat} {e : Bool} (hp : s.passage = some p) (h : p.segmentStart ≤ p.axles.length)
    (hm : segmentStep closing p p.segmentStart (typesOf s.tables) = .make code n e) (k : Nat) :
    s.segment closing (k + 1) = (s.makeVehicle code n e).segment closing k := by
  rw [State.segment, hp]
  refine (if_neg (Nat.not_lt.mpr h)).trans ?_
  rw [hm]

theorem tables_makeVehicle (s : State) : (s.makeVehicle code n e).tables = s.tables :=
  (measured_makeVehicle (measured_self s) code n e).tables

/-- Fuel beyond one vehicle for each axle that remains changes nothing (R89). -/
theorem segment_fuel {k : Nat} (hp : s.passage = some p) (ht : ∀ t ∈ typesOf s.tables, 1 ≤ t.axles)
    (hk : p.axles.length + 1 - p.segmentStart ≤ k) : s.segment closing (k + 1) = s.segment closing k := by
  induction k generalizing s p with
  | zero => rw [segment_done hp (by omega), State.segment]
  | succ k ih =>
    by_cases hle : p.segmentStart ≤ p.axles.length
    · cases hstep : segmentStep closing p p.segmentStart (typesOf s.tables) with
      | wait => rw [segment_wait hp hle hstep, segment_wait hp hle hstep]
      | make code n e =>
        obtain ⟨q, hq, haxles, hstart⟩ := makeVehicle_next code n e hp
        have hpos := axles_pos_of_segmentStep ht hstep
        rw [segment_make hp hle hstep, segment_make hp hle hstep]
        exact ih hq (by rw [tables_makeVehicle]; exact ht) (by omega)
    · rw [segment_done hp (Nat.not_le.mp hle), segment_done hp (Nat.not_le.mp hle)]

theorem segmentAttempt_eq (hp : s.passage = some p) : s.segmentAttempt closing = s.segment closing (p.axles.length + 1) := by
  unfold State.segmentAttempt State.axleNumbers
  rw [hp]
  dsimp only
  rw [List.length_range']

/-- With no axle left an attempt does nothing (R89). -/
theorem segmentAttempt_done (hp : s.passage = some p) (h : p.axles.length < p.segmentStart) : s.segmentAttempt closing = s := by
  rw [segmentAttempt_eq hp, segment_done hp h]

/-- A step that waits ends the attempt (R89). -/
theorem segmentAttempt_wait (hp : s.passage = some p) (h : p.segmentStart ≤ p.axles.length)
    (hw : segmentStep closing p p.segmentStart (typesOf s.tables) = .wait) : s.segmentAttempt closing = s := by
  rw [segmentAttempt_eq hp, segment_wait hp h hw]

/-- A step that makes a vehicle is followed by an attempt from the axle after it (R89). -/
theorem segmentAttempt_make {code n : Nat} {e : Bool} (hp : s.passage = some p) (h : p.segmentStart ≤ p.axles.length)
    (ht : ∀ t ∈ typesOf s.tables, 1 ≤ t.axles)
    (hm : segmentStep closing p p.segmentStart (typesOf s.tables) = .make code n e) :
    s.segmentAttempt closing = (s.makeVehicle code n e).segmentAttempt closing := by
  obtain ⟨q, hq, haxles, hstart⟩ := makeVehicle_next code n e hp
  have hpos := axles_pos_of_segmentStep ht hm
  have hfuel : q.axles.length + 1 - q.segmentStart ≤ q.axles.length := by omega
  rw [segmentAttempt_eq hp, segment_make hp h hm, segmentAttempt_eq hq,
    segment_fuel hq (by rw [tables_makeVehicle]; exact ht) hfuel, haxles]

end

end Sys2Proof.Machine
end

section
/-! PROOFS. O55: the contexts of the measuring windows: pacing instants, opening and closing, and how a sample is attributed and fares. -/

namespace Sys2Proof.Machine

variable {s : State} {p : Passage}

/-! ### The current passage -/

/-- With a passage current, a change of it is written out. -/
theorem onPassage_some (hp : s.passage = some p) (f : Passage → Passage) : s.onPassage f = { s with passage := some (f p) } := by
  unfold State.onPassage
  rw [hp]
  rfl

/-- The record of an axle of a passage after that record is changed. -/
theorem passageAxle_modify {i : Nat} {a : AxleRecord} (h : p.axle i = some a) (f : AxleRecord → AxleRecord) :
    ({ p with axles := p.axles.modify (i - 1) f } : Passage).axle i = some (f a) := by
  unfold Passage.axle at h ⊢
  split at h
  · cases h
  · next hi => rw [if_neg hi, List.getElem?_modify_eq, h]; rfl

/-- Measuring makes no axle record and removes none. -/
theorem Measured.axleNumbers {b : State} (h : Measured b s) : s.axleNumbers = b.axleNumbers := by
  unfold State.axleNumbers
  cases hb : b.passage with
  | none =>
    have hnone := h.moved
    rw [hb] at hnone
    rw [Option.map_eq_none_iff.mp hnone]
  | some p =>
    obtain ⟨q, hq, hm⟩ := h.passage hb
    have hlength := congrArg (fun x : Passage => x.axles.length) hm
    simp only [Passage.moved, List.length_map] at hlength
    rw [hq]
    dsimp only
    rw [hlength]

/-! ### Pacing instants (R52) -/

/-- At a pacing instant the closes come first, then the openings, each in increasing axle number (R52). -/
theorem paceWindow_eq (hp : s.passage = some p) (t : LoopTime) (n : Nat) (w : Window) : s.paceWindow t (n, w)
    = forEach (List.range' 1 p.axles.length) (State.openContext n w t)
        (forEach (List.range' 1 p.axles.length) (State.closeBeyond n w t) s) := by
  have hnumbers : s.axleNumbers = List.range' 1 p.axles.length := by
    unfold State.axleNumbers
    rw [hp]
  have hclosed : (forEach s.axleNumbers (State.closeBeyond n w t) s).axleNumbers = s.axleNumbers :=
    (measured_forEach _ (fun i _ ht => measured_closeBeyond ht n w t i) (measured_self s)).axleNumbers
  unfold State.paceWindow
  dsimp only
  rw [hclosed, hnumbers]

/-! ### Opening a context (R53, R54) -/

section

variable {n i : Nat} {w : Window} {t : LoopTime} {c : Context}

theorem openContext_none (hp : s.passage = some p) (h : (s.axle i).bind (s.newContext p n w t) = none) :
    s.openContext n w t i = s := by
  unfold State.openContext
  rw [hp]
  dsimp only
  rw [h]

/-- With room in the table the new context joins it (R54). -/
theorem openContext_room (hp : s.passage = some p) (h : (s.axle i).bind (s.newContext p n w t) = some c) (hl : p.contexts.length < 48) :
    s.openContext n w t i = { s with passage := some { p with contexts := p.contexts ++ [c] } } := by
  unfold State.openContext
  rw [hp]
  dsimp only
  rw [h]
  exact (if_pos hl).trans (onPassage_some hp _)

/-- The passage after a context is lost to a full table: counted, and marked on the axle's record (R54). -/
def Passage.loseContext (n : Nat) (w : Window) (i : Nat) (p : Passage) : Passage :=
  { p with
    axles := p.axles.modify (i - 1) (Machine.loseContext n w)
    counters := { p.counters with lostContexts := bump p.counters.lostContexts } }

/-- At a full table the context is lost (R54). -/
theorem openContext_full (hp : s.passage = some p) (h : (s.axle i).bind (s.newContext p n w t) = some c) (hl : 48 ≤ p.contexts.length) :
    s.openContext n w t i = { s with passage := some (p.loseContext n w i) } := by
  have hlost : (s.onAxle i (loseContext n w)).passage = some { p with axles := p.axles.modify (i - 1) (loseContext n w) } := by
    unfold State.onAxle
    rw [passage_onPassage, hp]
    rfl
  unfold State.openContext
  rw [hp]
  dsimp only
  rw [h]
  exact (if_neg (Nat.not_lt.mpr hl)).trans (onPassage_some hlost _)

/-- A lost context leaves its mark, and LOST_CONTEXT for its window's kind and rail (R54). -/
theorem loseContext_marks (n : Nat) (w : Window) (a : AxleRecord) :
    (loseContext n w a).lostWindows = a.lostWindows ++ [n]
    ∧ (w.kind = .weigh → (loseContext n w a).lostWeigh = a.lostWeigh.set w.rail true)
    ∧ (w.kind = .impact → (loseContext n w a).lostImpact = a.lostImpact.set w.rail true)
    ∧ (w.kind = .scan → (loseContext n w a).lostScan = a.lostScan.set w.rail true) := by
  unfold loseContext
  cases w.kind with
  | weigh => exact ⟨rfl, fun _ => rfl, nofun, nofun⟩
  | impact => exact ⟨rfl, nofun, fun _ => rfl, nofun⟩
  | scan => exact ⟨rfl, nofun, nofun, fun _ => rfl⟩
  | mark => exact ⟨rfl, nofun, nofun, nofun⟩

/-- What a lost context leaves of the passage (R54). -/
theorem openContext_full_marks (hp : s.passage = some p) (h : (s.axle i).bind (s.newContext p n w t) = some c)
    (hl : 48 ≤ p.contexts.length) : ∃ q, s.openContext n w t i = { s with passage := some q }
      ∧ q.contexts = p.contexts ∧ q.counters.lostContexts = min 65535 (p.counters.lostContexts + 1)
      ∧ ∀ a, p.axle i = some a → ∃ b, q.axle i = some b ∧ b.lostWindows = a.lostWindows ++ [n]
        ∧ (w.kind = .weigh → b.lostWeigh = a.lostWeigh.set w.rail true)
        ∧ (w.kind = .impact → b.lostImpact = a.lostImpact.set w.rail true)
        ∧ (w.kind = .scan → b.lostScan = a.lostScan.set w.rail true) :=
  ⟨p.loseContext n w i, openContext_full hp h hl, rfl, bump_eq_min _,
    fun a ha => ⟨loseContext n w a, passageAxle_modify ha _, loseContext_marks n w a⟩⟩

theorem forwardSpeed_eq_some_iff {d : Direction} {e : HistEntry} {v : Nat} :
    forwardSpeed d e = some v ↔ e.dir = d ∧ e.speed = some v := by
  unfold forwardSpeed
  split
  · next h => exact ⟨fun hv => ⟨h, hv⟩, fun hv => hv.2⟩
  · next h => exact ⟨nofun, fun hv => absurd hv.1 h⟩

theorem inWindow_iff {z : Int} : inWindow w z = true ↔ w.lower ≤ z ∧ z < w.upper := by
  simp [inWindow]

/-- The context that an axle opens on its governing crossing, with its newest crossing kept as settling crossing if that is another (R53, R60). -/
def State.openedContext (s : State) (n : Nat) (w : Window) (a : AxleRecord) (g newest : HistEntry) (v : Nat) : Context where
  axle := a.number
  window := n
  kind := w.kind
  rail := w.rail
  basis := ⟨g.wt, g.time, v⟩
  entries := w.channels.map s.openEntry
  flags := ⟨false, false, false, false⟩
  settling := if newest = g then none else some (settlingOf newest)

/-- The conditions of R53 but for room in the table, on the governing and the newest crossing. -/
structure State.Opens (s : State) (p : Passage) (n : Nat) (w : Window) (t : LoopTime) (a : AxleRecord) (g newest : HistEntry)
    (v : Nat) : Prop where
  governs : governing a.history t = some g
  isNewest : a.history.getLast? = some newest
  basis : forwardSpeed p.dir g = some v
  forward : ∃ u, forwardSpeed p.dir newest = some u
  inside : inWindow w (positionFrom s.tables g t) = true
  fresh : (s.contextOf a.number n).isNone = true
  kept : n ∉ a.lostWindows

/-- An axle opens a context where R53 is met, and no other (R53). -/
theorem newContext_eq_some_iff {a : AxleRecord} : s.newContext p n w t a = some c ↔
    ∃ g newest v, s.Opens p n w t a g newest v ∧ c = s.openedContext n w a g newest v := by
  constructor
  · intro h
    unfold State.newContext at h
    split at h
    · next g newest hg hn =>
      split at h
      · next v u hv hu =>
        split at h
        · next hopen =>
          obtain ⟨hin, hfresh, hkept⟩ := hopen
          exact ⟨g, newest, v, ⟨hg, hn, hv, ⟨u, hu⟩, hin, hfresh, hkept⟩, (Option.some.inj h).symm⟩
        · cases h
      · cases h
    · cases h
  · rintro ⟨g, newest, v, ⟨hg, hn, hv, ⟨u, hu⟩, hin, hfresh, hkept⟩, rfl⟩
    unfold State.newContext
    rw [hg, hn]
    dsimp only
    rw [hv, hu]
    exact if_pos ⟨hin, hfresh, hkept⟩

/-- The conditions of R53 one by one: both crossings forward with a speed, the position in the window, no context and no lost-context mark. -/
theorem opens_iff {a : AxleRecord} {g newest : HistEntry} {v : Nat} : s.Opens p n w t a g newest v ↔
    governing a.history t = some g ∧ a.history.getLast? = some newest ∧ g.dir = p.dir ∧ g.speed = some v ∧ newest.dir = p.dir
      ∧ newest.speed.isSome = true ∧ w.lower ≤ positionFrom s.tables g t ∧ positionFrom s.tables g t < w.upper
      ∧ s.contextOf a.number n = none ∧ n ∉ a.lostWindows := by
  constructor
  · rintro ⟨hg, hn, hv, ⟨u, hu⟩, hin, hfresh, hkept⟩
    obtain ⟨hgdir, hgspeed⟩ := forwardSpeed_eq_some_iff.mp hv
    obtain ⟨hndir, hnspeed⟩ := forwardSpeed_eq_some_iff.mp hu
    obtain ⟨hlow, hhigh⟩ := inWindow_iff.mp hin
    exact ⟨hg, hn, hgdir, hgspeed, hndir, by rw [hnspeed]; rfl, hlow, hhigh, Option.isNone_iff_eq_none.mp hfresh, hkept⟩
  · rintro ⟨hg, hn, hgdir, hgspeed, hndir, hnspeed, hlow, hhigh, hfresh, hkept⟩
    obtain ⟨u, hu⟩ := Option.isSome_iff_exists.mp hnspeed
    exact ⟨hg, hn, forwardSpeed_eq_some_iff.mpr ⟨hgdir, hgspeed⟩, ⟨u, forwardSpeed_eq_some_iff.mpr ⟨hndir, hu⟩⟩,
      inWindow_iff.mpr ⟨hlow, hhigh⟩, Option.isNone_iff_eq_none.mpr hfresh, hkept⟩

/-! ### Closing a context (R52, R59, R63) -/

variable {a : AxleRecord}

theorem closeBeyond_eq (hp : s.passage = some p) (ha : p.axle i = some a) (hc : s.contextOf i n = some c) :
    s.closeBeyond n w t i = if (predicted s.tables a t).any (beyondWindow p.dir w) then s.closeComplete c t else s := by
  have haxle : s.axle i = some a := by
    unfold State.axle
    rw [hp]
    exact ha
  unfold State.closeBeyond
  rw [hp, hc, haxle, Option.bind_some]
  cases predicted s.tables a t <;> rfl

/-- A context of an axle beyond the window is closed (R52). -/
theorem closeBeyond_beyond (hp : s.passage = some p) (ha : p.axle i = some a) (hc : s.contextOf i n = some c) {y : Int}
    (hy : predicted s.tables a t = some y) (hb : beyondWindow p.dir w y = true) : s.closeBeyond n w t i = s.closeComplete c t := by
  rw [closeBeyond_eq hp ha hc, hy]
  exact if_pos hb

/-- A context of an axle that is not known to be beyond the window stays open (R52). -/
theorem closeBeyond_inside (hp : s.passage = some p) (ha : p.axle i = some a) (hc : s.contextOf i n = some c)
    (h : ∀ y, predicted s.tables a t = some y → beyondWindow p.dir w y = false) : s.closeBeyond n w t i = s := by
  rw [closeBeyond_eq hp ha hc, (Option.any_eq_false _ _).mpr h]
  rfl

/-- A context that leaves the table: those of another axle or window stay (R54). -/
theorem dropContext_eq (s : State) (i n : Nat) : s.dropContext i n
    = s.onPassage fun p => { p with contexts := p.contexts.filter fun x => ¬ (x.axle = i ∧ x.window = n) } := by
  have hkeep : (fun x : Context => !isContext i n x) = fun x => decide (¬ (x.axle = i ∧ x.window = n)) := by
    funext x
    rw [decide_not, Bool.decide_and]
    rfl
  unfold State.dropContext
  rw [hkeep]

variable {k : PartKind} {u : State}

/-- A new result of a CONFIRMED part is discarded (R59). -/
theorem closeComplete_confirmed (hk : partKindOf c.kind = some k) (hu : u = s.dropContext c.axle c.window)
    (h : u.confirmedPart c.axle k c.rail = true) : s.closeComplete c t = u := by
  unfold State.closeComplete
  rw [← hu, hk]
  exact if_pos h

/-- A part stored where none is CONFIRMED is settled at once against a settling crossing that is kept (R59, R63). -/
theorem closeComplete_stored (hk : partKindOf c.kind = some k) (hu : u = s.dropContext c.axle c.window)
    (h : u.confirmedPart c.axle k c.rail = false) :
    (c.settling = none → s.closeComplete c t = u.storePart c t k)
    ∧ ∀ x, c.settling = some x → s.closeComplete c t = (u.storePart c t k).settlePart c.axle x (k, c.rail) := by
  unfold State.closeComplete
  rw [← hu, hk]
  dsimp only
  rw [h]
  exact ⟨fun hs => by rw [hs]; rfl, fun x hs => by rw [hs]; rfl⟩

end

/-! ### Attribution (R55, R56, R58) -/

section

variable {e : ChannelEntry} {y : LineSample}

/-- A CRIB channel's sample goes to the axle on its plateau (R56). -/
theorem attributeSample_crib (hp : s.passage = some p) (he : channelEntry s.tables y.channel = some e) (hk : e.kind = .crib) :
    s.attributeSample y
      = s.giveSample e y (axlesAt s.tables p y.time fun z => e.platLow ≤ z && z < e.platHigh) fun _ => true := by
  unfold State.attributeSample
  rw [hp, he]
  dsimp only
  rw [hk]

theorem attributeSample_ambient (hp : s.passage = some p) (he : channelEntry s.tables y.channel = some e) (hk : e.kind = .ambient) :
    s.attributeSample y = s := by
  unfold State.attributeSample
  rw [hp, he]
  dsimp only
  rw [hk]

/-- A SCANNER channel's sample goes to the axle in its rail's SCAN window, if that window lists the channel (R58). -/
theorem attributeSample_scanner (hp : s.passage = some p) (he : channelEntry s.tables y.channel = some e) (hk : e.kind = .scanner)
    {n : Nat} {w : Window} (hw : s.windows.find? (fun x => x.2.kind == .scan && x.2.rail == e.rail) = some (n, w)) :
    s.attributeSample y = if y.channel ∈ w.channels
      then s.giveSample e y (axlesAt s.tables p y.time (inWindow w)) (fun c => c.window == n) else s := by
  unfold State.attributeSample
  rw [hp, he]
  dsimp only
  rw [hk]
  dsimp only
  rw [hw]

theorem mem_axlesAt_iff {g : Tables} {t : LoopTime} {test : Int → Bool} {j : Nat} : j ∈ axlesAt g p t test ↔
    ∃ a ∈ p.axles, a.number = j ∧ ∃ z, predicted g a t = some z ∧ test z = true := by
  unfold axlesAt
  rw [List.mem_filterMap]
  refine exists_congr fun a => and_congr_right fun _ => ?_
  rw [← Option.any_eq_true]
  split
  · next h => simp [h]
  · next h => simp [h]

/-- One axle found takes the sample into its contexts (R56, R58). -/
theorem giveSample_one (hp : s.passage = some p) (j : Nat) (only : Context → Bool) : s.giveSample e y [j] only
    = { s with passage := some { p with
          contexts := p.contexts.map fun c => if c.axle = j ∧ only c = true then s.offerSample e y c else c } } :=
  onPassage_some hp _

/-- Two axles or more are a conflict (R56, R58). -/
theorem giveSample_conflict (hp : s.passage = some p) (j k : Nat) (l : List Nat) (only : Context → Bool) :
    s.giveSample e y (j :: k :: l) only = { s with passage := some { p with
      counters := { p.counters with conflicts := min 65535 (p.counters.conflicts + 1) } } } := by
  rw [← bump_eq_min]
  exact onPassage_some hp _

/-! ### How a sample fares (R57) -/

variable {x : ContextEntry}

theorem sampleFate_fixed (h : x.fixed = true) : s.sampleFate e y x = .fixed := if_pos h

/-- An entry that is not fixed judges the sample by the channel's health (R57). -/
theorem sampleFate_excluded (h : x.fixed = false) (ha : admitted (s.effHealth y.channel) = false) :
    s.sampleFate e y x = .excluded (exclusionOf (s.effHealth y.channel)) := by
  unfold State.sampleFate
  dsimp only
  rw [h, ha]
  rfl

/-- A CRIB channel gives its force (R57). -/
theorem sampleFate_crib (h : x.fixed = false) (ha : admitted (s.effHealth y.channel) = true) (hk : e.kind = .crib) :
    (∀ v, y.force = some v → s.sampleFate e y x = .taken v) ∧ (y.force = none → s.sampleFate e y x = .excluded .notReady) := by
  unfold State.sampleFate
  dsimp only
  rw [h, ha, hk]
  exact ⟨fun v hv => by rw [hv]; rfl, fun hn => by rw [hn]; rfl⟩

/-- A SCANNER channel gives its temperature where it is settled (R57, R121). -/
theorem sampleFate_scanner (h : x.fixed = false) (ha : admitted (s.effHealth y.channel) = true) (hk : e.kind = .scanner) :
    (settledAt (s.brg.records.get e.rail) y.time = false → s.sampleFate e y x = .unsettled)
    ∧ (settledAt (s.brg.records.get e.rail) y.time = true →
      (∀ v, y.temp = some v → s.sampleFate e y x = .taken v) ∧ (y.temp = none → s.sampleFate e y x = .refused)) := by
  unfold State.sampleFate
  dsimp only
  rw [h, ha, hk]
  refine ⟨fun hs => by rw [hs]; rfl, fun hs => ?_⟩
  rw [hs]
  exact ⟨fun v hv => by rw [hv]; rfl, fun hn => by rw [hn]; rfl⟩

variable {v : Int}

/-- A value taken adds to the entry's sum and count (R57). -/
theorem applyFate_taken (v : Int) (t : LoopTime) (x : ContextEntry) : (applyFate (.taken v) t x).sum = x.sum + v
    ∧ (applyFate (.taken v) t x).count = min 4294967295 (x.count + 1) := ⟨rfl, satInc_eq_min _ _⟩

/-- A value above the peak, or the first, becomes the peak (R57). -/
theorem applyFate_taken_higher (t : LoopTime) (h : ∀ z, x.peak = some z → z < v) :
    (applyFate (.taken v) t x).peak = some v ∧ (applyFate (.taken v) t x).peakTime = some t := by
  have hall : x.peak.all (· < v) = true := (Option.all_eq_true _ _).mpr fun z hz => decide_eq_true (h z hz)
  exact ⟨if_pos hall, if_pos hall⟩

/-- A value not above the peak leaves it (R57). -/
theorem applyFate_taken_lower (t : LoopTime) {z : Int} (hz : x.peak = some z) (h : v ≤ z) :
    (applyFate (.taken v) t x).peak = some z ∧ (applyFate (.taken v) t x).peakTime = x.peakTime := by
  have hall : ¬ x.peak.all (· < v) = true := by
    rw [hz]
    exact fun hlt => absurd (of_decide_eq_true hlt) (Int.not_lt.mpr h)
  exact ⟨(if_neg hall).trans hz, if_neg hall⟩

end

end Sys2Proof.Machine
end

section
/-! PROOFS. O55: each clause by the lemmas on the function it speaks of. -/

namespace Sys2Proof.Machine

/-- What a vehicle recorded with room in the list leaves of the passage (R93). -/
theorem makeVehicle_room {s : State} {p : Passage} (code n : Nat) (e : Bool) (hp : s.passage = some p) (h : p.vehicles.length < 512)
    {v : Vehicle} (hv : v = newVehicle (min 65535 (p.vehicleCount + 1)) code p.segmentStart n e) :
    ∃ q, (s.makeVehicle code n e).passage = some q ∧ q.vehicleCount = min 65535 (p.vehicleCount + 1)
      ∧ q.segmentStart = p.segmentStart + n ∧ q.flags = p.flags ∧ q.vehicles.length = p.vehicles.length + 1
      ∧ q.vehicles.getLast? = some (assessedVehicle p v)
      ∧ q.axles = p.axles.map fun a =>
          if p.segmentStart ≤ a.number ∧ a.number < p.segmentStart + n then { a with vehicle := some (min 65535 (p.vehicleCount + 1)) }
          else a := by
  refine ⟨_, passage_makeVehicle_room code n e hp h hv, rfl, rfl, rfl, ?_, getLast?_replaceVehicle (number_assessedVehicle p v) _, ?_⟩
  · unfold replaceVehicle
    rw [List.length_map, List.length_append]
    rfl
  · subst hv
    rfl

/-- Settles O55: the impact and bearing parts, the vehicles, and the contexts with their samples. -/
theorem levelsAndEvaluations : Obligations.LevelsAndEvaluations := by
  refine ⟨fun m low peak dose ratio => ⟨computedLevel_eq_critical_iff, computedLevel_eq_alarm_iff, computedLevel_eq_watch_iff⟩,
    fun m load p => ⟨levelRank_le_recomputeImpact, level_recomputeImpact_of_lt, level_recomputeImpact_of_le,
      levelHeld_recomputeImpact, rfl, rfl, rfl, rfl⟩,
    fun nMin rHot tAbs ambient notOpen c t l b hb hl => ?bearing,
    fun s c t p a hp ha => ⟨_, axle_storePart_bearing t hp ha, rfl⟩,
    fun closing p j => ⟨fun a v ha => readSpacing_value ha, fun a ha => readSpacing_absent ha, readSpacing_pending⟩,
    fun closing p i t => ⟨fun k n hk hn h => judgeType_at hk hn h, fun h => ?gap⟩,
    fun closing p i types => ⟨segmentStep_of_fail, fun pre t post hsplit h => hsplit ▸ segmentStep_first h⟩,
    fun s closing p types hp htypes ht => ?segment,
    fun s p code n count e v hp hcount hv => ?made,
    fun p v l => ⟨fun h => computeVehicle_some (memberLoads_some h),
      fun ⟨k, h1, h2, h⟩ => computeVehicle_none (memberLoads_none h1 h2 h), rfl, rfl, loadComplete_iff⟩,
    fun p v => ⟨evaluatedVehicle_unsteady, evaluatedVehicle_steady, rfl, rfl⟩,
    fun r t => ⟨settledAt_base_iff t, levelAt_of_settledAt t⟩,
    fun s n w t i p hp => ⟨paceWindow_eq hp t n w, openContext_none hp,
      fun c hc => ⟨openContext_room hp hc, openContext_full_marks hp hc⟩, fun a c => ?opened⟩,
    fun s n w t i p a c hp ha hc => ⟨fun y => closeBeyond_beyond hp ha hc, closeBeyond_inside hp ha hc⟩,
    fun s c t k u hk hu => ?closed,
    fun s y p e hp he => ⟨attributeSample_crib hp he, attributeSample_ambient hp he, fun hk n w hw => ?scanned,
      fun test j => mem_axlesAt_iff,
      fun only => ⟨rfl, fun j => giveSample_one hp j only, fun j k l => giveSample_conflict hp j k l only⟩⟩,
    fun s e y x => ⟨sampleFate_fixed, sampleFate_excluded,
      fun h ha => ⟨sampleFate_crib h ha, sampleFate_scanner h ha⟩,
      fun v t => ⟨(applyFate_taken v t x).1, (applyFate_taken v t x).2, applyFate_taken_higher t, fun z => applyFate_taken_lower t⟩⟩⟩
  case bearing =>
    subst hb
    obtain rfl : l = contributing nMin c := hl
    refine ⟨rfl, contributing_bearingPart .., rfl, fun h => ?_, bearingPart_of_some rHot tAbs ambient notOpen t,
      fun a x ha hx => ?_, rise_bearingPart_none rHot tAbs ambient notOpen t, isHot_iff rHot tAbs⟩
    · rw [← noReadingReason_eq]
      exact bearingPart_of_none rHot tAbs ambient notOpen t h
    · rw [rise_bearingPart, hx, ha]
      rfl
  case gap =>
    rw [judgeType_of_fits h]
    exact ⟨judgeGap_end, judgeGap_inside⟩
  case segment =>
    subst htypes
    exact ⟨segmentAttempt_done hp, fun h => ⟨segmentAttempt_wait hp h, fun code n e => segmentAttempt_make hp h ht⟩⟩
  case made =>
    subst hcount
    exact ⟨makeVehicle_full code n e hp, fun h => makeVehicle_room code n e hp h hv⟩
  case opened =>
    rw [newContext_eq_some_iff]
    simp only [opens_iff, and_assoc]
    rfl
  case closed =>
    have hdrop : u = s.dropContext c.axle c.window := hu.trans (dropContext_eq s c.axle c.window).symm
    refine ⟨closeComplete_confirmed hk hdrop, fun h => ?_⟩
    obtain ⟨hstored, hsettled⟩ := closeComplete_stored (t := t) hk hdrop h
    exact ⟨hstored, hsettled, fun a ha => axle_storePart t ha⟩
  case scanned =>
    rw [attributeSample_scanner hp he hk hw]
    exact ⟨fun h => if_pos h, fun h => if_neg h⟩

end Sys2Proof.Machine
end

section
/-! PROOFS. O52: the speed correction is the conversion of R15 by the points as a conversion table, so its clauses are those of the conversion. -/

namespace Sys2Proof.Machine

/-! ### An interpolated value lies between its neighbours (R3, R15) -/

/-- A share of a nonnegative amount, rounded, is no more than the amount (R3). -/
theorem divRound_share {d u : Int} {b : Nat} (hd : 0 ≤ d) (hu : 0 ≤ u) (hub : u < b) :
    0 ≤ divRound (d * u) b ∧ divRound (d * u) b ≤ d := by
  have hdu := Int.mul_nonneg hd hu
  have hb : (0 : Int) < b := by omega
  obtain ⟨hle, hlt⟩ := divRound_nearest (a := d * u) (b := b) (by omega) hdu
  have hshare : d * u ≤ d * b := Int.mul_le_mul_of_nonneg_left (Int.le_of_lt hub) hd
  generalize divRound (d * u) b = q at hle hlt
  constructor
  · have hpos : 0 * (b : Int) < 2 * (q + 1) * b := by rw [Int.zero_mul]; omega
    have := Int.lt_of_mul_lt_mul_right hpos (Int.le_of_lt hb)
    omega
  · have htop : 2 * q * b ≤ (2 * d + 1) * b := by rw [Int.add_mul, Int.one_mul, Int.mul_assoc 2 d]; omega
    have := Int.le_of_mul_le_mul_right htop hb
    omega

/-- Between two neighbouring points the interpolated output lies within any range that holds both outputs. -/
theorem interpolate_mem {p q : ConvPoint} {x lo hi : Int} (hp : lo ≤ p.output ∧ p.output ≤ hi) (hq : lo ≤ q.output ∧ q.output ≤ hi)
    (hpx : p.input ≤ x) (hxq : x < q.input) : lo ≤ interpolate p q x ∧ interpolate p q x ≤ hi := by
  have hu : 0 ≤ x - p.input := by omega
  have hub : x - p.input < (q.input - p.input).toNat := by omega
  unfold interpolate
  rcases Int.le_total p.output q.output with h | h
  · have := divRound_share (d := q.output - p.output) (by omega) hu hub
    omega
  · have := divRound_share (d := p.output - q.output) (by omega) hu hub
    rw [← Int.neg_sub p.output, Int.neg_mul, divRound_neg]
    omega

/-- Along the points the conversion stays within any range that holds all their outputs. -/
theorem convertFrom_mem {x lo hi : Int} {a : ConvPoint} {l : List ConvPoint} (h : ∀ p ∈ a :: l, lo ≤ p.output ∧ p.output ≤ hi)
    (hx : a.input ≤ x) : lo ≤ (convertFrom x a l).value ∧ (convertFrom x a l).value ≤ hi := by
  induction l generalizing a with
  | nil => exact h a List.mem_cons_self
  | cons b rest ih =>
    unfold convertFrom
    split
    · next hxb => exact interpolate_mem (h a List.mem_cons_self) (h b (by simp)) hx hxb
    · next hxb => exact ih (fun p hp => h p (List.mem_cons_of_mem _ hp)) (by omega)

/-! ### The speed correction as a conversion (R69) -/

/-- A point of the speed correction table as a point of a conversion table. -/
def SpeedPoint.toConv (p : SpeedPoint) : ConvPoint := ⟨p.speed, p.factor⟩

/-- The input is the speed. -/
@[simp] theorem SpeedPoint.toConv_input (p : SpeedPoint) : p.toConv.input = p.speed := rfl

/-- The output is the factor. -/
@[simp] theorem SpeedPoint.toConv_output (p : SpeedPoint) : p.toConv.output = p.factor := rfl

/-- The model's interpolation of the factor is the interpolation of R15. -/
theorem interpolate_toConv (a b : SpeedPoint) (v : Nat) : interpolate a.toConv b.toConv v
    = a.factor + divRound (((b.factor : Int) - a.factor) * ((v : Int) - a.speed)) (b.speed - a.speed) := by
  have hb : ((b.speed : Int) - a.speed).toNat = b.speed - a.speed := by omega
  simp only [interpolate, SpeedPoint.toConv_input, SpeedPoint.toConv_output, hb]

/-- Along the points the factor is the output of the conversion. -/
theorem factorFrom_eq (v : Nat) (a : SpeedPoint) (l : List SpeedPoint) :
    factorFrom v a l = (convertFrom v a.toConv (l.map SpeedPoint.toConv)).value := by
  induction l generalizing a with
  | nil => rfl
  | cons b rest ih =>
    rw [List.map_cons, convertFrom, factorFrom, SpeedPoint.toConv_input, ih]
    split
    · next h => rw [if_pos (Int.ofNat_lt.mpr h), interpolate_toConv]
    · next h => rw [if_neg (mt Int.ofNat_lt.mp h)]

variable {a : SpeedPoint} {l : List SpeedPoint} {v : Nat}

/-- A table with all its points set: up to its first point that point's factor, else along the points (R69). -/
theorem speedFactor_map_some (a : SpeedPoint) (l : List SpeedPoint) (v : Nat) :
    speedFactor ((a :: l).map some) v = if v ≤ a.speed then (a.factor : Int) else factorFrom v a l := by
  have e : ((a :: l).map some).filterMap id = a :: l := by simp [List.filterMap_map]
  unfold speedFactor
  rw [e]

/-- What the points convert a speed to is its factor. -/
theorem speedFactor_of_convert (h : Ascending (l.map SpeedPoint.toConv)) {y : Converted}
    (hy : convert ((l.map SpeedPoint.toConv).map some) v = some y) : speedFactor (l.map some) v = y.value := by
  cases l with
  | nil => simp [convert] at hy
  | cons a l =>
    rw [speedFactor_map_some]
    rcases Nat.lt_trichotomy v a.speed with hv | rfl | hv
    · rw [if_pos (Nat.le_of_lt hv)]
      rw [convert_below h rfl (Int.ofNat_lt.mpr hv)] at hy
      cases hy
      rfl
    · rw [if_pos (Nat.le_refl _)]
      have hp := convert_at_point h (List.mem_map_of_mem (List.mem_cons_self (a := a) (l := l)))
      cases hp.symm.trans hy
      rfl
    · rw [if_neg (Nat.not_le.mpr hv), factorFrom_eq]
      rw [List.map_cons, convert_map_some h, SpeedPoint.toConv_input, if_neg (Int.not_lt.mpr (Int.ofNat_le.mpr (Nat.le_of_lt hv)))] at hy
      cases hy
      rfl

/-- Neighbouring speeds that increase make ascending points. -/
theorem ascending_toConv (h : ∀ i a b, l[i]? = some a → l[i + 1]? = some b → a.speed < b.speed) :
    Ascending (l.map SpeedPoint.toConv) := by
  intro i p q hp hq
  rw [List.getElem?_map, Option.map_eq_some_iff] at hp hq
  obtain ⟨a, ha, rfl⟩ := hp
  obtain ⟨b, hb, rfl⟩ := hq
  exact Int.ofNat_lt.mpr (h i a b ha hb)

/-- Up to its first speed a table answers its first factor (R69). -/
theorem speedFactor_below (ha : l[0]? = some a) (hv : v ≤ a.speed) : speedFactor (l.map some) v = a.factor := by
  cases l with
  | nil => simp at ha
  | cons b rest =>
    obtain rfl : b = a := by simpa using ha
    rw [speedFactor_map_some, if_pos hv]

/-- From its last speed on a table answers its last factor (R69). -/
theorem speedFactor_last (h : Ascending (l.map SpeedPoint.toConv)) (ha : l.getLast? = some a) (hv : a.speed ≤ v) :
    speedFactor (l.map some) v = a.factor :=
  speedFactor_of_convert h
    (convert_last h (p := a.toConv) (by rw [List.getLast?_map, ha]; rfl) (Int.ofNat_le.mpr hv))

/-- Between two neighbouring points a table answers the interpolated factor (R69). -/
theorem speedFactor_between (h : Ascending (l.map SpeedPoint.toConv)) {i : Nat} {b : SpeedPoint} (ha : l[i]? = some a)
    (hb : l[i + 1]? = some b) (hav : a.speed ≤ v) (hvb : v < b.speed) : speedFactor (l.map some) v
      = a.factor + divRound (((b.factor : Int) - a.factor) * ((v : Int) - a.speed)) (b.speed - a.speed) := by
  have hp : (l.map SpeedPoint.toConv)[i]? = some a.toConv := by rw [List.getElem?_map, ha]; rfl
  have hq : (l.map SpeedPoint.toConv)[i + 1]? = some b.toConv := by rw [List.getElem?_map, hb]; rfl
  rw [← interpolate_toConv]
  exact speedFactor_of_convert h (convert_between h hp hq (Int.ofNat_le.mpr hav) (Int.ofNat_lt.mpr hvb))

/-- At a point's speed a table answers the point's factor (R69). -/
theorem speedFactor_at_point (h : Ascending (l.map SpeedPoint.toConv)) (ha : a ∈ l) :
    speedFactor (l.map some) a.speed = a.factor :=
  speedFactor_of_convert h (convert_at_point h (List.mem_map_of_mem ha))

/-- The factor lies within any range that holds the factors of all the points. -/
theorem speedFactor_mem {lo hi : Nat} (hl : l ≠ []) (h : ∀ p ∈ l, lo ≤ p.factor ∧ p.factor ≤ hi) :
    (lo : Int) ≤ speedFactor (l.map some) v ∧ speedFactor (l.map some) v ≤ hi := by
  obtain ⟨a, rest, rfl⟩ := List.exists_cons_of_ne_nil hl
  have hconv : ∀ p ∈ (a :: rest).map SpeedPoint.toConv, (lo : Int) ≤ p.output ∧ p.output ≤ hi := by
    intro p hp
    obtain ⟨b, hb, rfl⟩ := List.mem_map.mp hp
    obtain ⟨hlo, hhi⟩ := h b hb
    exact ⟨Int.ofNat_le.mpr hlo, Int.ofNat_le.mpr hhi⟩
  rw [speedFactor_map_some]
  split
  · exact hconv a.toConv List.mem_cons_self
  · next hv =>
    rw [factorFrom_eq]
    exact convertFrom_mem hconv (Int.ofNat_le.mpr (Nat.le_of_not_le hv))

/-- Settles O52: the nine points ascend, and each clause is the conversion's. -/
theorem speedFactorInterpolates : Obligations.SpeedFactorInterpolates := by
  intro points v hlen hasc hrange
  have h : Ascending (points.map SpeedPoint.toConv) := ascending_toConv fun i a b ha hb =>
    hasc i (hlen ▸ (List.getElem?_eq_some_iff.mp hb).1) a b ha hb
  have hlast : points.getLast? = points[8]? := by rw [List.getLast?_eq_getElem?, hlen]
  have hne : points ≠ [] := List.ne_nil_of_length_pos (by omega)
  refine ⟨fun a ha hv => speedFactor_below ha hv, fun a ha hv => speedFactor_last h (hlast.trans ha) hv,
    fun i a b ha hb hav hvb => speedFactor_between h ha hb hav hvb, fun a ha hv => ?_, speedFactor_mem hne hrange⟩
  subst hv
  exact speedFactor_at_point h ha

end Sys2Proof.Machine
end

section
/-! PROOFS. O53, O54: a load part with a raw load, and the axle load of two wheel loads. -/

namespace Sys2Proof.Machine

/-! ### Wheel loads (R75) -/

/-- A load part with a raw load holds the corrected load within the range of a force, the factor, and LOAD_CLAMPED outside that range (R75). -/
theorem loadPart_of_raw {site : List Nat} {speed : List (Option SpeedPoint)} {c : Context} {t : LoopTime} {w : Int}
    (h : (loadPart site speed c t).raw = some w) :
    (loadPart site speed c t).load = some (clampInt (-32768) 32767 (divRound (w * speedFactor speed c.basis.speed) 32768))
    ∧ (loadPart site speed c t).factor = some (speedFactor speed c.basis.speed).toNat
    ∧ (loadPart site speed c t).clamped = decide (divRound (w * speedFactor speed c.basis.speed) 32768 < -32768
        ∨ 32767 < divRound (w * speedFactor speed c.basis.speed) 32768) := by
  obtain ⟨r, hr, rfl⟩ := Option.map_eq_some_iff.mp h
  simp only [loadPart, hr]
  exact ⟨rfl, rfl, (Bool.decide_or _ _).symm⟩

/-- Settles O53: the load is the corrected load held to its range, and each clause says on which side it lies. -/
theorem loadPartsCorrectForSpeed : Obligations.LoadPartsCorrectForSpeed := by
  intro site speed c t w hraw _
  obtain ⟨hload, hfactor, hclamped⟩ := loadPart_of_raw hraw
  obtain ⟨hlo, hhi⟩ := clampInt_mem (lo := -32768) (hi := 32767) (by decide) (divRound (w * speedFactor speed c.basis.speed) 32768)
  refine ⟨_, hload, hfactor, hlo, hhi, fun h1 h2 => ⟨clampInt_of_mem h1 h2, ?_⟩, fun h => ⟨clampInt_of_lt h, ?_⟩,
    fun h => ⟨clampInt_of_gt (by decide) h, ?_⟩⟩
  · exact hclamped.trans (decide_eq_false (by omega))
  · exact hclamped.trans (decide_eq_true (.inl h))
  · exact hclamped.trans (decide_eq_true (.inr h))

/-! ### Axle loads (R79) -/

variable {a : AxleRecord}

/-- A rail's wheel load is that of its load part (R79). -/
theorem wheelLoad_of_part {r : Rail} {p : LoadPart} (h : a.load.get r = some p) : wheelLoad a r = p.load := by
  rw [wheelLoad, h]
  rfl

/-- Without a load part a rail has no wheel load (R79). -/
theorem wheelLoad_of_none {r : Rail} (h : a.load.get r = none) : wheelLoad a r = none := by
  rw [wheelLoad, h]
  rfl

/-- The sum of two wheel loads (R79). -/
theorem loadSum_some {l r : Int} (hl : wheelLoad a .left = some l) (hr : wheelLoad a .right = some r) : loadSum a = some (l + r) := by
  rw [loadSum, hl, hr]
  rfl

/-- There is no sum where a rail has no wheel load (R79). -/
theorem loadSum_none {r : Rail} (h : wheelLoad a r = none) : loadSum a = none := by
  cases r with
  | left => rw [loadSum, h]; rfl
  | right => simp [loadSum, h]

/-- With a sum the axle load is that sum, 0 below 0, and NEGATIVE_LOAD says which (R79). -/
theorem weighAxle_of_sum {x : Int} (h : loadSum a = some x) :
    (weighAxle a).axleLoad = some x.toNat ∧ (weighAxle a).negative = decide (x < 0) := by
  simp only [weighAxle, h]
  exact ⟨rfl, rfl⟩

/-- Without a sum there is no axle load and no NEGATIVE_LOAD (R79). -/
theorem weighAxle_of_no_sum (h : loadSum a = none) : (weighAxle a).axleLoad = none ∧ (weighAxle a).negative = false := by
  simp only [weighAxle, h]
  exact ⟨rfl, rfl⟩

/-- Settles O54: the axle load by the sum of the wheel loads, by its sign, and absent where a rail gives none. -/
theorem axleLoadsAddTheWheels : Obligations.AxleLoadsAddTheWheels := by
  intro a
  constructor
  · intro p q l r hp hq hl hr
    have hsum := loadSum_some ((wheelLoad_of_part (r := .left) hp).trans hl) ((wheelLoad_of_part (r := .right) hq).trans hr)
    obtain ⟨hload, hneg⟩ := weighAxle_of_sum hsum
    rw [hload, hneg]
    refine ⟨fun h => ⟨?_, decide_eq_true h⟩, fun h => ⟨rfl, decide_eq_false (by omega)⟩, fun _ _ _ _ w hw => ?_⟩
    · rw [Int.toNat_of_nonpos (by omega)]
    · cases hw
      omega
  · have absent {r : Rail} (h : wheelLoad a r = none) := weighAxle_of_no_sum (loadSum_none h)
    rintro (h | h | ⟨p, hp, h⟩ | ⟨p, hp, h⟩)
    · exact absent (r := .left) (wheelLoad_of_none h)
    · exact absent (r := .right) (wheelLoad_of_none h)
    · exact absent ((wheelLoad_of_part (r := .left) hp).trans h)
    · exact absent ((wheelLoad_of_part (r := .right) hp).trans h)

end Sys2Proof.Machine
end

section
/-! PROOFS. O56: how a raise enters the alarm list, by the four cases of R136, and what the bearing checks raise. -/

namespace Sys2Proof.Machine

/-! ### A raise and the alarm list (R136, R137) -/

section

variable {a : AlarmList} {l m : List AlarmEntry} {r : Raise} {t : LoopTime} {e : AlarmEntry}

/-- What a greater value makes of an entry: the raise replaces all but the raise time of an entry of its key (R136). -/
def changeEntry (r : Raise) (x : AlarmEntry) : AlarmEntry := if sameKey r x then entryOf r x.raiseTime else x

/-- An entry has the key of the raise it was made by (R136). -/
theorem sameKey_entryOf (r : Raise) (t : LoopTime) : sameKey r (entryOf r t) = true := by simp [sameKey, entryOf]

theorem changeEntry_of_sameKey {x : AlarmEntry} (h : sameKey r x = true) : changeEntry r x = entryOf r x.raiseTime := if_pos h

theorem enterRaise_new (hf : l.find? (sameKey r) = none) (hl : l.length < 128) :
    enterRaise r t l = .created (l ++ [entryOf r t]) := by
  unfold enterRaise
  rw [hf]
  exact if_pos hl

theorem enterRaise_full (hf : l.find? (sameKey r) = none) (hl : 128 ≤ l.length) : enterRaise r t l = .lost := by
  unfold enterRaise
  rw [hf]
  exact if_neg (Nat.not_lt.mpr hl)

theorem enterRaise_lower (hf : l.find? (sameKey r) = some e) (hv : r.value ≤ e.value) : enterRaise r t l = .unchanged := by
  unfold enterRaise
  rw [hf]
  exact if_neg (Int.not_lt.mpr hv)

theorem enterRaise_greater (hf : l.find? (sameKey r) = some e) (hv : e.value < r.value) :
    enterRaise r t l = .changed (l.map (changeEntry r)) := by
  unfold enterRaise
  rw [hf]
  exact if_pos hv

/-- Whatever a raise does to the entries, it lifts the highest severity of its class (R137). -/
theorem AlarmList.highest_raise (a : AlarmList) (r : Raise) (t : LoopTime) :
    (a.raise r t).highest = liftSeverity (alarmClass r.kind) (severity r.value r.threshold) a.highest := by
  unfold AlarmList.raise
  split <;> rfl

/-- A raise leaves the number of the passage (R135). -/
theorem AlarmList.passage_raise (a : AlarmList) (r : Raise) (t : LoopTime) : (a.raise r t).passage = a.passage := by
  unfold AlarmList.raise
  split <;> rfl

theorem raise_created (h : enterRaise r t a.entries = .created m) : (a.raise r t).entries = m ∧ (a.raise r t).lost = a.lost := by
  unfold AlarmList.raise
  rw [h]
  exact ⟨rfl, rfl⟩

theorem raise_changed (h : enterRaise r t a.entries = .changed m) : (a.raise r t).entries = m ∧ (a.raise r t).lost = a.lost := by
  unfold AlarmList.raise
  rw [h]
  exact ⟨rfl, rfl⟩

theorem raise_unchanged (h : enterRaise r t a.entries = .unchanged) :
    (a.raise r t).entries = a.entries ∧ (a.raise r t).lost = a.lost := by
  unfold AlarmList.raise
  rw [h]
  exact ⟨rfl, rfl⟩

theorem raise_lost (h : enterRaise r t a.entries = .lost) :
    (a.raise r t).entries = a.entries ∧ (a.raise r t).lost = min 65535 (a.lost + 1) := by
  unfold AlarmList.raise
  rw [h]
  exact ⟨rfl, bump_eq_min a.lost⟩

/-- A greater value stands in the list under its key, with the raise time that the entry had (R136). -/
theorem raise_greater (hf : a.entries.find? (sameKey r) = some e) (hv : e.value < r.value) :
    (a.raise r t).lost = a.lost ∧ (a.raise r t).entries.length = a.entries.length
      ∧ ∃ x ∈ (a.raise r t).entries, sameKey r x = true ∧ x.value = r.value ∧ x.source = r.source
        ∧ x.raiseTime = e.raiseTime := by
  obtain ⟨hentries, hlost⟩ := raise_changed (enterRaise_greater (t := t) hf hv)
  have hmem : entryOf r e.raiseTime ∈ a.entries.map (changeEntry r) :=
    List.mem_map.mpr ⟨e, List.mem_of_find?_eq_some hf, changeEntry_of_sameKey (List.find?_some hf)⟩
  rw [hentries]
  exact ⟨hlost, List.length_map _, _, hmem, sameKey_entryOf r _, rfl, rfl, rfl⟩

end

/-! ### One bearing part (R126, R127, R130) -/

section

variable {s : State} {i : Nat} {p : BearingPart}

/-- The natural part of an integer, its negative values held to 0. -/
theorem toNat_max_zero (x : Int) : (max x 0).toNat = x.toNat := by omega

/-- The hot index without a rise is that of the temperature (R126). -/
theorem hotIndex_none (rHot tAbs : Nat) (tb : Int) :
    hotIndex rHot tAbs tb none = min 65535 (divRoundNat (1000 * (max tb 0).toNat) tAbs) := by
  rw [toNat_max_zero]
  exact congrArg (min 65535) (Nat.zero_max _)

/-- The hot index with a rise is the greater of the two (R126). -/
theorem hotIndex_some (rHot tAbs : Nat) (tb r : Int) : hotIndex rHot tAbs tb (some r)
    = min 65535 (max (divRoundNat (1000 * (max r 0).toNat) rHot) (divRoundNat (1000 * (max tb 0).toNat) tAbs)) := by
  rw [toNat_max_zero, toNat_max_zero]
  rfl

theorem alarmIf_of_true {b : Bool} (h : b = true) (r : Raise) : s.alarmIf b r = s.alarm r := if_pos h

theorem alarmIf_of_false {b : Bool} (h : b = false) (r : Raise) : s.alarmIf b r = s := by
  rw [h]
  rfl

/-- A hot part raises HOT as it is stored (R126). -/
theorem evaluateHot_hot (r : Rail) {x : Peak} (hh : p.hot = true) (hx : p.peak = some x) : s.evaluateHot i r p = s.alarm ⟨.hot, i, some r,
    hotIndex (s.threshold 10) (s.threshold 11) x.value p.rise, 1000, .provisional, some ⟨i, .bearing, r⟩⟩ := by
  unfold State.evaluateHot
  rw [hx]
  exact alarmIf_of_true hh _

/-- A part that is not hot, or holds no reading, raises no HOT (R126). -/
theorem evaluateHot_of_not_hot (r : Rail) (h : p.hot = false ∨ p.peak = none) : s.evaluateHot i r p = s := by
  unfold State.evaluateHot
  split
  · next x hx => exact alarmIf_of_false (h.resolve_right (by rw [hx]; exact nofun)) _
  · rfl

/-- A raise by the rise of a part that is not hot, at a limit: the form that WARM and OUTLIER share (R127, R130). -/
def State.alarmOfRise (p : BearingPart) (limit : Int) (raise : Int → Raise) (s : State) : State :=
  match p.rise with
  | some z => s.alarmIf (!p.hot && decide (limit ≤ z)) (raise z)
  | none => s

theorem evaluateWarm_eq (s : State) (i : Nat) (r : Rail) (p : BearingPart) : s.evaluateWarm i r p
    = s.alarmOfRise p (s.threshold 12) fun z => ⟨.warm, i, some r, z, s.threshold 12, p.common.settlement, some ⟨i, .bearing, r⟩⟩ := rfl

theorem evaluateOutlier_eq (s : State) (rail : Rail) (limit : Int) (i : Nat) (p : BearingPart) : s.evaluateOutlier rail limit (i, p)
    = s.alarmOfRise p limit fun z => ⟨.outlier, i, some rail, z, limit, p.common.settlement, some ⟨i, .bearing, rail⟩⟩ := rfl

/-- A part that is not hot raises where its rise reaches the limit (R127, R130). -/
theorem alarmOfRise_reached {limit z : Int} (raise : Int → Raise) (hz : p.rise = some z) (hh : p.hot = false) (hl : limit ≤ z) :
    s.alarmOfRise p limit raise = s.alarm (raise z) := by
  unfold State.alarmOfRise
  rw [hz]
  exact alarmIf_of_true (by rw [hh, decide_eq_true hl]; rfl) _

/-- A hot part, one without a rise, and one whose rise is below the limit raise nothing (R127, R130). -/
theorem alarmOfRise_not_reached {limit : Int} (raise : Int → Raise)
    (h : p.hot = true ∨ p.rise = none ∨ ∃ z, p.rise = some z ∧ z < limit) : s.alarmOfRise p limit raise = s := by
  unfold State.alarmOfRise
  split
  · next z hz =>
    refine alarmIf_of_false ?_ _
    rcases h with hh | hn | ⟨y, hy, hlt⟩
    · rw [hh]
      rfl
    · rw [hz] at hn
      cases hn
    · rw [hz] at hy
      cases hy
      rw [decide_eq_false (Int.not_le.mpr hlt), Bool.and_false]
  · rfl

end

/-! ### The two parts of an axle (R128) -/

section

variable {s : State} {i : Nat} {a : AxleRecord}

/-- Parts are jointly PROVISIONAL where one of them is (R81). -/
theorem jointSettlement_provisional_iff {x y : Settlement} :
    jointSettlement x y = .provisional ↔ x = .provisional ∨ y = .provisional := by
  cases x <;> cases y <;> decide

/-- The joint source state of two settled parts: the worse of theirs (R81). -/
theorem jointSettlement_settled {x y : Settlement} (hx : x ≠ .provisional) (hy : y ≠ .provisional) : jointSettlement x y
    = if x = .unsteady ∨ y = .unsteady then .unsteady
      else if x = .unconfirmed ∨ y = .unconfirmed then .unconfirmed else .confirmed :=
  if_neg (not_or.mpr ⟨hx, hy⟩)

section

variable {l r : BearingPart} {x y : Int} (ha : s.axle i = some a) (hl : a.bearing.left = some l) (hr : a.bearing.right = some r)
  (hx : l.rise = some x) (hy : r.rise = some y)

include ha hl hr hx hy

/-- DIFF of an axle whose parts both hold rises (R128). -/
theorem evaluateDiff_of_rises : s.evaluateDiff i
    = s.alarmIf (jointSettlement l.common.settlement r.common.settlement != .provisional && decide (s.threshold 13 ≤ (x - y).natAbs))
        ⟨.diff, i, none, (x - y).natAbs, s.threshold 13, jointSettlement l.common.settlement r.common.settlement, none⟩ := by
  unfold State.evaluateDiff
  simp only [ha, hl, hr, hx, hy, Option.bind_some]

/-- A PROVISIONAL part holds DIFF back (R128). -/
theorem evaluateDiff_provisional (h : l.common.settlement = .provisional ∨ r.common.settlement = .provisional) :
    s.evaluateDiff i = s := by
  rw [evaluateDiff_of_rises ha hl hr hx hy]
  refine alarmIf_of_false ?_ _
  rw [jointSettlement_provisional_iff.mpr h]
  rfl

/-- Settled parts whose rises lie less than D_axle apart raise no DIFF (R128). -/
theorem evaluateDiff_near (h : (x - y).natAbs < s.threshold 13) : s.evaluateDiff i = s := by
  rw [evaluateDiff_of_rises ha hl hr hx hy]
  exact alarmIf_of_false (by rw [decide_eq_false (Nat.not_le.mpr h), Bool.and_false]) _

/-- Settled parts whose rises lie D_axle or more apart raise DIFF with their joint source state (R128). -/
theorem evaluateDiff_apart (hsl : l.common.settlement ≠ .provisional) (hsr : r.common.settlement ≠ .provisional)
    (h : s.threshold 13 ≤ (x - y).natAbs) : s.evaluateDiff i = s.alarm ⟨.diff, i, none, (x - y).natAbs, s.threshold 13,
      (if l.common.settlement = .unsteady ∨ r.common.settlement = .unsteady then .unsteady
        else if l.common.settlement = .unconfirmed ∨ r.common.settlement = .unconfirmed then .unconfirmed
        else .confirmed), none⟩ := by
  have hsettled : jointSettlement l.common.settlement r.common.settlement ≠ .provisional :=
    mt jointSettlement_provisional_iff.mp (not_or.mpr ⟨hsl, hsr⟩)
  rw [evaluateDiff_of_rises ha hl hr hx hy, alarmIf_of_true (by rw [bne_iff_ne.mpr hsettled, decide_eq_true h]; rfl),
    jointSettlement_settled hsl hsr]

end

/-- An axle with a side that holds no rise raises no DIFF (R128). -/
theorem evaluateDiff_of_no_rise (ha : s.axle i = some a)
    (h : a.bearing.left.bind (·.rise) = none ∨ a.bearing.right.bind (·.rise) = none) : s.evaluateDiff i = s := by
  unfold State.evaluateDiff
  rw [ha, Option.bind_some, Option.bind_some]
  split
  · next l r hl hr =>
    rw [hl, hr] at h
    split
    · next x y hx hy => exact absurd h (by simp [hx, hy])
    · rfl
  · rfl

/-- A bearing part after its settlement (R62). -/
def BearingPart.settled (st : Settlement) (err : Option Nat) (p : BearingPart) : BearingPart :=
  { p with common := { p.common with settlement := st, posError := err } }

/-- The settlement of a bearing part writes it into its record, and WARM and DIFF are judged on what stands there (R62, R65, R127, R128). -/
theorem settleAs_bearing (ha : s.axle i = some a) {r : Rail} {p : BearingPart} (hp : a.bearing.get r = some p) (st : Settlement)
    (err : Option Nat) : ∃ u : State, u.axle i = some { a with bearing := a.bearing.set r (some (p.settled st err)) } ∧ u.tables = s.tables
      ∧ s.settleAs i .bearing r st err = (u.evaluateWarm i r (p.settled st err)).evaluateDiff i := by
  obtain ⟨_, _, hi, _⟩ := axle_at ha
  let u := (s.onAxle i (onCommon .bearing r fun c => { c with settlement := st, posError := err })).recordSettlement ⟨i, .bearing, r⟩ st
  have hu : u.axle i = some { a with bearing := a.bearing.set r (some (p.settled st err)) } := by
    refine (axle_onAxle s i i _ hi).trans ?_
    rw [ha, Option.map_some, if_pos rfl]
    unfold onCommon
    rw [hp]
    rfl
  have hpart : ((u.axle i).bind fun b => b.bearing.get r) = some (p.settled st err) := by
    rw [hu]
    exact railGet_set _ _ _
  refine ⟨u, hu, rfl, ?_⟩
  unfold State.settleAs
  dsimp only
  rw [hpart]

end

/-! ### The train of one side (R129, R130) -/

section

variable {s : State} {p : Passage}

/-- The rises of the reference set: those of its parts that hold one (R129). -/
theorem referenceRises_eq (parts : List (Nat × BearingPart)) : referenceRises parts
    = (parts.filter fun x => decide (x.2.common.settlement = .confirmed ∧ x.2.hot = false
        ∧ x.2.common.flags.suspect = false ∧ x.2.notOpen = false)).filterMap fun x => x.2.rise := by
  rw [List.filterMap_filter]
  unfold referenceRises inReferenceSet
  congr 1
  funext ⟨_, b⟩
  cases hr : b.rise <;> simp [hr, and_assoc]

/-- A reference set of fewer than 8 skips the check of its side (R129). -/
theorem outlierSide_skipped (rail : Rail) (hp : s.passage = some p) (h : (referenceRises (bearingParts p.axles rail)).length < 8) :
    s.outlierSide rail = { s with passage := some { p with flags := { p.flags with outlierSkipped := true } } } := by
  unfold State.outlierSide
  rw [hp]
  exact (if_pos h).trans (onPassage_some hp _)

/-- A reference set of 8 or more judges every part of its side against the mean and Δ_train (R129, R130). -/
theorem outlierSide_judged (rail : Rail) (hp : s.passage = some p) (h : 8 ≤ (referenceRises (bearingParts p.axles rail)).length) :
    s.outlierSide rail = forEach (bearingParts p.axles rail) (State.evaluateOutlier rail
      (divRound (sumInt (referenceRises (bearingParts p.axles rail))) (referenceRises (bearingParts p.axles rail)).length
        + s.threshold 14)) s := by
  unfold State.outlierSide
  rw [hp]
  exact if_neg (Nat.not_lt.mpr h)

end

/-- Settles O56: the cases of a raise, and each bearing check by its lemmas. -/
theorem raisesEnterTheList : Obligations.RaisesEnterTheList := by
  unfold Obligations.RaisesEnterTheList
  refine ⟨fun a r t => ⟨fun hf hl => raise_created (enterRaise_new hf hl), fun hf hl => raise_lost (enterRaise_full hf hl),
      fun e hf hv => raise_unchanged (enterRaise_lower hf hv), fun e hf hv => raise_greater hf hv,
      a.highest_raise r t, a.passage_raise r t⟩,
    fun rHot tAbs tb r => ⟨hotIndex_none rHot tAbs tb, hotIndex_some rHot tAbs tb r⟩,
    fun s i r p => ⟨fun x hh hx => evaluateHot_hot r hh hx, evaluateHot_of_not_hot r,
      fun z hz hh hl => (evaluateWarm_eq s i r p).trans (alarmOfRise_reached _ hz hh hl),
      fun h => (evaluateWarm_eq s i r p).trans (alarmOfRise_not_reached _ h)⟩,
    fun s i a ha => ⟨fun l r x y hl hr hx hy => ⟨fun hsl hsr => ⟨evaluateDiff_apart ha hl hr hx hy hsl hsr,
        evaluateDiff_near ha hl hr hx hy⟩, evaluateDiff_provisional ha hl hr hx hy⟩,
      evaluateDiff_of_no_rise ha, fun r st err p hp => settleAs_bearing ha hp st err⟩,
    ?_,
    fun s rail limit i p => ⟨fun z hz hh hl => (evaluateOutlier_eq s rail limit i p).trans (alarmOfRise_reached _ hz hh hl),
      fun h => (evaluateOutlier_eq s rail limit i p).trans (alarmOfRise_not_reached _ h)⟩⟩
  rintro s rail p _ rises hp rfl hrises
  obtain rfl : rises = referenceRises (bearingParts p.axles rail) := hrises.trans (referenceRises_eq _).symm
  exact ⟨outlierSide_skipped rail hp, outlierSide_judged rail hp⟩

end Sys2Proof.Machine
end

section
/-! PROOFS. O60: the shutters by the approach, the close timer and the feedback: what each operation of the Bearing Unit does, then the six rows. -/

namespace Sys2Proof.Machine

variable {s : State} {dt n : Nat} {r : Rail}

/-! ### Opening and closing the shutters (R116 to R118) -/

theorem openShutters_of_closed (h : s.brg.shutter = .closed) : s.openShutters = s.withBrg (openCommand s.pins.feedback) := by
  unfold State.openShutters
  rw [h]

theorem openShutters_of_opened (h : s.brg.shutter = .opened) : s.openShutters = s := by
  unfold State.openShutters
  rw [h]

theorem openShutters_of_closeWait (h : s.brg.shutter = .closeWait) :
    s.openShutters = s.onBrg fun b => { b with shutter := .opened, closeTimer := none } := by
  unfold State.openShutters
  rw [h]

/-- Opening leaves the shutters OPEN (R117). -/
theorem shutter_openShutters (s : State) : s.openShutters.brg.shutter = .opened := by
  cases h : s.brg.shutter with
  | closed => rw [openShutters_of_closed h, brg_withBrg]; rfl
  | opened => rw [openShutters_of_opened h, h]
  | closeWait => rw [openShutters_of_closeWait h]; rfl

/-- Opening shutters that were not OPEN stops the close timer (R116, R117). -/
theorem closeTimer_openShutters (h : s.brg.shutter ≠ .opened) : s.openShutters.brg.closeTimer = none := by
  cases hs : s.brg.shutter with
  | closed => rw [openShutters_of_closed hs, brg_withBrg]; rfl
  | opened => exact absurd hs h
  | closeWait => rw [openShutters_of_closeWait hs]; rfl

/-- An open command starts the open timers where the feedback does not show open, and stops the close timers (R119). -/
theorem timers_openShutters (h : s.brg.shutter = .closed) (r : Rail) :
    s.openShutters.brg.openTimers.get r = (if s.pins.feedback.get r = true then none else some 500000)
      ∧ s.openShutters.brg.closeTimers.get r = none := by
  rw [openShutters_of_closed h, brg_withBrg]
  exact ⟨railGet_map _ _ r, by cases r <;> rfl⟩

theorem closeShutters_of_not_closed (h : s.brg.shutter ≠ .closed) :
    s.closeShutters = s.withBrg (closeCommand s.pins.feedback) := by
  unfold State.closeShutters
  split
  · next hs => exact absurd hs h
  · rfl
  · rfl

/-- A close command stops the close timer and the open timers, and starts the feedback's close timers where it shows open (R116, R118, R119). -/
theorem timers_closeShutters (h : s.brg.shutter ≠ .closed) : s.closeShutters.brg.closeTimer = none
    ∧ ∀ r, s.closeShutters.brg.closeTimers.get r = (if s.pins.feedback.get r = true then some 500000 else none)
      ∧ s.closeShutters.brg.openTimers.get r = none := by
  rw [closeShutters_of_not_closed h, brg_withBrg]
  exact ⟨rfl, fun r => ⟨railGet_map _ _ r, by cases r <;> rfl⟩⟩

/-- With the approach ASSERTED the entry into ARMED opens shutters that were CLOSED (R117). -/
theorem shutter_enterArmed (ha : s.pins.approach = true) (h : s.brg.shutter = .closed) : s.enterArmed.brg.shutter = .opened := by
  have harmed : (s.changeSite .armed).shuttersAtArmed = (s.changeSite .armed).openShutters := by
    unfold State.shuttersAtArmed
    rw [if_pos (show (s.changeSite .armed).pins.approach = true from ha), show (s.changeSite .armed).brg.shutter = .closed from h]
  unfold State.enterArmed
  rw [brg_judgeLines, harmed]
  exact shutter_openShutters _

/-! ### The approach by site state (R117, R118, R180) -/

theorem approachAsserted_opens (h : s.scu.site = .armed ∨ s.scu.site = .closing) : s.approachAsserted = s.openShutters := by
  unfold State.approachAsserted
  rcases h with h | h <;> rw [h]

theorem approachAsserted_aborts (h : s.scu.site = .checking) (hc : s.checkRunning = true) :
    s.approachAsserted = (s.abortCheck .approach).enterArmed := by
  unfold State.approachAsserted
  rw [h]
  exact if_pos hc

theorem approachAsserted_idle (h : s.scu.site = .offline ∨ s.scu.site = .passage) : s.approachAsserted = s := by
  unfold State.approachAsserted
  rcases h with h | h <;> rw [h]

theorem approachReleased_waits (h : s.scu.site = .armed) (ho : s.brg.shutter = .opened) :
    s.approachReleased = s.onBrg fun b => { b with shutter := .closeWait, closeTimer := some 60000000 } := by
  unfold State.approachReleased
  rw [h]
  unfold State.closeWaitApproach
  rw [ho]
  rfl

theorem approachReleased_idle (h : s.scu.site ≠ .armed ∨ s.brg.shutter ≠ .opened) : s.approachReleased = s := by
  unfold State.approachReleased
  split
  · next hs =>
    unfold State.closeWaitApproach
    split
    · next ho => exact absurd ho (h.resolve_left (not_not_intro hs))
    · rfl
    · rfl
  all_goals rfl

/-! ### A feedback timer's fault (R119, R120) -/

/-- No channel places a shutter in the fault set (R140). -/
theorem channelMember_ne_shutterFault (s : State) (c : Nat) (r : Rail) : channelMember s c ≠ some (.shutterFault r) := by
  unfold channelMember
  split
  · exact nofun
  · split
    · split <;> exact nofun
    · exact nofun

/-- SHUTTER_FAULT stands in the fault set exactly where its scanner has a fault (R119, R140). -/
theorem shutterFault_mem_faultSet_iff : .shutterFault r ∈ s.faultSet ↔ (s.brg.faults.get r).isSome = true := by
  cases r <;> simp [State.faultSet, channelMember_ne_shutterFault, nodeMember]

/-- An expired open timer as the Bearing Unit takes it (R119). -/
def openFault (r : Rail) (b : Brg) : Brg :=
  { b with openTimers := b.openTimers.set r none, faults := b.faults.set r (some .fromOpen) }

/-- An expired close timer as the Bearing Unit takes it (R119). -/
def closeFault (r : Rail) (b : Brg) : Brg :=
  { b with closeTimers := b.closeTimers.set r none, faults := b.faults.set r (some .fromClose) }

theorem openTimerExpired_passage (r : Rail) (h : s.scu.site = .passage) :
    s.openTimerExpired r = (s.onBrg (openFault r)).equipmentChanged.onPassage (Passage.setNotOpen r) := if_pos h

theorem openTimerExpired_elsewhere (r : Rail) (h : s.scu.site ≠ .passage) :
    s.openTimerExpired r = (s.onBrg (openFault r)).equipmentChanged := if_neg h

theorem closeTimerFault_eq (s : State) (r : Rail) : s.closeTimerFault r = (s.onBrg (closeFault r)).equipmentChanged := rfl

/-- An expired open timer leaves its scanner in SHUTTER_FAULT and raises EQUIPMENT_CHANGED (R119, R140). -/
theorem openTimerExpired_fault (s : State) (r : Rail) : (s.openTimerExpired r).brg = openFault r s.brg
    ∧ (s.openTimerExpired r).raised .equipmentChanged := by
  have hraised := raised_equipmentChanged_self (s.onBrg (openFault r))
  by_cases h : s.scu.site = .passage
  · rw [openTimerExpired_passage r h]
    exact ⟨(brg_onPassage _ _).trans (brg_equipmentChanged _), raised_congr (rps_onPassage _ _) hraised⟩
  · rw [openTimerExpired_elsewhere r h]
    exact ⟨brg_equipmentChanged _, hraised⟩

/-- The not-open mark of a scanner stands in the passage and in every bearing part of its rail (R120). -/
theorem setNotOpen_marks (r : Rail) (p : Passage) : (p.setNotOpen r).notOpen.get r = true
    ∧ ∀ a ∈ (p.setNotOpen r).axles, ∀ b, a.bearing.get r = some b → b.notOpen = true := by
  refine ⟨railGet_set _ _ _, fun a ha b hb => ?_⟩
  obtain ⟨c, _, rfl⟩ := List.mem_map.mp ha
  obtain ⟨d, _, rfl⟩ := Option.map_eq_some_iff.mp ((railGet_set _ _ _).symm.trans hb)
  rfl

/-- In PASSAGE an expired open timer marks the passage and its bearing parts NOT_OPEN (R120). -/
theorem openTimerExpired_notOpen (r : Rail) (h : s.scu.site = .passage) {p : Passage} (hp : (s.openTimerExpired r).passage = some p) :
    p.notOpen.get r = true ∧ ∀ a ∈ p.axles, ∀ b, a.bearing.get r = some b → b.notOpen = true := by
  rw [openTimerExpired_passage r h] at hp
  obtain ⟨q, _, rfl⟩ := Option.map_eq_some_iff.mp hp
  exact setNotOpen_marks r q

/-- Elsewhere an expired open timer leaves the passage context alone (R120). -/
theorem passage_openTimerExpired (r : Rail) (h : s.scu.site ≠ .passage) : (s.openTimerExpired r).passage = s.passage := by
  rw [openTimerExpired_elsewhere r h]
  exact passage_equipmentChanged _

/-! ### A change of a shutter feedback (R119, R121) -/

section

variable {c : FeedbackChange} {x : FeedbackRecord}

/-- A record with room takes a change at its end (R121). -/
theorem joinFeedback_room (h : x.changes.length < 8) : (joinFeedback c x).changes = x.changes ++ [c] := by
  unfold joinFeedback
  split
  · next hx => rw [hx]; rfl
  · exact congrArg FeedbackRecord.changes (if_pos h)

/-- In a record of eight the oldest change becomes the base (R121). -/
theorem joinFeedback_full {o : FeedbackChange} {more : List FeedbackChange} (hx : x.changes = o :: more) (h : 7 ≤ more.length) :
    joinFeedback c x = ⟨o.isOpen, o.time, more ++ [c]⟩ := by
  have hfull : ¬ (o :: more).length < Config.feedbackDepth := Nat.not_lt.mpr (Nat.succ_le_succ h)
  unfold joinFeedback
  rw [hx]
  exact if_neg hfull

end

section

variable (now : LoopTime) (r : Rail) (isOpen : Bool) (b : Brg)

theorem record_changeFeedback :
    (changeFeedback now r isOpen b).records.get r = joinFeedback ⟨now, isOpen⟩ (b.records.get r) := railGet_set _ _ _

theorem openTimer_changeFeedback (h : isOpen = true) : (changeFeedback now r isOpen b).openTimers.get r = none := by
  subst h
  exact railGet_set _ _ _

theorem closeTimer_changeFeedback (h : isOpen = false) : (changeFeedback now r isOpen b).closeTimers.get r = none := by
  subst h
  exact railGet_set _ _ _

/-- A feedback that agrees with the command lines takes its scanner's fault away (R119). -/
theorem fault_changeFeedback_agrees (h : isOpen = (b.shutter != .closed)) : (changeFeedback now r isOpen b).faults.get r = none :=
  (railGet_set _ _ _).trans (if_pos h.symm)

/-- A feedback that disagrees with the command lines leaves its scanner's fault (R119). -/
theorem fault_changeFeedback_disagrees (h : isOpen ≠ (b.shutter != .closed)) :
    (changeFeedback now r isOpen b).faults.get r = b.faults.get r :=
  (railGet_set _ _ _).trans (if_neg h.symm)

end

/-! ### The inputs -/

/-- Inputs whose approach shows a level already are as they are with that level. -/
theorem pins_setApproach {q : Pins} {b : Bool} (h : q.approach = b) : { q with approach := b } = q := by
  subst h
  rfl

/-- Inputs whose shutter feedback shows a level already are as they are with that level. -/
theorem pins_setFeedback {q : Pins} {b : Bool} (h : q.feedback.get r = b) : { q with feedback := q.feedback.set r b } = q := by
  subst h
  cases r <;> rfl

/-! ### The rows -/

/-- The part after the loop time of a row, with the approach at its new level. -/
def State.approachShows (s : State) (dt : Nat) (b : Bool) : State :=
  { s.elapse dt with pins := { s.pins with approach := b } }

/-- A second assertion of the approach does nothing (R115). -/
theorem exec_approachAssertion_again (hp : s.powered = true) (h : s.pins.approach = true) :
    exec (.approachAssertion dt) s = .next (s.elapse dt) := by
  rw [exec_approachAssertion, pinRow_same s hp dt (by rw [h]; rfl), pins_setApproach h]
  rfl

/-- An assertion of the approach acts by the site state (R117, R180). -/
theorem exec_approachAssertion_new (hp : s.powered = true) (h : s.pins.approach = false) :
    exec (.approachAssertion dt) s = .next (s.approachShows dt true).approachAsserted := by
  rw [exec_approachAssertion]
  exact pinRow_changed s hp dt (by rw [h]; rfl) _ _

/-- A second release of the approach does nothing (R115). -/
theorem exec_approachRelease_again (hp : s.powered = true) (h : s.pins.approach = false) :
    exec (.approachRelease dt) s = .next (s.elapse dt) := by
  rw [exec_approachRelease, pinRow_same s hp dt h, pins_setApproach h]
  rfl

/-- A release of the approach acts by the site state (R118). -/
theorem exec_approachRelease_new (hp : s.powered = true) (h : s.pins.approach = true) :
    exec (.approachRelease dt) s = .next (s.approachShows dt false).approachReleased := by
  rw [exec_approachRelease]
  exact pinRow_changed s hp dt h _ _

/-- An assertion of the approach in ARMED or CLOSING opens the shutters (R117). -/
theorem exec_approachAssertion_opens (hp : s.powered = true) (h : s.pins.approach = false)
    (hs : s.scu.site = .armed ∨ s.scu.site = .closing) : ∃ t, exec (.approachAssertion dt) s = .next t
      ∧ t.pins.approach = true ∧ t.brg.shutter = .opened
      ∧ (s.brg.shutter = .opened → t.brg = (s.elapse dt).brg) ∧ (s.brg.shutter ≠ .opened → t.brg.closeTimer = none)
      ∧ (s.brg.shutter = .closed → ∀ r, t.brg.openTimers.get r = (if s.pins.feedback.get r = true then none else some 500000)
        ∧ t.brg.closeTimers.get r = none)
      ∧ t.scu = (s.elapse dt).scu ∧ t.lif = (s.elapse dt).lif := by
  have hexec := exec_approachAssertion_new (dt := dt) hp h
  rw [approachAsserted_opens (s := s.approachShows dt true) hs] at hexec
  exact ⟨_, hexec, congrArg Pins.approach (pins_openShutters _), shutter_openShutters _,
    fun ho => (congrArg State.brg (openShutters_of_opened (s := s.approachShows dt true) ho) :),
    fun ho => closeTimer_openShutters (s := s.approachShows dt true) ho,
    fun hc => timers_openShutters (s := s.approachShows dt true) hc, scu_openShutters _, lif_openShutters _⟩

/-- An assertion of the approach aborts a running check and enters ARMED (R180). -/
theorem exec_approachAssertion_aborts (hp : s.powered = true) (h : s.pins.approach = false) (hs : s.scu.site = .checking)
    (hc : s.checkRunning = true) : ∃ t, exec (.approachAssertion dt) s = .next t
      ∧ t.pins.approach = true ∧ t.scu.site = .armed ∧ t.scu.check = .aborted .approach
      ∧ t.raised .checkEnded ∧ t.raised .stateChanged ∧ (s.brg.shutter = .closed → t.brg.shutter = .opened) := by
  have hexec := exec_approachAssertion_new (dt := dt) hp h
  rw [approachAsserted_aborts (s := s.approachShows dt true) hs hc] at hexec
  obtain ⟨hsite, hcheck, hended, hchanged, _⟩ := abortCheck_enterArmed (s.approachShows dt true) .approach
  exact ⟨_, hexec, congrArg Pins.approach ((pins_enterArmed _).trans (pins_abortCheck _ _)), hsite, hcheck, hended, hchanged,
    fun hclosed => shutter_enterArmed (s := (s.approachShows dt true).abortCheck .approach)
      (congrArg Pins.approach (pins_abortCheck _ _)) ((congrArg Brg.shutter (brg_abortCheck _ _)).trans hclosed)⟩

/-- The close timer's expiry closes the shutters (R116, R118, R119). -/
theorem exec_closeTimerExpiry_due (hp : s.powered = true) (ht : s.brg.closeTimer = some n) (hn : n ≤ dt)
    (hs : s.brg.shutter ≠ .closed) : ∃ t, exec (.closeTimerExpiry dt) s = .next t
      ∧ t.brg.shutter = .closed ∧ t.brg.closeTimer = none
      ∧ (∀ r, t.brg.closeTimers.get r = (if s.pins.feedback.get r = true then some 500000 else none)
        ∧ t.brg.openTimers.get r = none)
      ∧ t.scu = (s.elapse dt).scu ∧ t.lif = (s.elapse dt).lif ∧ t.passage = (s.elapse dt).passage := by
  obtain ⟨htimer, htimers⟩ := timers_closeShutters (s := s.elapse dt) hs
  exact ⟨_, (exec_closeTimerExpiry s dt).trans
      (timed_when s hp dt (b := fun t => expired t.brg.closeTimer) (expired_tick ht hn)),
    shutter_closeShutters _, htimer, htimers, scu_closeShutters _, lif_closeShutters _, passage_closeShutters _⟩

/-- A feedback open timer's expiry enters SHUTTER_FAULT, and in PASSAGE the rail's parts are NOT_OPEN (R119, R120). -/
theorem exec_feedbackOpenTimerExpiry_due (hp : s.powered = true) (hn : n ≤ dt) (ht : s.brg.openTimers.get r = some n) :
    ∃ t, exec (.feedbackOpenTimerExpiry dt r) s = .next t
      ∧ t.brg.faults.get r = some .fromOpen ∧ t.brg.openTimers.get r = none
      ∧ .shutterFault r ∈ t.faultSet ∧ t.raised .equipmentChanged
      ∧ (s.scu.site = .passage → ∀ p, t.passage = some p → p.notOpen.get r = true
        ∧ ∀ a ∈ p.axles, ∀ b, a.bearing.get r = some b → b.notOpen = true)
      ∧ (s.scu.site ≠ .passage → t.passage = (s.elapse dt).passage) := by
  have hexpired : expired ((s.elapse dt).brg.openTimers.get r) = true := by
    rw [brg_elapse]
    exact (congrArg expired (railGet_map _ _ r)).trans (expired_tick ht hn)
  obtain ⟨hbrg, hraised⟩ := openTimerExpired_fault (s.elapse dt) r
  have hfault : ((s.elapse dt).openTimerExpired r).brg.faults.get r = some .fromOpen := by
    rw [hbrg]
    exact railGet_set _ _ _
  exact ⟨_, (exec_feedbackOpenTimerExpiry s dt r).trans
      (timed_when s hp dt (b := fun t => expired (t.brg.openTimers.get r)) hexpired),
    hfault, by rw [hbrg]; exact railGet_set _ _ _, shutterFault_mem_faultSet_iff.mpr (by rw [hfault]; rfl), hraised,
    fun hs _ hq => openTimerExpired_notOpen (s := s.elapse dt) r hs hq, fun hs => passage_openTimerExpired (s := s.elapse dt) r hs⟩

/-- A feedback close timer's expiry enters SHUTTER_FAULT (R119). -/
theorem exec_feedbackCloseTimerExpiry_due (hp : s.powered = true) (hn : n ≤ dt) (ht : s.brg.closeTimers.get r = some n) :
    ∃ t, exec (.feedbackCloseTimerExpiry dt r) s = .next t
      ∧ t.brg.faults.get r = some .fromClose ∧ t.brg.closeTimers.get r = none
      ∧ .shutterFault r ∈ t.faultSet ∧ t.raised .equipmentChanged ∧ t.passage = (s.elapse dt).passage := by
  have hexpired : expired ((s.elapse dt).brg.closeTimers.get r) = true := by
    rw [brg_elapse]
    exact (congrArg expired (railGet_map _ _ r)).trans (expired_tick ht hn)
  have hbrg : ((s.elapse dt).closeTimerFault r).brg = closeFault r (s.elapse dt).brg := brg_equipmentChanged _
  have hfault : ((s.elapse dt).closeTimerFault r).brg.faults.get r = some .fromClose := by
    rw [hbrg]
    exact railGet_set _ _ _
  exact ⟨_, (exec_feedbackCloseTimerExpiry s dt r).trans
      (timed_when s hp dt (b := fun t => expired (t.brg.closeTimers.get r)) hexpired),
    hfault, by rw [hbrg]; exact railGet_set _ _ _, shutterFault_mem_faultSet_iff.mpr (by rw [hfault]; rfl),
    raised_equipmentChanged_self _, passage_equipmentChanged _⟩

/-- A shutter feedback that keeps its level does nothing (R119). -/
theorem exec_shutterFeedbackChange_same {isOpen : Bool} (hp : s.powered = true) (h : s.pins.feedback.get r = isOpen) :
    exec (.shutterFeedbackChange dt r isOpen) s = .next (s.elapse dt) := by
  rw [exec_shutterFeedbackChange, pinRow_same s hp dt (by rw [h]; exact bne_self_eq_false _), pins_setFeedback h]
  rfl

/-- A change of a shutter feedback acts on the Bearing Unit alone, and on the equipment by it (R119, R121). -/
theorem exec_shutterFeedbackChange_new {isOpen : Bool} (hp : s.powered = true) (h : s.pins.feedback.get r ≠ isOpen) :
    ∃ t, exec (.shutterFeedbackChange dt r isOpen) s = .next t
      ∧ t.pins.feedback.get r = isOpen ∧ t.brg = changeFeedback (later s.now dt) r isOpen (s.elapse dt).brg
      ∧ t.scu = (s.elapse dt).scu ∧ t.lif = (s.elapse dt).lif := by
  refine ⟨_, (exec_shutterFeedbackChange s dt r isOpen).trans
      (pinRow_changed s hp dt (c := fun t => t.pins.feedback.get r != isOpen) (bne_iff_ne.mpr h) _ _), ?_,
    brg_withBrg _ _, scu_withBrg _ _, lif_withBrg _ _⟩
  rw [pins_withBrg]
  exact railGet_set _ _ _

/-- Settles O60: row by row. -/
theorem shuttersFollowApproachAndFeedback : Obligations.ShuttersFollowApproachAndFeedback := by
  unfold Obligations.ShuttersFollowApproachAndFeedback
  refine ⟨fun s dt hp => ⟨exec_approachAssertion_again hp, fun ha => ⟨fun hs => ?_, exec_approachAssertion_opens hp ha,
      exec_approachAssertion_aborts hp ha⟩⟩,
    fun s dt hp => ⟨exec_approachRelease_again hp, fun ha hs ho => ?_, fun ha hs => ?_⟩,
    fun s dt n hp ht hn hs => exec_closeTimerExpiry_due hp ht hn hs,
    fun s dt n r hp hn => ⟨exec_feedbackOpenTimerExpiry_due hp hn, exec_feedbackCloseTimerExpiry_due hp hn⟩,
    fun s dt r isOpen hp => ⟨exec_shutterFeedbackChange_same hp, fun h => ?_⟩⟩
  · exact (exec_approachAssertion_new hp ha).trans (congrArg _ (approachAsserted_idle (s := s.approachShows dt true) hs))
  · exact (exec_approachRelease_new hp ha).trans (congrArg _ (approachReleased_waits (s := s.approachShows dt false) hs ho))
  · exact (exec_approachRelease_new hp ha).trans (congrArg _ (approachReleased_idle (s := s.approachShows dt false) hs))
  · obtain ⟨t, ht, hpin, hbrg, hscu, hlif⟩ := exec_shutterFeedbackChange_new (dt := dt) hp h
    have hrecord := record_changeFeedback (later s.now dt) r isOpen (s.elapse dt).brg
    refine ⟨t, ht, hpin, ?_⟩
    rw [hbrg]
    exact ⟨rfl, openTimer_changeFeedback _ r isOpen _, closeTimer_changeFeedback _ r isOpen _,
      fun hl => (congrArg FeedbackRecord.changes hrecord).trans (joinFeedback_room hl),
      fun o more ho hl => hrecord.trans (joinFeedback_full ho hl),
      fun ha => fault_changeFeedback_agrees _ r isOpen (s.elapse dt).brg ha,
      fun hd => fault_changeFeedback_disagrees _ r isOpen (s.elapse dt).brg hd, hscu, hlif⟩

end Sys2Proof.Machine
end

section
/-! PROOFS. O14 and O16: the commands that read, the commands refused by state or by arguments, and the commands that wait. -/

namespace Sys2Proof.Machine

variable {s : State} {dt c : Nat} {tag : Byte} {args : List Byte}

/-! ### Commands refused by their rule or by their arguments (R192) -/

/-- A command without arguments that its rule refuses is answered so, whatever arguments it carries (R192). -/
theorem plainCommand_refused {f : State → State} {a : AnswerCode} (h : s.refusal c = some a) :
    plainCommand c tag args f s = s.answer c tag a [] := by
  unfold plainCommand
  rw [h]
  rfl

/-- A command that carries no arguments answers BAD_ARGUMENT to any (R192). -/
theorem plainCommand_misfit {f : State → State} (h : s.refusal c = none) (ha : args ≠ []) :
    plainCommand c tag args f s = s.answer c tag .badArgument [] := by
  unfold plainCommand
  rw [h]
  exact if_neg ha

/-- A command with arguments that its rule refuses is answered so, whatever its arguments (R192). -/
theorem argCommand_refused {α : Type} {form : Field α} {f : α → State → State} {a : AnswerCode} (h : s.refusal c = some a) :
    argCommand c tag form args f s = s.answer c tag a [] := by
  unfold argCommand
  rw [h]
  rfl

/-- START is refused outside OFFLINE (R170). -/
theorem refusal_start_elsewhere (h : s.scu.site ≠ .offline) : s.refusal 6 = some .refusedState := if_neg (by simpa using h)

/-- RUN_CHECK is refused outside ARMED and while the approach is ASSERTED (R181). -/
theorem refusal_runCheck_elsewhere (h : s.scu.site ≠ .armed ∨ s.pins.approach = true) : s.refusal 9 = some .refusedState := by
  rcases h with hs | ha
  · exact if_neg (by simp [hs])
  · exact if_neg (by simp [ha])

theorem refusal_runCheck (h : s.scu.site = .armed) (ha : s.pins.approach = false) : s.refusal 9 = none :=
  if_pos (by simp [h, ha])

/-- FORCE_CLOSE is refused outside PASSAGE (R176). -/
theorem refusal_forceClose_elsewhere (h : s.scu.site ≠ .passage) : s.refusal 10 = some .refusedState := if_neg (by simpa using h)

theorem refusal_forceClose (h : s.scu.site = .passage) : s.refusal 10 = none := if_pos (by simp [h])

/-- TEST_OUTPUTS is refused outside OFFLINE (R147). -/
theorem refusal_testOutputs_elsewhere (h : s.scu.site ≠ .offline) : s.refusal 18 = some .refusedState := if_neg (by simpa using h)

theorem refusal_testOutputs (h : s.scu.site = .offline) : s.refusal 18 = none := if_pos (by simp [h])

/-- SET_STATION is refused outside OFFLINE (R190). -/
theorem refusal_setStation_elsewhere (h : s.scu.site ≠ .offline) : s.refusal 20 = some .refusedState := if_pos (by simpa using h)

/-- SET_STATION is refused to a station made fixed (R190). -/
theorem refusal_setStation_fixed (h : s.scu.site = .offline) (hf : s.lif.fixed = true) : s.refusal 20 = some .refusedFixed :=
  (if_neg (by simp [h])).trans (if_pos hf)

/-! ### Commands that wait (R192) -/

/-- LIF does not take a command while it is not free, or with another command at the head of the queue (R192). -/
theorem takeCommand_waits (h : s.lif.free = false ∨ ∃ d rest, s.lif.queue = d :: rest ∧ d ≠ ⟨c, tag, args, false⟩) :
    s.takeCommand c tag args = none := by
  unfold State.takeCommand
  rcases h with hf | ⟨d, rest, hq, hd⟩
  · rw [hf]
    rfl
  · rw [hq]
    exact ite_eq_right_iff.mpr fun _ => if_neg hd

/-- A command that LIF cannot take waits: only the loop time passes (R192). -/
theorem timed_command_waits (hp : s.powered = true) (dt : Nat) (f : State → State)
    (h : s.lif.free = false ∨ ∃ d rest, s.lif.queue = d :: rest ∧ d ≠ ⟨c, tag, args, false⟩) :
    timed dt (command c tag args f) s = .next (s.elapse dt) := by
  rw [timed_powered s dt _ hp, command_waits _ c tag args f (takeCommand_waits (s := s.elapse dt) h)]

/-- Settles O16: each refusal by its rule, each misfit by its form, and the waiting of a command LIF cannot take. -/
theorem commandsRefusedOrWaiting : Obligations.CommandsRefusedOrWaiting := by
  refine ⟨fun s dt tag args => ⟨fun h hs => ?_, fun h hs => ?_, fun h hs => ?_, fun h hs => ?_, fun h hs => ?_, fun h hs hf => ?_⟩,
    fun s dt tag args ha => ?_, fun s dt c tag args f hp hw => timed_command_waits hp dt f hw⟩
  · exact command_answers s h dt (plainCommand_refused (refusal_start_elsewhere (s := s.taken dt) hs))
  · exact command_answers s h dt (plainCommand_refused (refusal_runCheck_elsewhere (s := s.taken dt) hs))
  · exact command_answers s h dt (plainCommand_refused (refusal_forceClose_elsewhere (s := s.taken dt) hs))
  · exact command_answers s h dt (argCommand_refused (refusal_testOutputs_elsewhere (s := s.taken dt) hs))
  · exact command_answers s h dt (argCommand_refused (refusal_setStation_elsewhere (s := s.taken dt) hs))
  · exact command_answers s h dt (argCommand_refused (refusal_setStation_fixed (s := s.taken dt) hs hf))
  · have misfit : ∀ {c : Nat} {f : State → State}, s.Ready c tag args → (s.taken dt).refusal c = none →
        timed dt (command c tag args (plainCommand c tag args f)) s = .next ((s.taken dt).ended c tag .badArgument []) :=
      fun h hr => command_answers s h dt (plainCommand_misfit hr ha)
    exact ⟨fun h => misfit h rfl, fun h => misfit h rfl, fun h hs => misfit h (refusal_start (s := s.taken dt) hs),
      fun h => misfit h rfl, fun h => misfit h rfl, fun h hs hap => misfit h (refusal_runCheck (s := s.taken dt) hs hap),
      fun h hs => misfit h (refusal_forceClose (s := s.taken dt) hs), fun h => misfit h rfl, fun h => misfit h rfl⟩

/-! ### READ_STATUS (R196) -/

/-- A group outside 1 to 6 has no contents (R196). -/
theorem statusGroup_none {g : Nat} (h : g = 0 ∨ 6 < g) : s.statusGroup g = none := by
  unfold State.statusGroup
  split
  case h_7 => rfl
  all_goals omega

/-- The contents of a group are the loop time and the group's own (R196). -/
theorem statusGroup_some {g : Nat} {d : List Byte}
    (h : (g, d) ∈ [(1, s.siteGroup), (2, s.intakeGroup), (3, s.trackingGroup), (4, s.outputsGroup), (5, s.reportsGroup),
      (6, s.loopGroup)]) : s.statusGroup g = some (putTime s.now ++ d) := by
  simp only [List.mem_cons, Prod.mk.injEq, List.not_mem_nil, or_false] at h
  rcases h with ⟨hg, hd⟩ | ⟨hg, hd⟩ | ⟨hg, hd⟩ | ⟨hg, hd⟩ | ⟨hg, hd⟩ | ⟨hg, hd⟩ <;>
  · rw [hg, hd]
    rfl

theorem readStatus_group {g : Nat} {d : List Byte} (hg : whole take4 args = some g) (hd : s.statusGroup g = some d) :
    readStatus tag args s = s.answer 2 tag .done d := by
  unfold readStatus
  rw [argCommand_takes s rfl hg, hd]

theorem readStatus_misfit (h : ∀ g, whole take4 args = some g → g = 0 ∨ 6 < g) :
    readStatus tag args s = s.answer 2 tag .badArgument [] := by
  unfold readStatus
  cases hg : whole take4 args with
  | none => exact argCommand_misfit s rfl hg
  | some g =>
    rw [argCommand_takes s rfl hg, statusGroup_none (h g hg)]
    rfl

/-! ### READ_TABLE (R195) -/

theorem readTable_entries {table first count : Nat} {r : EntryRange}
    (hx : whole (takePair take4 (takePair take4 take4)) args = some (table, first, count)) (hr : entryRange table = some r)
    (hf : entriesFit r first count = true) :
    readTable tag args s = s.answer 5 tag .done (s.tableData table first count r) := by
  unfold readTable
  rw [argCommand_takes s rfl hx, hr]
  exact if_pos hf

/-- READ_TABLE of a table or entries that do not exist, or with arguments of another form, answers BAD_ARGUMENT (R192, R195). -/
theorem readTable_misfit
    (h : ∀ (table first count : Nat) (r : EntryRange),
      whole (takePair take4 (takePair take4 take4)) args = some (table, first, count) →
      entryRange table = some r → entriesFit r first count = false) :
    readTable tag args s = s.answer 5 tag .badArgument [] := by
  unfold readTable
  cases hx : whole (takePair take4 (takePair take4 take4)) args with
  | none => exact argCommand_misfit s rfl hx
  | some x =>
    obtain ⟨table, first, count⟩ := x
    rw [argCommand_takes s rfl hx]
    cases hr : entryRange table with
    | none => rfl
    | some r => exact if_neg (by simp [h table first count r hx hr])

/-! ### READ_ALARMS (R139) -/

theorem readAlarms_entries {first count : Nat} (hx : whole (takePair take4 take4) args = some (first, count)) (hf : first ≤ 127) :
    readAlarms tag args s = s.answer 11 tag .done (s.alarmData first count) := by
  unfold readAlarms
  rw [argCommand_takes s rfl hx]
  exact if_pos hf

/-- READ_ALARMS with a first index above 127, or with arguments of another form, answers BAD_ARGUMENT (R139, R192). -/
theorem readAlarms_misfit (h : ∀ first count : Nat, whole (takePair take4 take4) args = some (first, count) → 127 < first) :
    readAlarms tag args s = s.answer 11 tag .badArgument [] := by
  unfold readAlarms
  cases hx : whole (takePair take4 take4) args with
  | none => exact argCommand_misfit s rfl hx
  | some x =>
    rw [argCommand_takes s rfl hx]
    exact if_neg (Nat.not_le.mpr (h x.1 x.2 hx))

/-- Settles O14: each command that reads, by the contents it answers or its misfit. -/
theorem readsAnswerTheirContents : Obligations.ReadsAnswerTheirContents := by
  refine ⟨fun s dt tag h => command_answers s h dt (plainCommand_takes _ rfl),
    fun s dt tag h => command_answers s h dt (plainCommand_takes _ rfl),
    fun s dt tag args h => ⟨fun g d hg hd => command_answers s h dt (readStatus_group hg (statusGroup_some hd)),
      fun hg => command_answers s h dt (readStatus_misfit hg)⟩,
    fun s dt tag args h => ⟨fun table first count r hx hr hf => command_answers s h dt (readTable_entries hx hr hf),
      fun hx => command_answers s h dt (readTable_misfit hx)⟩,
    fun s dt tag args h => ⟨fun first count hx hf => command_answers s h dt (readAlarms_entries hx hf),
      fun hx => command_answers s h dt (readAlarms_misfit hx)⟩⟩

end Sys2Proof.Machine
end

section
/-! PROOFS. O18: the refusals of WRITE_TABLE in the order of R193, and the ranges of written site parameters and thresholds. -/

namespace Sys2Proof.Machine

variable {s : State} {table first count : Nat} {tag : Byte} {args rest bytes : List Byte} {r : EntryRange}

/-! ### The refusals in order (R193) -/

/-- A WRITE_TABLE whose judging writes nothing answers the refusal and changes nothing (R193). -/
theorem writeTable_refused {a : AnswerCode} (h : s.judgeWrite args = refusedWrite a) :
    writeTable tag args s = s.answer 4 tag a [] := by
  unfold writeTable
  rw [h]
  rfl

/-- The tables are numbered 1 to 14 (R193). -/
theorem entryRange_eq_none (h : table = 0 ∨ 14 < table) : entryRange table = none := by
  unfold entryRange
  split
  case h_15 => rfl
  all_goals omega

theorem exists_entryRange (h1 : 1 ≤ table) (h14 : table ≤ 14) : ∃ r, entryRange table = some r := by
  have hall : ∀ n, n < 15 → 1 ≤ n → (entryRange n).isSome = true := by decide
  exact Option.isSome_iff_exists.mp (hall table (Nat.lt_succ_of_le h14) h1)

/-- Outside OFFLINE no table may be written but thresholds and outputs in ARMED (R193). -/
theorem writable_eq_false {x : SiteState} (h : x ≠ .offline) (ha : ¬ (x = .armed ∧ (table = 13 ∨ table = 14))) :
    writable table x = false := by
  simp only [writable, Bool.or_eq_false_iff, Bool.and_eq_false_imp, Bool.or_eq_true, beq_iff_eq, beq_eq_false_iff_ne]
  exact ⟨h, fun ht hx => ha ⟨hx, ht⟩⟩

theorem judgeWrite_no_table (h : take4 args = none) : s.judgeWrite args = refusedWrite .badArgument := by
  unfold State.judgeWrite
  rw [h]

theorem judgeWrite_unknown_table (ha : take4 args = some (table, rest)) (h : entryRange table = none) :
    s.judgeWrite args = refusedWrite .badArgument := by
  unfold State.judgeWrite
  simp only [ha, h]

theorem judgeWrite_not_writable (ha : take4 args = some (table, rest)) (hr : entryRange table = some r)
    (h : writable table s.scu.site = false) : s.judgeWrite args = refusedWrite .refusedState := by
  unfold State.judgeWrite
  simp only [ha, hr, h, Bool.false_eq_true, if_false]

/-- A known table in a state that allows its writing is judged by its entries (R193). -/
theorem judgeWrite_writable (ha : take4 args = some (table, rest)) (hr : entryRange table = some r)
    (h : writable table s.scu.site = true) : s.judgeWrite args = judgeEntries s.tables table r rest := by
  unfold State.judgeWrite
  simp only [ha, hr, h, if_true]

theorem judgeEntries_no_numbers (t : Tables) (h : takePair take4 take4 rest = none) :
    judgeEntries t table r rest = refusedWrite .badArgument := by
  unfold judgeEntries
  rw [h]

/-- Entries outside their table, or that do not fit, are refused (R193). -/
theorem judgeEntries_misfit {t : Tables} (hp : takePair take4 take4 rest = some ((first, count), bytes))
    (h : entriesFit r first count = false ∨ writeEntries t table first count bytes = none) :
    judgeEntries t table r rest = refusedWrite .badArgument := by
  unfold judgeEntries
  rw [hp]
  dsimp only
  rcases h with hf | hw
  · rw [hf]
    rfl
  · rw [hw]
    exact ite_self _

/-! ### Written parameters (R133, R193, R194) -/

/-- A value sent is written within a range, and marked clamped exactly when it is written as another. -/
structure Written.InRange (w : Written Nat) (low high sent : Nat) : Prop where
  low : low ≤ w.value
  high : w.value ≤ high
  clamped : w.clamped = true ↔ w.value ≠ sent

/-- A value clamped to a range (R3, R193). -/
theorem writtenNat_inRange {low high : Nat} (h : low ≤ high) (v : Nat) : (writtenNat low high v).InRange low high v := by
  have hclamped : (writtenNat low high v).clamped = true ↔ v < low ∨ high < v := by simp [writtenNat]
  by_cases hl : v < low
  · have hv : (writtenNat low high v).value = low := if_pos hl
    exact ⟨by omega, by omega, by rw [hclamped, hv]; omega⟩
  by_cases hh : high < v
  · have hv : (writtenNat low high v).value = high := (if_neg hl).trans (if_pos hh)
    exact ⟨by omega, by omega, by rw [hclamped, hv]; omega⟩
  · have hv : (writtenNat low high v).value = v := (if_neg hl).trans (if_neg hh)
    exact ⟨by omega, by omega, by rw [hclamped, hv]; omega⟩

/-- A value that takes one of two (R165, R194). -/
theorem writtenChoice_inRange {bound low high : Nat} (hl : low < bound) (hh : bound ≤ high) (v : Nat) :
    (writtenChoice bound low high v).InRange low high v := by
  have hclamped : (writtenChoice bound low high v).clamped = true ↔ v ≠ low ∧ v ≠ high := by simp [writtenChoice]
  by_cases hv : v < bound
  · have hw : (writtenChoice bound low high v).value = low := if_pos hv
    exact ⟨by omega, by omega, by rw [hclamped, hw]; omega⟩
  · have hw : (writtenChoice bound low high v).value = high := if_neg hv
    exact ⟨by omega, by omega, by rw [hclamped, hw]; omega⟩

/-- In a list of limits in order every one is in order, by its place. -/
theorem low_le_high_getD {l : List Config.Limit} (h : ∀ x ∈ l, x.low ≤ x.high) (i : Nat) :
    (l.getD i ⟨0, 0, 0⟩).low ≤ (l.getD i ⟨0, 0, 0⟩).high := by
  rw [List.getD_eq_getElem?_getD]
  cases hx : l[i]? with
  | none => exact Nat.le_refl _
  | some x => exact h x (List.mem_of_getElem? hx)

/-- A site parameter as it is written (R194). -/
theorem writtenSite_inRange (n v : Nat) : (writtenSite n v).InRange (Config.siteLimits.getD (n - 1) ⟨0, 0, 0⟩).low
    (Config.siteLimits.getD (n - 1) ⟨0, 0, 0⟩).high v := by
  unfold writtenSite
  dsimp only
  split
  case h_1 => exact writtenChoice_inRange (by decide) (by decide) v
  case h_2 => exact writtenChoice_inRange (by decide) (by decide) v
  case h_3 => exact writtenChoice_inRange (by decide) (by decide) v
  case h_4 => exact writtenNat_inRange (low_le_high_getD (by decide) _) v

/-- A threshold as it is written (R133). -/
theorem writtenThreshold_inRange (n v : Nat) : (writtenThreshold n v).InRange (Config.thresholdLimits.getD (n - 1) ⟨0, 0, 0⟩).low
    (Config.thresholdLimits.getD (n - 1) ⟨0, 0, 0⟩).high v :=
  writtenNat_inRange (low_le_high_getD (by decide) _) v

/-- Settles O18: each step of R193's order by the judging it ends, and the written values by their ranges. -/
theorem writeTableRefusals : Obligations.WriteTableRefusals := by
  refine ⟨fun s dt tag args h => ⟨fun ha => ?_, fun table rest ha => ⟨fun ht => ?_, fun h1 h14 hs hns => ?_,
      fun r hr hw => ⟨fun hp => ?_, fun first count bytes hp hf => ?_⟩⟩⟩, fun n v _ _ => ?_, fun n v _ _ => ?_⟩
  · exact command_answers s h dt (writeTable_refused (judgeWrite_no_table ha))
  · exact command_answers s h dt (writeTable_refused (judgeWrite_unknown_table ha (entryRange_eq_none ht)))
  · obtain ⟨r, hr⟩ := exists_entryRange h1 h14
    exact command_answers s h dt
      (writeTable_refused (judgeWrite_not_writable (s := s.taken dt) ha hr (writable_eq_false hs hns)))
  · exact command_answers s h dt (writeTable_refused
      ((judgeWrite_writable (s := s.taken dt) ha hr hw).trans (judgeEntries_no_numbers _ hp)))
  · exact command_answers s h dt (writeTable_refused
      ((judgeWrite_writable (s := s.taken dt) ha hr hw).trans (judgeEntries_misfit hp hf)))
  · have hw := writtenSite_inRange n v
    exact ⟨hw.low, hw.high, hw.clamped⟩
  · have hw := writtenThreshold_inRange n v
    exact ⟨hw.low, hw.high, hw.clamped⟩

end Sys2Proof.Machine
end

section
/-! PROOFS. O57: the output lines: what a change of lines, the judging and a raise make of each line, and the sources that assert it. -/

namespace Sys2Proof.Machine

variable {s : State} {l k : Line}

/-! ### Changes of lines -/

/-- Changes each line by its own function. -/
def State.onLines (g : Line → LineState → LineState) (s : State) : State :=
  s.onAou fun a => { a with lines := ⟨g .o1 a.lines.o1, g .o2 a.lines.o2, g .o3 a.lines.o3, g .o4 a.lines.o4⟩ }

/-- Lines changed one after the other are changed each by its own function. -/
theorem forEach_onLine (g : Line → LineState → LineState) (s : State) :
    forEach allLines (fun l t => t.onLine l (g l)) s = s.onLines g := by
  have hcomp : ∀ (f h : Aou → Aou) (t : State), (t.onAou f).onAou h = t.onAou fun a => h (f a) := fun _ _ _ => rfl
  simp only [forEach, allLines, List.foldl_cons, List.foldl_nil, State.onLine, hcomp]
  rfl

theorem line_onLines (g : Line → LineState → LineState) (s : State) (l : Line) :
    (s.onLines g).aou.lines.get l = g l (s.aou.lines.get l) := by cases l <;> rfl

theorem rps_onLines (g : Line → LineState → LineState) (s : State) : (s.onLines g).rps = s.rps := rps_onAou _ _

theorem line_onLine_self (l : Line) (f : LineState → LineState) (s : State) :
    (s.onLine l f).aou.lines.get l = f (s.aou.lines.get l) := lineGet_set _ _ _

theorem line_onLine_of_ne (h : k ≠ l) (f : LineState → LineState) (s : State) :
    (s.onLine l f).aou.lines.get k = s.aou.lines.get k := lineGet_set_ne _ h _

theorem outputEntry_onLine (l : Line) (f : LineState → LineState) (s : State) : (s.onLine l f).outputEntry = s.outputEntry := rfl

theorem onLine_id (l : Line) (s : State) : (s.onLine l fun x => x) = s := by cases l <;> rfl

/-- A line after loop time (R143, R145, R146, R148). -/
theorem line_elapse (s : State) (dt : Nat) (l : Line) : (s.elapse dt).aou.lines.get l = tickLine dt (s.aou.lines.get l) :=
  lineGet_map _ _ _

theorem line_taken (s : State) (dt : Nat) (l : Line) : (s.taken dt).aou.lines.get l = tickLine dt (s.aou.lines.get l) :=
  lineGet_map _ _ _

/-! ### A judged line (R142, R145, R147, R148) -/

section

variable (e : OutputEntry) (readback : Bool) (x : LineState)

/-- A deasserted line is driven low (R145, R147). -/
theorem driven_applyLine_deasserted : (applyLine e false readback x).driven = false := rfl

/-- An asserted STEADY or PULSE line is driven high (R142, R145, R147). -/
theorem driven_applyLine_asserted (h : e.mode ≠ .envelope) : (applyLine e true readback x).driven = true := by
  unfold applyLine drivenLevel
  cases hm : e.mode with
  | steady => rfl
  | pulse => rfl
  | envelope => exact absurd hm h

/-- An asserted ENVELOPE line is driven through its envelope (R145). -/
theorem driven_applyLine_envelope (h : e.mode = .envelope) :
    (applyLine e true readback x).driven = envelopeHigh e.envelope x.phase := by
  unfold applyLine drivenLevel
  rw [h]
  rfl

end

theorem asserted_judgeLines (s : State) (l : Line) : (s.judgeLines.aou.lines.get l).asserted = s.lineAsserted l := by
  rw [line_judgeLines]
  rfl

/-- A judged line is asserted as the part judges it then (R142). -/
theorem asserted_judgeLines_self (s : State) (l : Line) :
    (s.judgeLines.aou.lines.get l).asserted = s.judgeLines.lineAsserted l := by
  rw [asserted_judgeLines, lineAsserted_judgeLines]

theorem asserted_judgeLine_self (s : State) (l : Line) :
    ((s.judgeLine l).aou.lines.get l).asserted = (s.judgeLine l).lineAsserted l := by
  rw [line_judgeLine_self, lineAsserted_judgeLine]
  rfl

/-- Judging the lines changes AOU alone (R142). -/
theorem judgeLines_eq (s : State) : s.judgeLines = { s with aou := s.judgeLines.aou } :=
  eq_of_aou (pending_judgeLines s) (powered_judgeLines s) (now_judgeLines s) (pins_judgeLines s) (store_judgeLines s)
    (conds_judgeLines s) (tables_judgeLines s) (invalid_judgeLines s) (commit_judgeLines s) (lif_judgeLines s)
    (sin_judgeLines s) (axt_judgeLines s) (passage_judgeLines s) (brg_judgeLines s) (rps_judgeLines s) (scu_judgeLines s)

/-- Judging the lines changes the lines alone (R142). -/
theorem judgeLines_lines (s : State) : s.judgeLines = { s with aou := { s.aou with lines := s.judgeLines.aou.lines } } := by
  have haou : s.judgeLines.aou = { s.aou with lines := s.judgeLines.aou.lines } :=
    congrArg (Aou.mk s.judgeLines.aou.lines) (alarms_judgeLines s)
  exact (judgeLines_eq s).trans (congrArg (fun a => { s with aou := a }) haou)

theorem driven_judgeLines_deasserted (h : (s.judgeLines.aou.lines.get l).asserted = false) :
    (s.judgeLines.aou.lines.get l).driven = false := by
  rw [asserted_judgeLines] at h
  rw [line_judgeLines, h]
  exact driven_applyLine_deasserted _ _ _

theorem driven_judgeLines_asserted (h : (s.judgeLines.aou.lines.get l).asserted = true) (hm : (s.outputEntry l).mode ≠ .envelope) :
    (s.judgeLines.aou.lines.get l).driven = true := by
  rw [asserted_judgeLines] at h
  rw [line_judgeLines, h]
  exact driven_applyLine_asserted _ _ _ hm

theorem driven_judgeLines_envelope (h : (s.judgeLines.aou.lines.get l).asserted = true) (hm : (s.outputEntry l).mode = .envelope) :
    (s.judgeLines.aou.lines.get l).driven = envelopeHigh (s.outputEntry l).envelope (s.aou.lines.get l).phase := by
  rw [asserted_judgeLines] at h
  rw [line_judgeLines, h]
  exact driven_applyLine_envelope _ _ _ hm

/-! ### The sources of a line (R142, R143, R144, R146, R147) -/

/-- In OFFLINE the test level and the latch alone assert a line (R147). -/
theorem lineAsserted_offline (h : s.scu.site = .offline) (l : Line) :
    s.lineAsserted l = ((s.aou.lines.get l).test || (s.aou.lines.get l).latched) := if_pos h

/-- Outside OFFLINE its pulse and its latch alone assert a PULSE line (R144, R146). -/
theorem lineAsserted_pulse (h : s.scu.site ≠ .offline) (hm : (s.outputEntry l).mode = .pulse) :
    s.lineAsserted l = ((s.aou.lines.get l).pulse.isSome || (s.aou.lines.get l).latched) := by
  unfold State.lineAsserted
  dsimp only
  rw [if_neg h, hm]

/-- Outside OFFLINE its latch, its hold timer and its class set assert a STEADY or ENVELOPE line (R142). -/
theorem lineAsserted_level (h : s.scu.site ≠ .offline) (hm : (s.outputEntry l).mode ≠ .pulse) :
    s.lineAsserted l
      = ((s.aou.lines.get l).latched || (s.aou.lines.get l).hold.isSome || s.lineSource (s.outputEntry l)) := by
  unfold State.lineAsserted
  dsimp only
  rw [if_neg h]
  cases hmode : (s.outputEntry l).mode with
  | steady => rfl
  | envelope => rfl
  | pulse => exact absurd hmode hm

theorem holdsClass_iff (c : ClassSet) (h : Severities) : holdsClass c h = true ↔
    (c.critical = true ∧ 0 < h.critical) ∨ (c.alarm = true ∧ 0 < h.alarm) ∨ (c.watch = true ∧ 0 < h.watch) := by
  simp [holdsClass, or_assoc]

/-- The sources of a class set: an alarm class of the passage on an entry that is not latched, EQUIPMENT, PRESENCE and LINK (R142). -/
theorem lineSource_iff (s : State) (e : OutputEntry) : s.lineSource e = true ↔
    (e.latched = false ∧ (s.scu.site = .passage ∨ s.scu.site = .closing)
        ∧ ((e.classes.critical = true ∧ 0 < s.aou.alarms.highest.critical)
          ∨ (e.classes.alarm = true ∧ 0 < s.aou.alarms.highest.alarm)
          ∨ (e.classes.watch = true ∧ 0 < s.aou.alarms.highest.watch)))
      ∨ (e.classes.equipment = true ∧ s.faultSet ≠ [])
      ∨ (e.classes.presence = true ∧ (s.scu.site = .passage ∨ s.scu.site = .closing))
      ∨ (e.classes.link = true ∧ s.lif.linkLost = true) := by
  rw [← holdsClass_iff, ← inPassage_iff]
  simp [State.lineSource, and_assoc, or_assoc]

theorem lineAsserted_pulse_iff (h : s.scu.site ≠ .offline) (hm : (s.outputEntry l).mode = .pulse) :
    s.lineAsserted l = true ↔ (s.aou.lines.get l).pulse ≠ none ∨ (s.aou.lines.get l).latched = true := by
  rw [lineAsserted_pulse h hm, Bool.or_eq_true, Option.isSome_iff_ne_none]

theorem lineAsserted_level_iff (h : s.scu.site ≠ .offline) (hm : (s.outputEntry l).mode ≠ .pulse) :
    s.lineAsserted l = true ↔ (s.aou.lines.get l).latched = true ∨ (s.aou.lines.get l).hold ≠ none
      ∨ s.lineSource (s.outputEntry l) = true := by
  rw [lineAsserted_level h hm, Bool.or_eq_true, Bool.or_eq_true, Option.isSome_iff_ne_none, or_assoc]

/-! ### A raise (R136, R137, R144) -/

/-- A line as a raise of a class leaves its latch (R144). -/
def latchedBy (c : AlarmClass) (e : OutputEntry) (x : LineState) : LineState :=
  if e.mode ≠ .pulse ∧ e.latched ∧ e.classes.has c then { x with latched := true } else x

theorem latchLine_eq (c : AlarmClass) (l : Line) (s : State) : s.latchLine c l = s.onLine l (latchedBy c (s.outputEntry l)) := by
  unfold State.latchLine latchedBy
  dsimp only
  split
  · rfl
  · exact (onLine_id l s).symm

/-- A raise latches each line by its own entry (R144). -/
theorem latchLines_eq (c : AlarmClass) (s : State) :
    forEach allLines (State.latchLine c) s = s.onLines fun l => latchedBy c (s.outputEntry l) := by
  rw [← forEach_onLine]
  simp only [forEach, allLines, List.foldl_cons, List.foldl_nil, latchLine_eq, outputEntry_onLine]

theorem latched_latchedBy (c : AlarmClass) (e : OutputEntry) (x : LineState) : (latchedBy c e x).latched = true ↔
    x.latched = true ∨ (e.mode ≠ .pulse ∧ e.latched = true ∧ e.classes.has c = true) := by
  unfold latchedBy
  split
  · next h => simp [h]
  · next h => exact (or_iff_left h).symm

/-- The part as a raise has been entered and handed on, before the lines follow it (R136, R137). -/
def State.entered (r : Raise) (s : State) : State :=
  (s.onAou fun a => { a with alarms := a.alarms.raise r s.now }).raiseIf
    (handedOn (enterRaise r s.now s.aou.alarms.entries)) (classEvent (alarmClass r.kind))

theorem aou_entered (r : Raise) (s : State) : (s.entered r).aou = { s.aou with alarms := s.aou.alarms.raise r s.now } :=
  aou_raiseIf _ _ _

theorem outputEntry_entered (r : Raise) (s : State) : (s.entered r).outputEntry = s.outputEntry := by
  unfold State.outputEntry
  rw [show (s.entered r).tables = s.tables from tables_raiseIf _ _ _]

/-- A raise is entered and handed on, latches the lines that follow its class, and has the lines judged (R136, R137, R142, R144). -/
theorem alarm_eq (s : State) (r : Raise) : s.alarm r
    = ((s.entered r).onLines fun l => latchedBy (alarmClass r.kind) (s.outputEntry l)).judgeLines := by
  rw [← outputEntry_entered r s, ← latchLines_eq]
  rfl

theorem alarms_alarm (s : State) (r : Raise) : (s.alarm r).aou.alarms = s.aou.alarms.raise r s.now := by
  rw [alarm_eq, alarms_judgeLines, State.onLines, aou_onAou, aou_entered]

theorem latched_alarm (s : State) (r : Raise) (l : Line) : ((s.alarm r).aou.lines.get l).latched = true ↔
    (s.aou.lines.get l).latched = true ∨ ((s.outputEntry l).mode ≠ .pulse ∧ (s.outputEntry l).latched = true
      ∧ (s.outputEntry l).classes.has (alarmClass r.kind) = true) := by
  rw [alarm_eq, latched_judgeLines, line_onLines, latched_latchedBy, aou_entered]

theorem asserted_alarm (s : State) (r : Raise) (l : Line) : ((s.alarm r).aou.lines.get l).asserted = (s.alarm r).lineAsserted l := by
  rw [alarm_eq]
  exact asserted_judgeLines_self _ l

theorem rps_alarm (s : State) (r : Raise) : (s.alarm r).rps = (s.entered r).rps := by
  rw [alarm_eq, rps_judgeLines, rps_onLines]

/-- A raise that makes an entry, changes one or is lost to a full list is handed on (R137). -/
theorem handedOn_enterRaise {r : Raise} {t : LoopTime} {es : List AlarmEntry}
    (h : ∀ e, es.find? (sameKey r) = some e → e.value < r.value) : handedOn (enterRaise r t es) = true := by
  cases hf : es.find? (sameKey r) with
  | some e =>
    rw [enterRaise_greater hf (h e hf)]
    rfl
  | none =>
    rcases Nat.lt_or_ge es.length 128 with hl | hl
    · rw [enterRaise_new hf hl]
      rfl
    · rw [enterRaise_full hf hl]
      rfl

/-- A raise that is handed on raises its class's event (R137, R164). -/
theorem raised_alarm {r : Raise} (h : ∀ e, s.aou.alarms.entries.find? (sameKey r) = some e → e.value < r.value) :
    (s.alarm r).raised (classEvent (alarmClass r.kind)) := by
  refine raised_congr (rps_alarm s r) ?_
  unfold State.entered State.raiseIf
  rw [handedOn_enterRaise h]
  exact raised_raise_self _ _

/-- A raise that leaves its entry unchanged hands nothing to RPS (R137). -/
theorem rps_alarm_unchanged {r : Raise} {e : AlarmEntry} (hf : s.aou.alarms.entries.find? (sameKey r) = some e)
    (hv : r.value ≤ e.value) : (s.alarm r).rps = s.rps := by
  rw [rps_alarm]
  unfold State.entered State.raiseIf
  rw [enterRaise_lower hf hv]
  rfl

/-- Settles O57: the judged line, its sources by site state and mode, and what a raise does. -/
theorem linesFollowTheirSources : Obligations.LinesFollowTheirSources := by
  refine ⟨fun s l => ⟨asserted_judgeLines s l, driven_judgeLines_deasserted, driven_judgeLines_asserted,
      driven_judgeLines_envelope, latched_judgeLines s l, hold_judgeLines s l, judgeLines_lines s⟩,
    fun s l h => lineAsserted_offline h l,
    fun s l h => ⟨lineAsserted_pulse_iff h, fun hm => ?_⟩,
    fun s r => ⟨alarms_alarm s r, fun l => ⟨latched_alarm s r l, asserted_alarm s r l⟩, fun h => raised_alarm h,
      fun ⟨e, hf, hv⟩ => rps_alarm_unchanged hf hv, passage_alarm s r⟩⟩
  rw [lineAsserted_level_iff h hm, lineSource_iff]

end Sys2Proof.Machine
end

section
/-! PROOFS. O58: CLEAR_OUTPUTS and TEST_OUTPUTS: the latches and holds taken, the test levels set. -/

namespace Sys2Proof.Machine

variable {s : State} {tag : Byte}

/-- A line without latch and hold (R144). -/
def clearedLine (x : LineState) : LineState := { x with latched := false, hold := none }

/-- CLEAR_OUTPUTS takes latch and hold of every line and judges the lines (R144). -/
theorem clearOutputs_eq (s : State) : s.clearOutputs = (s.onLines fun _ => clearedLine).judgeLines := rfl

/-- TEST_OUTPUTS gives each line its setting and judges the lines (R147). -/
theorem testLines_eq (x : List (Option Bool)) (s : State) :
    s.testLines x = (s.onLines fun l => testLine (x.getD (lineIndex l) none)).judgeLines :=
  congrArg State.judgeLines (forEach_onLine _ s)

/-- A change of lines that are then judged changes AOU's lines alone. -/
theorem judgeLines_onLines (g : Line → LineState → LineState) (s : State) :
    (s.onLines g).judgeLines = { s with aou := (s.onLines g).judgeLines.aou } := by
  obtain ⟨a, ha⟩ : ∃ a, s.onLines g = { s with aou := a } := ⟨_, rfl⟩
  rw [ha]
  exact judgeLines_eq _

/-- CLEAR_OUTPUTS changes AOU alone (R144). -/
theorem clearOutputs_aou (s : State) : s.clearOutputs = { s with aou := s.clearOutputs.aou } := by
  rw [clearOutputs_eq]
  exact judgeLines_onLines _ s

/-- TEST_OUTPUTS changes AOU alone (R147). -/
theorem testLines_aou (x : List (Option Bool)) (s : State) : s.testLines x = { s with aou := (s.testLines x).aou } := by
  rw [testLines_eq]
  exact judgeLines_onLines _ s

theorem alarms_testLines (x : List (Option Bool)) (s : State) : (s.testLines x).aou.alarms = s.aou.alarms := by
  rw [testLines_eq, alarms_judgeLines, State.onLines, aou_onAou]

theorem test_testLines (x : List (Option Bool)) (s : State) (l : Line) : ((s.testLines x).aou.lines.get l).test
    = (x.getD (lineIndex l) none).getD (s.aou.lines.get l).test := by
  rw [testLines_eq, test_judgeLines, line_onLines]
  rfl

theorem asserted_testLines (x : List (Option Bool)) (h : s.scu.site = .offline) (l : Line) :
    ((s.testLines x).aou.lines.get l).asserted
      = (((s.testLines x).aou.lines.get l).test || (s.aou.lines.get l).latched) := by
  have hlatched : ((s.testLines x).aou.lines.get l).latched = (s.aou.lines.get l).latched := by
    rw [testLines_eq, latched_judgeLines, line_onLines]
    rfl
  rw [← hlatched, ← lineAsserted_offline (s := s.testLines x) h, testLines_eq, asserted_judgeLines_self]

theorem clearOutputs_takes : clearOutputs tag [] s = s.clearOutputs.answer 17 tag .done [] := plainCommand_takes s rfl

/-- What CLEAR_OUTPUTS leaves of a line (R144). -/
theorem line_clearOutputs (s : State) (l : Line) : (s.clearOutputs.aou.lines.get l).latched = false
    ∧ (s.clearOutputs.aou.lines.get l).hold = none
    ∧ (s.clearOutputs.aou.lines.get l).pulse = (s.aou.lines.get l).pulse
    ∧ (s.clearOutputs.aou.lines.get l).test = (s.aou.lines.get l).test
    ∧ (s.clearOutputs.aou.lines.get l).asserted = s.clearOutputs.lineAsserted l := by
  rw [clearOutputs_eq, latched_judgeLines, hold_judgeLines, pulse_judgeLines, test_judgeLines, line_onLines]
  exact ⟨rfl, rfl, rfl, rfl, asserted_judgeLines_self _ l⟩

/-- Settles O58: the lines cleared, the lines tested, and the misfit of TEST_OUTPUTS. -/
theorem outputCommands : Obligations.OutputCommands := by
  refine ⟨fun s dt tag h => ⟨(s.taken dt).clearOutputs, command_answers s h dt clearOutputs_takes, clearOutputs_aou _,
      alarms_clearOutputs _, fun l => ?clear⟩,
    fun s dt tag args h hs => ⟨fun hx => command_answers s h dt (argCommand_misfit _ (refusal_testOutputs hs) hx),
      fun a b c d hx => ⟨(s.taken dt).testLines [a, b, c, d],
        command_answers s h dt (argCommand_takes _ (refusal_testOutputs hs) hx), testLines_aou _ _, alarms_testLines _ _,
        test_testLines _ _ .o1, test_testLines _ _ .o2, test_testLines _ _ .o3, test_testLines _ _ .o4, fun l => ?test⟩⟩⟩
  case clear =>
    obtain ⟨hlatched, hhold, hpulse, htest, hasserted⟩ := line_clearOutputs (s.taken dt) l
    exact ⟨hlatched, hhold, hpulse, by rw [htest, line_taken, test_tickLine], hasserted⟩
  case test =>
    rw [asserted_testLines (s := s.taken dt) _ hs, line_taken, latched_tickLine]

end Sys2Proof.Machine
end

section
/-! PROOFS. O59: the rows of one line: its pulse, hold and envelope, and the comparison with its readback. -/

namespace Sys2Proof.Machine

variable {s : State} {dt n : Nat} {l k : Line}

/-! ### One line changed and judged (R143, R145, R146) -/

/-- A change of one line that is then judged: AOU's lines alone change, of them no other, and the line is asserted as the part judges it. -/
structure JudgedAt (l : Line) (s t : State) : Prop where
  aou : t = { s with aou := t.aou }
  alarms : t.aou.alarms = s.aou.alarms
  asserted : (t.aou.lines.get l).asserted = t.lineAsserted l
  others : ∀ k, k ≠ l → t.aou.lines.get k = s.aou.lines.get k

theorem judgedAt_judgeLine (l : Line) (s : State) : JudgedAt l s (s.judgeLine l) :=
  ⟨rfl, rfl, asserted_judgeLine_self s l, fun _ hk => line_judgeLine_ne s hk⟩

theorem judgedAt_onLine (l : Line) (f : LineState → LineState) (s : State) : JudgedAt l s ((s.onLine l f).judgeLine l) :=
  ⟨rfl, rfl, asserted_judgeLine_self _ l, fun _ hk => (line_judgeLine_ne _ hk).trans (line_onLine_of_ne hk f s)⟩

/-- Without a pulse a PULSE line is asserted by its latch, and in OFFLINE by its test level (R144, R146, R147). -/
theorem lineAsserted_pulse_ended (h : (s.aou.lines.get l).pulse = none) (hm : (s.outputEntry l).mode = .pulse) :
    s.lineAsserted l = ((s.aou.lines.get l).latched || (s.scu.site == .offline && (s.aou.lines.get l).test)) := by
  by_cases hs : s.scu.site = .offline
  · rw [lineAsserted_offline hs, hs, Bool.or_comm]
    rfl
  · rw [lineAsserted_pulse hs hm, h, beq_false_of_ne hs, Bool.false_and, Bool.or_false]
    rfl

/-- A timer of a line that runs out within the loop time that runs has run out after it (R143, R146, R148). -/
theorem line_timer_expired {timer : LineState → Option Nat} (htick : ∀ x, timer (tickLine dt x) = tick dt (timer x))
    (ht : timer (s.aou.lines.get l) = some n) (hn : n ≤ dt) : expired (timer ((s.elapse dt).aou.lines.get l)) = true := by
  rw [line_elapse, htick]
  exact expired_tick ht hn

theorem exec_pulseEnd_due (hp : s.powered = true) (ht : (s.aou.lines.get l).pulse = some n) (hn : n ≤ dt) :
    exec (.pulseEnd dt l) s = .next (((s.elapse dt).onLine l fun x => { x with pulse := none }).judgeLine l) :=
  (exec_pulseEnd s dt l).trans
    (timed_when s hp dt (b := fun t => expired (t.aou.lines.get l).pulse) (line_timer_expired (fun _ => rfl) ht hn))

theorem exec_holdTimerExpiry_due (hp : s.powered = true) (ht : (s.aou.lines.get l).hold = some n) (hn : n ≤ dt) :
    exec (.holdTimerExpiry dt l) s = .next (((s.elapse dt).onLine l fun x => { x with hold := none }).judgeLine l) :=
  (exec_holdTimerExpiry s dt l).trans
    (timed_when s hp dt (b := fun t => expired (t.aou.lines.get l).hold) (line_timer_expired (fun _ => rfl) ht hn))

/-- At an edge of its envelope an asserted ENVELOPE line is driven through its envelope (R145). -/
theorem driven_judgeLine_envelope (h : ((s.judgeLine l).aou.lines.get l).asserted = true) (hm : (s.outputEntry l).mode = .envelope) :
    ((s.judgeLine l).aou.lines.get l).driven = envelopeHigh (s.outputEntry l).envelope (s.aou.lines.get l).phase := by
  rw [line_judgeLine_self] at h ⊢
  rw [show s.lineAsserted l = true from h]
  exact driven_applyLine_envelope _ _ _ hm

/-! ### Readback (R148) -/

/-- The comparison starts afresh where the levels agree on a FAULTY line or disagree on an OK one (R148). -/
theorem compareTimer_eq (faulty driven high : Bool) :
    compareTimer faulty driven high = if ((driven = high) ↔ faulty = true) then some 40000 else none := by
  cases faulty <;> cases driven <;> cases high <;> rfl

/-- Inputs whose readback shows a level already are as they are with that level. -/
theorem pins_setReadback {q : Pins} {b : Bool} (h : q.readback.get l = b) : { q with readback := q.readback.set l b } = q := by
  subst h
  cases l <;> rfl

/-- The part after the loop time of a row, with a readback input at its new level. -/
def State.readbackShows (s : State) (dt : Nat) (l : Line) (high : Bool) : State :=
  { s.elapse dt with pins := { s.pins with readback := s.pins.readback.set l high } }

theorem exec_readbackInputChange_new {high : Bool} (hp : s.powered = true) (h : s.pins.readback.get l ≠ high) :
    exec (.readbackInputChange dt l high) s = .next ((s.readbackShows dt l high).readbackChanged l high) := by
  rw [exec_readbackInputChange]
  exact pinRow_changed s hp dt (c := fun t => t.pins.readback.get l != high) (bne_iff_ne.mpr h) _ _

theorem exec_readbackInputChange_same {high : Bool} (hp : s.powered = true) (h : s.pins.readback.get l = high) :
    exec (.readbackInputChange dt l high) s = .next (s.elapse dt) := by
  rw [exec_readbackInputChange, pinRow_same s hp dt (by rw [h]; exact bne_self_eq_false _), pins_setReadback h]
  rfl

theorem exec_readbackTimerExpiry_due (hp : s.powered = true) (ht : (s.aou.lines.get l).readback = some n) (hn : n ≤ dt) :
    exec (.readbackTimerExpiry dt l) s = .next ((s.elapse dt).readbackExpired l) :=
  (exec_readbackTimerExpiry s dt l).trans
    (timed_when s hp dt (b := fun t => expired (t.aou.lines.get l).readback) (line_timer_expired (fun _ => rfl) ht hn))

/-- A channel places in the fault set its own CHANNEL_FAULT or SCANNER_FAULT alone (R140). -/
theorem channelMember_cases {c : Nat} {m : FaultMember} (h : channelMember s c = some m) : m = .channelFault c ∨ m = .scannerFault c := by
  unfold channelMember at h
  split at h
  · cases h
  · split at h
    · split at h <;> cases h
      · exact .inl rfl
      · exact .inr rfl
    · cases h

theorem channelMember_ne_outputFault (s : State) (c : Nat) (l : Line) : channelMember s c ≠ some (.outputFault l) :=
  fun h => (channelMember_cases h).elim nofun nofun

/-- OUTPUT_FAULT stands in the fault set exactly where its line is FAULTY (R140, R148). -/
theorem outputFault_mem_faultSet_iff : .outputFault l ∈ s.faultSet ↔ (s.aou.lines.get l).faulty = true := by
  cases l <;> simp [State.faultSet, channelMember_ne_outputFault, nodeMember, allLines]

theorem faulty_readbackExpired (l : Line) (s : State) :
    ((s.readbackExpired l).aou.lines.get l).faulty = !(s.aou.lines.get l).faulty := by
  unfold State.readbackExpired
  rw [faulty_equipmentChanged, line_onLine_self]

/-- Settles O59: the pulse, the hold and the envelope by their judged line, the readback by its comparison and its fault. -/
theorem lineTimersAndReadbacks : Obligations.LineTimersAndReadbacks := by
  refine ⟨fun s dt l hp => ⟨fun n ht hn => ?pulse, fun n ht hn => ?hold, ?envelope⟩,
    fun s dt l high hp => ⟨fun h => ?changed, exec_readbackInputChange_same hp⟩,
    fun s dt n l hp ht hn => ?expired⟩
  case pulse =>
    have hj := judgedAt_onLine l (fun x => { x with pulse := none }) (s.elapse dt)
    have hpulse : ((((s.elapse dt).onLine l fun x => { x with pulse := none }).judgeLine l).aou.lines.get l).pulse = none := by
      rw [pulse_judgeLine, line_onLine_self]
    refine ⟨_, exec_pulseEnd_due hp ht hn, hj.aou, hpulse, hj.asserted, fun hm => ?_, hj.alarms, hj.others⟩
    rw [hj.asserted, lineAsserted_pulse_ended hpulse hm, latched_judgeLine, test_judgeLine, line_onLine_self, line_elapse]
    rfl
  case hold =>
    have hj := judgedAt_onLine l (fun x => { x with hold := none }) (s.elapse dt)
    refine ⟨_, exec_holdTimerExpiry_due hp ht hn, hj.aou, ?_, hj.asserted, hj.alarms, hj.others⟩
    rw [hold_judgeLine, line_onLine_self]
  case envelope =>
    have hj := judgedAt_judgeLine l (s.elapse dt)
    refine ⟨_, (exec_envelopeEdge s dt l).trans (timed_powered s dt _ hp), hj.aou, hj.alarms, fun hm ha => ?_, hj.others⟩
    rw [driven_judgeLine_envelope ha hm, line_elapse]
    rfl
  case changed =>
    refine ⟨_, exec_readbackInputChange_new hp h, rfl, ?_, ?_, fun k hk => line_onLine_of_ne hk _ _⟩
    · rw [State.readbackChanged, line_onLine_self, show (s.readbackShows dt l high).aou.lines.get l = _ from line_elapse s dt l]
      exact compareTimer_eq _ _ _
    · rw [State.readbackChanged, line_onLine_self, show (s.readbackShows dt l high).aou.lines.get l = _ from line_elapse s dt l]
      rfl
  case expired =>
    have hfaulty : (((s.elapse dt).readbackExpired l).aou.lines.get l).faulty = !(s.aou.lines.get l).faulty := by
      rw [faulty_readbackExpired, line_elapse]
      rfl
    refine ⟨_, exec_readbackTimerExpiry_due hp ht hn, hfaulty, ?_, raised_equipmentChanged_self _, lif_equipmentChanged _,
      scu_equipmentChanged _, passage_equipmentChanged _, brg_equipmentChanged _, alarms_equipmentChanged _⟩
    rw [outputFault_mem_faultSet_iff, hfaulty, Bool.not_eq_true']

end Sys2Proof.Machine
end

section
/-! PROOFS. O27 and O29: READ_REPORT and RELEASE_REPORT by their arguments and the state of the slot. -/

namespace Sys2Proof.Machine

variable {s : State} {dt : Nat} {tag : Byte} {args : List Byte}

/-! ### Slots (R150, R161) -/

section
variable {r : Rps} {n k : Nat} {x : Report}

theorem slot_setSlot_self (h1 : 1 ≤ n) (hn : n ≤ r.slots.length) (y : Slot) : (r.setSlot n y).slot n = y := by
  have hlt : n - 1 < r.slots.length := by omega
  unfold Rps.slot
  rw [if_neg (by omega)]
  simp [Rps.setSlot, hlt]

theorem slot_setSlot_of_ne (h1 : 1 ≤ n) (hk : k ≠ n) (y : Slot) : (r.setSlot n y).slot k = r.slot k := by
  unfold Rps.slot
  rcases Nat.eq_zero_or_pos k with rfl | hpos
  · rfl
  · have hne : n - 1 ≠ k - 1 := by omega
    simp [Rps.setSlot, List.getElem?_set_ne hne]

/-- Only a slot of the store is SEALED (R150). -/
theorem bounds_of_sealed (h : r.slot n = .sealed x) : 1 ≤ n ∧ n ≤ r.slots.length := by
  unfold Rps.slot at h
  split at h
  · cases h
  · refine ⟨by omega, Nat.le_of_not_lt fun hn => ?_⟩
    rw [List.getD_eq_getElem?_getD, List.getElem?_eq_none (by omega)] at h
    cases h

theorem onReport_of_sealed (h : r.slot n = .sealed x) (f : Report → Report) : r.onReport n f = r.setSlot n (.sealed (f x)) := by
  unfold Rps.onReport
  rw [h]

theorem slot_onReport_self (h : r.slot n = .sealed x) (f : Report → Report) : (r.onReport n f).slot n = .sealed (f x) := by
  obtain ⟨h1, hn⟩ := bounds_of_sealed h
  rw [onReport_of_sealed h, slot_setSlot_self h1 hn]

theorem slot_onReport_of_ne (hk : k ≠ n) (f : Report → Report) : (r.onReport n f).slot k = r.slot k := by
  cases h : r.slot n with
  | free => unfold Rps.onReport; rw [h]
  | filling m => unfold Rps.onReport; rw [h]
  | sealed x => rw [onReport_of_sealed h, slot_setSlot_of_ne (bounds_of_sealed h).1 hk]

end

/-! ### RELEASE_REPORT (R162) -/

/-- What RELEASE_REPORT of a passage answers by the state of the slot named (R162). -/
def releaseAnswer (y : Slot) (passage : Nat) : AnswerCode :=
  match y with
  | .free => .noSuchSlot
  | .filling n => if n = passage then .notSealed else .noSuchSlot
  | .sealed r => if r.header.number = passage then .done else .noSuchSlot

section
variable {slot passage : Nat}

theorem releaseReport_outside (hx : whole (takePair take4 take4) args = some (slot, passage))
    (h : slot = 0 ∨ 4 < slot ∨ passage = 0) : releaseReport tag args s = s.answer 13 tag .badArgument [] := by
  unfold releaseReport
  rw [argCommand_takes s rfl hx]
  exact if_pos h

/-- RELEASE_REPORT with arguments in their ranges answers by the slot, and frees it where it answers DONE (R162). -/
theorem releaseReport_answers (hx : whole (takePair take4 take4) args = some (slot, passage))
    (h1 : 1 ≤ slot) (h4 : slot ≤ 4) (hp : 1 ≤ passage) :
    releaseReport tag args s = (if releaseAnswer (s.rps.slot slot) passage = .done then s.onRps (Rps.release slot) else s).answer
      13 tag (releaseAnswer (s.rps.slot slot) passage) [] := by
  have hfit : ¬ (slot = 0 ∨ 4 < slot ∨ passage = 0) := by omega
  unfold releaseReport releaseAnswer
  rw [argCommand_takes s rfl hx]
  simp only [if_neg hfit]
  cases s.rps.slot slot with
  | free => rfl
  | filling n => by_cases hn : n = passage <;> simp [hn, State.reply]
  | sealed r => by_cases hn : r.header.number = passage <;> simp [hn, State.reply]

theorem releaseReport_refuses (hx : whole (takePair take4 take4) args = some (slot, passage))
    (h1 : 1 ≤ slot) (h4 : slot ≤ 4) (hp : 1 ≤ passage) {a : AnswerCode} (ha : releaseAnswer (s.rps.slot slot) passage = a)
    (hd : a ≠ .done) : releaseReport tag args s = s.answer 13 tag a [] := by
  rw [releaseReport_answers hx h1 h4 hp, ha, if_neg hd]

theorem releaseReport_frees (hx : whole (takePair take4 take4) args = some (slot, passage))
    (h1 : 1 ≤ slot) (h4 : slot ≤ 4) (hp : 1 ≤ passage) (ha : releaseAnswer (s.rps.slot slot) passage = .done) :
    releaseReport tag args s = (s.onRps (Rps.release slot)).answer 13 tag .done [] := by
  rw [releaseReport_answers hx h1 h4 hp, ha, if_pos rfl]

end

/-- Settles O29: the misfits, each refusal by the slot, and the release. -/
theorem releaseReportFreesTheSlot : Obligations.ReleaseReportFreesTheSlot := by
  refine fun s dt tag args h => ⟨fun hx => command_answers s h dt (argCommand_misfit _ rfl hx), fun slot passage hx =>
    ⟨fun ho => command_answers s h dt (releaseReport_outside hx ho), fun h1 h4 hp => ?_⟩⟩
  have refused : ∀ {a : AnswerCode}, releaseAnswer (s.rps.slot slot) passage = a → a ≠ .done →
      exec (.releaseReport dt tag args) s = .next ((s.taken dt).ended 13 tag a []) := fun ha hd =>
    command_answers s h dt (releaseReport_refuses (s := s.taken dt) hx h1 h4 hp ha hd)
  refine ⟨fun hs => refused (by rw [hs]; rfl) nofun, fun n hs hn => refused (by rw [hs]; exact if_neg hn) nofun,
    fun hs => refused (by rw [hs]; exact if_pos rfl) nofun, fun r hs hn => refused (by rw [hs]; exact if_neg hn) nofun,
    fun r hs hn => ?_⟩
  have ha : releaseAnswer ((s.taken dt).rps.slot slot) passage = .done := by
    rw [show (s.taken dt).rps.slot slot = _ from hs]
    exact if_pos hn
  exact command_answers s h dt (releaseReport_frees hx h1 h4 hp ha)

/-! ### READ_REPORT (R159, R160) -/

section
variable {x : ReadArgs} {r : Report}

theorem readReport_misfit
    (h : whole takeReadArgs args = none ∨ ∃ x, whole takeReadArgs args = some x ∧ readArgsFit x = false) :
    readReport tag args s = s.answer 12 tag .badArgument [] := by
  unfold readReport
  rcases h with hx | ⟨x, hx, hfit⟩
  · exact argCommand_misfit s rfl hx
  · rw [argCommand_takes s rfl hx, hfit]
    rfl

theorem readReport_free (hx : whole takeReadArgs args = some x) (hfit : readArgsFit x = true) (hs : s.rps.slot x.slot = .free) :
    readReport tag args s = s.answer 12 tag .noSuchSlot [] := by
  unfold readReport
  rw [argCommand_takes s rfl hx, hfit, hs]
  rfl

theorem readReport_filling {n : Nat} (hx : whole takeReadArgs args = some x) (hfit : readArgsFit x = true)
    (hs : s.rps.slot x.slot = .filling n) : readReport tag args s = s.answer 12 tag .notSealed [] := by
  unfold readReport
  rw [argCommand_takes s rfl hx, hfit, hs]
  rfl

theorem readReport_sealed (hx : whole takeReadArgs args = some x) (hfit : readArgsFit x = true)
    (hs : s.rps.slot x.slot = .sealed r) : readReport tag args s = s.beginRead tag x r := by
  unfold readReport
  rw [argCommand_takes s rfl hx, hfit, hs]
  rfl

/-- A read that serves nothing ends at once, with its read state noted (R160, R161). -/
theorem beginRead_nothing (h : servedCount r x.part x.first x.count = 0) :
    s.beginRead tag x r
      = (s.onRps (Rps.onReport x.slot (noteRead x.part x.first 0))).answer 12 tag .done (put4 0) := if_pos h

/-- A read of records is in progress while the loop is LOCKED (R160). -/
theorem beginRead_locked (h : servedCount r x.part x.first x.count ≠ 0) (hl : s.lif.locked = true) :
    s.beginRead tag x r = s.holdCommand tag (.read ⟨x.slot, r.header.number, x.part, x.first,
      servedCount r x.part x.first x.count, 0, false⟩) := (if_neg h).trans (if_pos hl)

/-- A read of records taken in SEARCH is dropped, its answer lost (R192). -/
theorem beginRead_search (h : servedCount r x.part x.first x.count ≠ 0) (hl : s.lif.locked = false) :
    s.beginRead tag x r = s.onLif loseAnswer := (if_neg h).trans (if_neg (by simp [hl]))

end

/-- A command held in LOCKED keeps its answer (R192). -/
theorem holdCommand_locked (j : Job) (hl : s.lif.locked = true) :
    s.holdCommand tag j = s.onLif fun l => { l with inProgress := some ⟨j, tag, false⟩ } :=
  onLif_congr _ (by rw [hl]; rfl)

/-- While a command is in progress LIF answers nothing by itself (R192). -/
theorem drain_inProgress {p : InProgress} (h : s.lif.inProgress = some p) : s.drain = s :=
  drain_busy s (by simp [Lif.free, h])

/-- Settles O27: the refusals by arguments and slot, and the read of a SEALED slot by what it serves and the loop's lock. -/
theorem readReportBySlot : Obligations.ReadReportBySlot := by
  refine fun s dt tag args h => ⟨fun hx => command_answers s h dt (readReport_misfit hx), fun x hx hfit =>
    ⟨fun hs => command_answers s h dt (readReport_free hx hfit hs),
      fun n hs => command_answers s h dt (readReport_filling hx hfit hs), ?_⟩⟩
  have takes : ∀ {r}, s.rps.slot x.slot = .sealed r → readReport tag args (s.taken dt) = (s.taken dt).beginRead tag x r :=
    fun hs => readReport_sealed (s := s.taken dt) hx hfit hs
  refine ⟨fun r hs hn hl => ?locked, fun r hs hn hl => ?search, fun r hs hn => ?nothing⟩
  case locked =>
    rw [exec_readReport, readReportCode, command_ready s h, takes hs, beginRead_locked (s := s.taken dt) hn hl, drain_inProgress rfl,
      holdCommand_locked (s := s.taken dt) _ hl]
    rfl
  case search =>
    rw [exec_readReport, readReportCode, command_ready s h, takes hs, beginRead_search (s := s.taken dt) hn hl, ← bump_eq_min]
    rfl
  case nothing =>
    have hs' : (s.taken dt).rps.slot x.slot = .sealed r := hs
    refine ⟨(s.taken dt).onRps (Rps.onReport x.slot (noteRead x.part x.first 0)),
      command_answers s h dt ((takes hs).trans (beginRead_nothing hn)), rfl, ?_, fun n hne => ?_, ?_⟩
    · rw [rps_onRps, slot_onReport_self hs']
    · rw [rps_onRps, slot_onReport_of_ne hne]
      rfl
    · rw [rps_onRps, ring_onReport]
      rfl

end Sys2Proof.Machine
end

section
/-! PROOFS. O31 and O32: the raise of an event kind, ACK_EVENTS, SET_EVENT_MASK, and the EVT frames with their hold-off. -/

namespace Sys2Proof.Machine

variable {s : State} {dt : Nat} {tag : Byte} {args : List Byte}

/-! ### Bits of event kinds (R164, R200) -/

theorem getLsbD_eventBit (k : EventKind) (i : Nat) : (eventBit k).getLsbD i = decide (i = eventNumber k - 1) := by
  have hk : eventNumber k - 1 < 13 := by cases k <;> decide
  unfold eventBit
  rw [BitVec.getLsbD_twoPow, decide_eq_true hk, Bool.true_and]
  exact decide_eq_decide.mpr eq_comm

/-- A set of kinds is not empty exactly where some kind is in it. -/
theorem ne_zero_iff_getLsbD (b : BitVec 13) : b ≠ 0 ↔ ∃ i, i < 13 ∧ b.getLsbD i = true := by
  constructor
  · intro h
    refine Classical.byContradiction fun hn => h (BitVec.eq_of_getLsbD_eq fun i hi => ?_)
    have hf : b.getLsbD i = false := Bool.eq_false_iff.mpr fun ht => hn ⟨i, hi, ht⟩
    exact hf.trans BitVec.getLsbD_zero.symm
  · rintro ⟨i, -, hi⟩ rfl
    exact absurd hi (by simp only [BitVec.ofNat_eq_ofNat, BitVec.getLsbD_zero, Bool.false_eq_true, not_false_eq_true])

/-- A kind is in a mask exactly where its bit of the mask is set (R165). -/
theorem and_eventBit_ne_zero_iff (m : BitVec 13) (k : EventKind) : m &&& eventBit k ≠ 0 ↔ m.getLsbD (eventNumber k - 1) = true := by
  rw [ne_zero_iff_getLsbD]
  constructor
  · rintro ⟨i, -, hi⟩
    rw [BitVec.getLsbD_and, Bool.and_eq_true, getLsbD_eventBit, decide_eq_true_eq] at hi
    obtain ⟨hm, rfl⟩ := hi
    exact hm
  · intro h
    refine ⟨eventNumber k - 1, by cases k <;> decide, ?_⟩
    rw [BitVec.getLsbD_and, h, getLsbD_eventBit, decide_eq_true rfl]
    rfl

/-- The kinds of a list, taken together. -/
theorem getLsbD_foldl_or (l : List (BitVec 13)) (b : BitVec 13) (i : Nat) :
    (l.foldl (· ||| ·) b).getLsbD i = true ↔ b.getLsbD i = true ∨ ∃ k ∈ l, k.getLsbD i = true := by
  induction l generalizing b with
  | nil => simp
  | cons k l ih => simp [ih, or_assoc]

/-! ### A raise (R164, R165) -/

/-- A raise touches no other kind (R164). -/
theorem pending_rpsRaise_of_ne (r : Rps) {k : EventKind} {i : Nat} (hi : i ≠ eventNumber k - 1) :
    (r.raise k).pending.getLsbD i = r.pending.getLsbD i := by
  simp [Rps.raise, getLsbD_eventBit, hi]

theorem marks_rpsRaise_of_ne (r : Rps) {k : EventKind} {i : Nat} (hi : i ≠ eventNumber k - 1) :
    (r.raise k).marks.getLsbD i = r.marks.getLsbD i := by
  simp [Rps.raise, getLsbD_eventBit, hi]

/-- A raise of a kind that is not masked sets send-due (R165). -/
theorem sendDue_rpsRaise_unmasked (r : Rps) {k : EventKind} (h : r.mask.getLsbD (eventNumber k - 1) = false) :
    (r.raise k).sendDue = true := by
  have hzero : r.mask &&& eventBit k = 0 := Decidable.not_not.mp fun hne => by
    rw [(and_eventBit_ne_zero_iff r.mask k).mp hne] at h
    cases h
  exact (congrArg (r.sendDue || ·) (beq_iff_eq.mpr hzero)).trans (Bool.or_true _)

/-- A raise of a masked kind leaves send-due (R165). -/
theorem sendDue_rpsRaise_masked (r : Rps) {k : EventKind} (h : r.mask.getLsbD (eventNumber k - 1) = true) :
    (r.raise k).sendDue = r.sendDue :=
  (congrArg (r.sendDue || ·) (beq_eq_false_iff_ne.mpr ((and_eventBit_ne_zero_iff r.mask k).mpr h))).trans (Bool.or_false _)

/-! ### ACK_EVENTS (R166) -/

theorem ackEvents_takes {kinds : List (BitVec 13)} (hx : whole (takeList takeKind) args = some kinds) :
    ackEvents tag args s = (s.onRps (Rps.acknowledge kinds)).answer 15 tag .done (put4 (s.rps.acknowledge kinds).pending.toNat) := by
  unfold ackEvents
  rw [argCommand_takes s rfl hx]
  rfl

/-- A kind stays pending unless it was listed with its mark clear (R166). -/
theorem pending_acknowledge (kinds : List (BitVec 13)) (r : Rps) {i : Nat} (hi : i < 13) :
    (r.acknowledge kinds).pending.getLsbD i = true
      ↔ r.pending.getLsbD i = true ∧ ¬ ((∃ k ∈ kinds, k.getLsbD i = true) ∧ r.marks.getLsbD i = false) := by
  have hlisted : (kinds.foldl (· ||| ·) (0 : BitVec 13)).getLsbD i = true ↔ ∃ k ∈ kinds, k.getLsbD i = true := by
    rw [getLsbD_foldl_or]
    simp
  rw [← hlisted]
  simp only [Rps.acknowledge, BitVec.getLsbD_and, BitVec.getLsbD_not, hi, decide_true, Bool.true_and, Bool.and_eq_true,
    ← Bool.not_eq_true, Bool.not_eq_true']

/-! ### SET_EVENT_MASK (R167) -/

theorem setEventMask_takes {m : Nat} (hx : whole takeSet args = some m) :
    setEventMask tag args s = (s.onRps (Rps.setMask (BitVec.ofNat 13 m))).answer 16 tag .done [] := by
  unfold setEventMask
  rw [argCommand_takes s rfl hx]
  rfl

/-- Send-due is set where a pending kind that was masked is so no longer (R167). -/
theorem sendDue_setMask (m : Nat) (r : Rps) : (r.setMask (BitVec.ofNat 13 m)).sendDue = true
    ↔ r.sendDue = true ∨ ∃ i, i < 13 ∧ r.pending.getLsbD i = true ∧ r.mask.getLsbD i = true ∧ m.testBit i = false := by
  unfold Rps.setMask
  rw [Bool.or_eq_true, bne_iff_ne, ne_zero_iff_getLsbD]
  refine or_congr_right (exists_congr fun i => and_congr_right fun hi => ?_)
  simp only [BitVec.getLsbD_and, BitVec.getLsbD_not, BitVec.getLsbD_ofNat, hi, decide_true, Bool.true_and, Bool.and_eq_true,
    Bool.not_eq_true', and_assoc]

/-- Settles O31: the acknowledgement and the mask as their commands take them, and a raise kind by kind. -/
theorem eventsAreKeptUntilTold : Obligations.EventsAreKeptUntilTold := by
  refine ⟨fun s dt tag args h => ⟨fun hx => command_answers s h dt (argCommand_misfit _ rfl hx), fun kinds hx =>
      ⟨(s.rps.acknowledge kinds).pending, command_answers s h dt (ackEvents_takes hx), fun i hi => pending_acknowledge kinds s.rps hi⟩⟩,
    fun s dt tag args h => ⟨fun hx => command_answers s h dt (argCommand_misfit _ rfl hx), fun m hx =>
      ⟨(s.rps.setMask (BitVec.ofNat 13 m)).sendDue, command_answers s h dt (setEventMask_takes hx), sendDue_setMask m s.rps⟩⟩,
    fun s k => ⟨raised_raise_self s k, sendDue_rpsRaise_unmasked s.rps, sendDue_rpsRaise_masked s.rps,
      fun i hi => ⟨pending_rpsRaise_of_ne s.rps hi, marks_rpsRaise_of_ne s.rps hi⟩⟩⟩

/-! ### Own frames handed to the transmitter (R189) -/

/-- While a frame is being sent an own frame waits (R189). -/
theorem handOwn_waits (hs : s.lif.sending.isSome = true) (f : OwnFrame) :
    s.handOwn f = s.onLif fun l => { l with own := l.own ++ [f] } := by
  unfold State.handOwn State.transmit
  refine if_neg fun h => ?_
  rw [lif_onLif, Option.isNone_iff_eq_none] at h
  rw [h.2] at hs
  cases hs

/-- The sending of the only own frame begins, under the station that stands (R189, R190). -/
theorem sendOwn_only {f : OwnFrame} (hn : f.newStation = none) {l : Lif} (ho : l.own = []) :
    sendOwn f [] { l with own := l.own ++ [f] } = { l with sending := some ⟨.own f.kind, ownOctets f l.station⟩ } := by
  unfold sendOwn
  rw [hn, ← ho]

/-- Its sending begins at once where the loop is LOCKED and the transmitter free, with nothing waiting before it (R189). -/
theorem handOwn_sends {f : OwnFrame} (hl : s.lif.locked = true) (hs : s.lif.sending = none) (ht : s.lif.timWaiting = false)
    (ho : s.lif.own = []) (hn : f.newStation = none) :
    s.handOwn f = (s.onLif fun l => { l with sending := some ⟨.own f.kind, ownOctets f l.station⟩ }).startHoldOff f.kind := by
  have hown : (s.onLif fun l => { l with own := l.own ++ [f] }).lif.own = [f] := by rw [lif_onLif, ho]; rfl
  unfold State.handOwn State.transmit
  rw [if_pos ⟨hl, by rw [lif_onLif, hs]; rfl⟩, if_neg (by rw [lif_onLif, ht]; exact Bool.false_ne_true), hown]
  exact congrArg (State.startHoldOff f.kind)
    (onLif_congr s (f := fun l => sendOwn f [] { l with own := l.own ++ [f] }) (sendOwn_only hn ho))

/-! ### EVT frames (R165) -/

/-- The EVT frame of the kinds that are to be told (R165). -/
def State.evtFrame (s : State) : OwnFrame := ⟨.evt, s.controller, evtPayload s.rps.listed s.scu.site s.evtPassage, false, none⟩

/-- RPS may form an EVT frame exactly by the conditions of R165. -/
theorem evtReady_iff : s.evtReady = true
    ↔ s.rps.sendDue = true ∧ s.rps.holdOff = none ∧ s.lif.locked = true ∧ ∀ f ∈ s.lif.own, f.kind ≠ .evt := by
  simp [State.evtReady, and_assoc]

/-- With no kind to list send-due is cleared alone (R165). -/
theorem nextEvt_nothing (h : s.evtReady = true) (hk : s.rps.listed = 0) :
    s.nextEvt = s.onRps fun r => { r with sendDue := false } := (if_pos h).trans (if_pos hk)

/-- An EVT frame is formed and handed to LIF (R165). -/
theorem nextEvt_frame (h : s.evtReady = true) (hk : s.rps.listed ≠ 0) :
    s.nextEvt = (s.onRps (Rps.formEvt s.now)).handOwn s.evtFrame := (if_pos h).trans (if_neg hk)

/-- An EVT frame formed while another frame is being sent waits (R165, R189). -/
theorem nextEvt_waits (h : s.evtReady = true) (hk : s.rps.listed ≠ 0) (hs : s.lif.sending.isSome = true) :
    s.nextEvt = (s.onRps (Rps.formEvt s.now)).onLif fun l => { l with own := l.own ++ [s.evtFrame] } :=
  (nextEvt_frame h hk).trans (handOwn_waits (s := s.onRps _) hs _)

/-- An EVT frame formed with the transmitter free is sent, and its sending starts the hold-off (R165, R189). -/
theorem nextEvt_sends (h : s.evtReady = true) (hk : s.rps.listed ≠ 0) (hs : s.lif.sending = none)
    (ht : s.lif.timWaiting = false) (ho : s.lif.own = []) :
    s.nextEvt = ((s.onRps (Rps.formEvt s.now)).onLif fun l =>
      { l with sending := some ⟨.own .evt, ownOctets s.evtFrame l.station⟩ }).startHoldOff .evt := by
  obtain ⟨-, -, hl, -⟩ := evtReady_iff.mp h
  exact (nextEvt_frame h hk).trans (handOwn_sends (s := s.onRps _) (f := s.evtFrame) hl hs ht ho rfl)

/-- Settles O32: the EVT frame that waits or is sent, the send-due that lists nothing, and the hold-off. -/
theorem evtFramesListPendingKinds : Obligations.EvtFramesListPendingKinds := by
  refine ⟨fun s dt hp hd hh hl ho => ?_, fun s dt n hp hn hle => ?holdOff⟩
  case holdOff =>
    exact (exec_holdOffExpiry s dt).trans (timed_when s hp dt (expired_tick hn hle))
  have hready : (s.elapse dt).evtReady = true := evtReady_iff.mpr ⟨hd, hh, hl, ho⟩
  have hexec : exec (.evtFrameSend dt) s = .next (s.elapse dt).nextEvt := (exec_evtFrameSend s dt).trans (timed_powered s dt _ hp)
  refine ⟨fun hk => ?nothing, fun hk => ⟨fun hs => ?waits, fun hs ht hown => ?sends⟩⟩
  case nothing =>
    rw [hexec, nextEvt_nothing hready hk]
    rfl
  case waits =>
    rw [hexec, nextEvt_waits hready hk hs]
    rfl
  case sends =>
    refine ⟨_, hexec, ?_⟩
    rw [nextEvt_sends hready hk hs ht hown]
    exact ⟨rfl, rfl, rfl, rfl, rfl⟩

end Sys2Proof.Machine
end

section
/-! PROOFS. O28: RPT_FRAME_SEND by what is left of the read, and the read states that a read notes. -/

namespace Sys2Proof.Machine

variable {s : State} {dt : Nat} {tag : Byte} {j : ReadJob} {r : Report}

/-! ### The next frame of a read (R160) -/

/-- The answer of a command in progress that no loss of lock has taken (R192). -/
theorem answerProgress_kept {k : Job} (hi : s.lif.inProgress = some ⟨k, tag, false⟩) (c : Nat) (a : AnswerCode) (d : List Byte) :
    s.answerProgress c a d = s.answer c tag a d := by
  unfold State.answerProgress
  rw [hi]
  rfl

/-- RPT_FRAME_SEND acts on the read in progress once no RPT frame waits or is being sent (R160). -/
theorem nextRpt_reads {lost : Bool} (hi : s.lif.inProgress = some ⟨.read j, tag, lost⟩) (hc : s.lif.rptClear = true) :
    s.nextRpt = (s.sendRpt j).drain := by
  have hready : s.readReady = some j := by
    unfold State.readReady
    rw [hi]
    exact if_pos hc
  unfold State.nextRpt
  rw [hready]

/-- The RPT frame of up to sixteen records that comes next in a read (R160). -/
def State.nextRptFrame (s : State) (j : ReadJob) (r : Report) : OwnFrame := rptFrame s.controller j r (min 16 (j.total - j.sent))

theorem sendRpt_frame (hcut : j.cut = false) (hlt : j.sent < j.total) (hs : s.rps.slot j.slot = .sealed r) :
    s.sendRpt j = (s.handOwn (s.nextRptFrame j r)).onLif (advanceRead (min 16 (j.total - j.sent))) := by
  have hleft : ¬ (j.cut = true ∨ j.total ≤ j.sent) := not_or.mpr ⟨by simp [hcut], by omega⟩
  unfold State.sendRpt
  rw [if_neg hleft, hs]
  rfl

/-- A read with none left ends DONE, its read state noted (R160, R161). -/
theorem sendRpt_done {k : Job} (hi : s.lif.inProgress = some ⟨k, tag, false⟩) (hcut : j.cut = false) (hle : j.total ≤ j.sent) :
    s.sendRpt j = (s.onRps (Rps.onReport j.slot (noteRead j.part j.first j.total))).answer 12 tag .done (put4 j.sent) := by
  unfold State.sendRpt State.endRead
  rw [if_pos (.inr hle), if_neg (by simp [hcut])]
  exact answerProgress_kept (s := s.onRps _) hi ..

/-- A read whose slot was taken over ends NO_SUCH_SLOT (R160). -/
theorem sendRpt_cut {k : Job} (hi : s.lif.inProgress = some ⟨k, tag, false⟩) (hcut : j.cut = true) :
    s.sendRpt j = s.answer 12 tag .noSuchSlot (put4 j.sent) := by
  unfold State.sendRpt State.endRead
  rw [if_pos (.inl hcut), if_pos hcut]
  exact answerProgress_kept hi ..

/-- The read in progress moves on by the records of a frame (R160). -/
theorem onLif_advanceRead {n : Nat} {lost : Bool} (hi : s.lif.inProgress = some ⟨.read j, tag, lost⟩) :
    s.onLif (advanceRead n)
      = s.onLif fun l => { l with inProgress := some ⟨.read { j with sent := j.sent + n }, tag, lost⟩ } :=
  onLif_congr s (by
    unfold advanceRead
    rw [hi]
    rfl)

/-- A read with records left hands over its next frame and moves on (R160). -/
theorem nextRpt_frame (hi : s.lif.inProgress = some ⟨.read j, tag, false⟩) (hc : s.lif.rptClear = true) (hcut : j.cut = false)
    (hlt : j.sent < j.total) (hs : s.rps.slot j.slot = .sealed r) :
    s.nextRpt = (s.handOwn (s.nextRptFrame j r)).onLif fun l =>
      { l with inProgress := some ⟨.read { j with sent := j.sent + min 16 (j.total - j.sent) }, tag, false⟩ } := by
  have hi' : (s.handOwn (s.nextRptFrame j r)).lif.inProgress = some ⟨.read j, tag, false⟩ := (inProgress_handOwn s _).trans hi
  rw [nextRpt_reads hi hc, sendRpt_frame hcut hlt hs, onLif_advanceRead hi', drain_inProgress rfl]

/-! ### Read states (R161) -/

theorem readStates_get_set (x : ReadStates) (p : Section) (y : ReadState) : (x.set p y).get p = y := by cases p <;> rfl

theorem readStates_get_set_of_ne (x : ReadStates) {p q : Section} (h : q ≠ p) (y : ReadState) : (x.set p y).get q = x.get q := by
  cases p <;> cases q <;> trivial

/-- What a read leaves of its section's read state: read once, and covered as far as it reaches from the edge (R161). -/
theorem get_noteRead (p : Section) (first n : Nat) (r : Report) :
    (noteRead p first n r).reads.get p = ⟨coverAfter first n (r.reads.get p).coverage, true⟩ := readStates_get_set _ _ _

theorem get_noteRead_of_ne {p q : Section} (h : q ≠ p) (first n : Nat) (r : Report) :
    (noteRead p first n r).reads.get q = r.reads.get q := readStates_get_set_of_ne _ h _

/-- A report is read-complete for good once every section is read (R161). -/
theorem readComplete_noteRead (p : Section) (first n : Nat) (r : Report) :
    (noteRead p first n r).readComplete = true
      ↔ r.readComplete = true ∨ ∀ q, sectionRead (noteRead p first n r) q = true := by
  have hall : (∀ q, sectionRead (noteRead p first n r) q = true) ↔ (sectionRead (noteRead p first n r) .header
      && sectionRead (noteRead p first n r) .axles && sectionRead (noteRead p first n r) .vehicles
      && sectionRead (noteRead p first n r) .alarms) = true := by
    simp only [Bool.and_eq_true]
    exact ⟨fun h => ⟨⟨⟨h _, h _⟩, h _⟩, h _⟩, fun ⟨⟨⟨hh, ha⟩, hv⟩, hl⟩ q => by cases q <;> assumption⟩
  rw [hall, ← Bool.or_eq_true]
  rfl

/-- Settles O28: the frame that waits or is sent, the read that ends or was cut, and the read states. -/
theorem rptFramesCarryTheRecords : Obligations.RptFramesCarryTheRecords := by
  have hexec : ∀ {s : State} {dt : Nat}, s.powered = true → exec (.rptFrameSend dt) s = .next (s.elapse dt).nextRpt :=
    fun {s dt} hp => (exec_rptFrameSend s dt).trans (timed_powered s dt _ hp)
  refine ⟨fun s dt j tag r hp hi hc hcut h1 hn hs => ⟨fun hlt hl hsend => ?waits, fun hlt hl hsend ht ho => ?sends, fun hle => ?done⟩,
    fun s dt j tag hp hi hc hcut => ?cut, fun p first n r => ⟨?once, fun h => ?beyond, fun h => ?joined, fun q hq => ?other,
      readComplete_noteRead p first n r⟩⟩
  case waits =>
    rw [hexec hp, nextRpt_frame (s := s.elapse dt) hi hc hcut hlt hs, handOwn_waits (s := s.elapse dt) hsend]
    rfl
  case sends =>
    rw [hexec hp, nextRpt_frame (s := s.elapse dt) hi hc hcut hlt hs, handOwn_sends (s := s.elapse dt) hl hsend ht ho rfl]
    rfl
  case done =>
    refine ⟨(s.elapse dt).onRps (Rps.onReport j.slot (noteRead j.part j.first j.total)), ?_, rfl, ?_, fun n hne => ?_⟩
    · rw [hexec hp, nextRpt_reads (s := s.elapse dt) hi hc, sendRpt_done (s := s.elapse dt) hi hcut hle]
      rfl
    · exact slot_onReport_self (r := (s.elapse dt).rps) hs _
    · exact slot_onReport_of_ne hne _
  case cut =>
    rw [hexec hp, nextRpt_reads (s := s.elapse dt) hi hc, sendRpt_cut (s := s.elapse dt) hi hcut]
    rfl
  case once => rw [get_noteRead]
  case beyond =>
    rw [get_noteRead]
    exact if_neg (by omega)
  case joined =>
    rw [get_noteRead]
    exact if_pos h
  case other => exact get_noteRead_of_ne hq first n r

end Sys2Proof.Machine
end

section
/-! PROOFS. O30: the choice of a slot, the slot a starting passage is given, and the sealing of a passage. -/

namespace Sys2Proof.Machine

variable {s : State}

/-! ### The choice of a slot (R151) -/

section
variable {r : Rps} {n : Nat} {x : Report}

theorem mem_slotNumbers : n ∈ slotNumbers ↔ 1 ≤ n ∧ n ≤ 4 := by
  simp [slotNumbers]
  omega

theorem freeSlot_eq_some (h1 : 1 ≤ n) (h4 : n ≤ 4) (hn : r.slot n = .free) (hlow : ∀ k, 1 ≤ k → k < n → r.slot k ≠ .free) :
    r.freeSlot = some n := by
  refine (List.find?_range'_eq_some (s := 1) (n := 4)).mpr ⟨by simp [hn], by simp; omega, fun k hk hkn => ?_⟩
  simp [hlow k hk hkn]

theorem freeSlot_eq_none (h : ∀ k, 1 ≤ k → k ≤ 4 → r.slot k ≠ .free) : r.freeSlot = none := by
  refine List.find?_eq_none.mpr fun k hk => ?_
  obtain ⟨h1, h4⟩ := mem_slotNumbers.mp hk
  simp [h k h1 h4]

theorem cleanOrder_eq_some_iff {y : Slot} {o : Nat} :
    cleanOrder y = some o ↔ ∃ x, y = .sealed x ∧ protectedReport x = false ∧ x.sealOrder = o := by
  cases y with
  | free => simp [cleanOrder]
  | filling m => simp [cleanOrder]
  | sealed x => simp [cleanOrder]

/-- The clean SEALED slots with their seal orders (R151). -/
def Rps.cleanSlots (r : Rps) : List (Nat × Nat) := slotNumbers.filterMap fun n => (cleanOrder (r.slot n)).map fun o => (n, o)

theorem mem_cleanSlots {p : Nat × Nat} : p ∈ r.cleanSlots ↔ (1 ≤ p.1 ∧ p.1 ≤ 4)
    ∧ ∃ x, r.slot p.1 = .sealed x ∧ protectedReport x = false ∧ x.sealOrder = p.2 := by
  obtain ⟨n, o⟩ := p
  simp [Rps.cleanSlots, ← cleanOrder_eq_some_iff, mem_slotNumbers]

/-- Of two slots the one sealed first, the earlier found keeping its place (R151). -/
def older (m : Option (Nat × Nat)) (x : Nat × Nat) : Option (Nat × Nat) :=
  match m with
  | none => some x
  | some y => if x.2 < y.2 then some x else some y

theorem oldestClean_eq (r : Rps) : r.oldestClean = (r.cleanSlots.foldl older none).map (·.1) := rfl

theorem older_cases (m : Option (Nat × Nat)) (b : Nat × Nat) : older m b = some b ∨ older m b = m := by
  cases m with
  | none => exact .inl rfl
  | some y =>
    unfold older
    dsimp only
    split
    · exact .inl rfl
    · exact .inr rfl

/-- A slot sealed before every other one keeps its place, or takes it (R151). -/
theorem older_first {a b : Nat × Nat} {m : Option (Nat × Nat)} (ha : m = some a ∨ b = a)
    (hm : ∀ c, m = some c → c ≠ a → a.2 < c.2) (hb : b ≠ a → a.2 < b.2) : older m b = some a := by
  cases m with
  | none => exact congrArg some (ha.resolve_left nofun)
  | some y =>
    by_cases hba : b = a
    · rw [hba]
      by_cases hya : y = a
      · rw [hya]
        exact ite_id _
      · exact if_pos (hm y rfl hya)
    · obtain rfl : y = a := Option.some.inj (ha.resolve_right hba)
      exact if_neg (Nat.lt_asymm (hb hba))

/-- A slot sealed before every other one is the oldest of them (R151). -/
theorem foldl_older {a : Nat × Nat} (l : List (Nat × Nat)) (m : Option (Nat × Nat)) (ha : m = some a ∨ a ∈ l)
    (hm : ∀ b, m = some b → b ≠ a → a.2 < b.2) (hl : ∀ b ∈ l, b ≠ a → a.2 < b.2) : l.foldl older m = some a := by
  induction l generalizing m with
  | nil => exact ha.resolve_right List.not_mem_nil
  | cons b l ih =>
    have hb : b ≠ a → a.2 < b.2 := hl b List.mem_cons_self
    refine ih (older m b) ?_ (fun c hc hne => ?_) fun c hc => hl c (List.mem_cons_of_mem _ hc)
    · rw [List.mem_cons, ← or_assoc, eq_comm (a := a)] at ha
      exact ha.imp_left fun hab => older_first hab hm hb
    · rcases older_cases m b with hm' | hm'
      · obtain rfl : b = c := Option.some.inj (hm'.symm.trans hc)
        exact hb hne
      · exact hm c (hm'.symm.trans hc) hne

theorem choose_fresh (h1 : 1 ≤ n) (h4 : n ≤ 4) (hn : r.slot n = .free) (hlow : ∀ k, 1 ≤ k → k < n → r.slot k ≠ .free) :
    r.choose = .fresh n := by
  unfold Rps.choose
  rw [freeSlot_eq_some h1 h4 hn hlow]

theorem choose_takeover (hfree : ∀ k, 1 ≤ k → k ≤ 4 → r.slot k ≠ .free) (h1 : 1 ≤ n) (h4 : n ≤ 4) (hn : r.slot n = .sealed x)
    (hx : protectedReport x = false)
    (hold : ∀ k y, 1 ≤ k → k ≤ 4 → k ≠ n → r.slot k = .sealed y → protectedReport y = false → x.sealOrder < y.sealOrder) :
    r.choose = .takeover n := by
  have hfirst : r.cleanSlots.foldl older none = some (n, x.sealOrder) := by
    refine foldl_older _ none (.inr (mem_cleanSlots.mpr ⟨⟨h1, h4⟩, x, hn, hx, rfl⟩)) nofun fun ⟨k, o⟩ hb hne => ?_
    obtain ⟨⟨hk1, hk4⟩, y, hy, hclean, rfl⟩ := mem_cleanSlots.mp hb
    refine hold k y hk1 hk4 (fun hkn => hne ?_) hy hclean
    subst hkn
    rw [hn] at hy
    cases hy
    rfl
  unfold Rps.choose
  rw [freeSlot_eq_none hfree, oldestClean_eq, hfirst]
  rfl

theorem choose_noSlot (hfree : ∀ k, 1 ≤ k → k ≤ 4 → r.slot k ≠ .free)
    (hprot : ∀ k y, 1 ≤ k → k ≤ 4 → r.slot k = .sealed y → protectedReport y = true) : r.choose = .noSlot := by
  have hnone : r.cleanSlots = [] := List.eq_nil_iff_forall_not_mem.mpr fun p hp => by
    obtain ⟨⟨h1, h4⟩, y, hy, hclean, -⟩ := mem_cleanSlots.mp hp
    rw [hprot _ y h1 h4 hy] at hclean
    cases hclean
  unfold Rps.choose
  rw [freeSlot_eq_none hfree, oldestClean_eq, hnone]
  rfl

/-- The choice rests on the slots alone (R151). -/
theorem choose_congr {a b : Rps} (h : a.slots = b.slots) : a.choose = b.choose := by
  simp only [Rps.choose, Rps.freeSlot, Rps.oldestClean, Rps.slot, h]

end

/-! ### The slot a starting passage is given (R151 to R153) -/

/-- The slot that a choice gives (R151). -/
def SlotTaken.given (c : SlotTaken) : Option Nat :=
  match c with
  | .fresh n => some n
  | .takeover n => some n
  | .noSlot => none

section
variable {n number : Nat}

theorem takeSlot_fresh (h : s.rps.choose = .fresh n) :
    s.takeSlot number = ((s.raise .passageStarted).onRps (Rps.setSlot n (.filling number))).noteSlot (some n) := by
  unfold State.takeSlot
  rw [h]

theorem takeSlot_takeover (h : s.rps.choose = .takeover n) :
    s.takeSlot number = ((((s.raise .passageStarted).onRps fun r => (r.setDetail n .takenOver).setSlot n (.filling number)).onLif
      (cutRead n)).noteSlot (some n)).raise .slotTakenOver := by
  unfold State.takeSlot
  rw [h]

theorem takeSlot_noSlot (h : s.rps.choose = .noSlot) :
    s.takeSlot number = ((s.raise .passageStarted).noteSlot none).raise .detailLost := by
  unfold State.takeSlot
  rw [h]

/-- A FREE slot given is FILLING under the passage number; ring and LIF stand (R151). -/
theorem reports_takeSlot_fresh (h : s.rps.choose = .fresh n) :
    (s.takeSlot number).rps.slots = s.rps.slots.set (n - 1) (.filling number)
      ∧ (s.takeSlot number).rps.ring = s.rps.ring ∧ (s.takeSlot number).lif = s.lif := by
  rw [takeSlot_fresh h]
  exact ⟨rfl, rfl, rfl⟩

/-- A slot taken over is FILLING under the passage number, the summary of the passage it held is marked, and a read of it is cut (R152). -/
theorem reports_takeSlot_takeover (h : s.rps.choose = .takeover n) :
    (s.takeSlot number).rps.slots = s.rps.slots.set (n - 1) (.filling number)
      ∧ (s.takeSlot number).rps.ring = (s.rps.setDetail n .takenOver).ring ∧ (s.takeSlot number).lif = cutRead n s.lif := by
  rw [takeSlot_takeover h]
  exact ⟨rfl, rfl, rfl⟩

/-- Without a slot reports and LIF stand (R153). -/
theorem reports_takeSlot_noSlot (h : s.rps.choose = .noSlot) :
    (s.takeSlot number).rps.slots = s.rps.slots ∧ (s.takeSlot number).rps.ring = s.rps.ring ∧ (s.takeSlot number).lif = s.lif := by
  rw [takeSlot_noSlot h]
  exact ⟨rfl, rfl, rfl⟩

/-- The passage notes the slot given to it (R151). -/
theorem passage_takeSlot (s : State) (number : Nat) :
    (s.takeSlot number).passage = s.passage.map fun p => { p with slot := s.rps.choose.given } := by
  cases h : s.rps.choose with
  | fresh n => rw [takeSlot_fresh h]; rfl
  | takeover n => rw [takeSlot_takeover h]; rfl
  | noSlot => rw [takeSlot_noSlot h]; rfl

/-- Whether a kind is raised rests on the pending set and the marks. -/
theorem raised_of_kinds {t : State} {k : EventKind} (h : s.raised k) (hp : t.rps.pending = s.rps.pending)
    (hm : t.rps.marks = s.rps.marks) : t.raised k := by
  unfold State.raised at *
  rw [hp, hm]
  exact h

theorem raised_takeSlot_passageStarted (s : State) (number : Nat) : (s.takeSlot number).raised .passageStarted := by
  have h1 : (s.raise .passageStarted).raised .passageStarted := raised_raise_self _ _
  cases h : s.rps.choose with
  | fresh n =>
    rw [takeSlot_fresh h]
    exact raised_of_kinds h1 rfl rfl
  | takeover n =>
    rw [takeSlot_takeover h]
    refine raised_raise _ ?_
    exact raised_of_kinds h1 rfl rfl
  | noSlot =>
    rw [takeSlot_noSlot h]
    refine raised_raise _ ?_
    exact raised_congr rfl h1

theorem sealCount_takeSlot (s : State) (number : Nat) : (s.takeSlot number).rps.sealCount = s.rps.sealCount := by
  cases h : s.rps.choose with
  | fresh n => rw [takeSlot_fresh h]; rfl
  | takeover n => rw [takeSlot_takeover h]; rfl
  | noSlot => rw [takeSlot_noSlot h]; rfl

end

/-! ### The start of a passage up to its slot (R28, R33) -/

section
variable {x : Crossing}

theorem startsPassage_iff : startsPassage x = true ↔ (x.wt = .wt1 ∧ x.dir = .up) ∨ (x.wt = .wt4 ∧ x.dir = .down) := by
  simp [startsPassage]

/-- A crossing that meets the start condition is at the first place of its direction (R27, R29). -/
theorem entryPlace_of_startsPassage (hx : startsPassage x = true) : entryPlace x.dir x.wt = 1 := by
  rcases startsPassage_iff.mp hx with ⟨hw, hd⟩ | ⟨hw, hd⟩ <;>
  · rw [hw, hd]
    rfl

/-- A passage as it starts: no axle counted, and the direction of the crossing that starts it (R28). -/
structure Passage.Fresh (p : Passage) (x : Crossing) : Prop where
  counts : p.counts = ⟨0, 0, 0, 0⟩
  total : p.total = 0
  dir : p.dir = x.dir

/-- The crossing that starts a passage enters its first axle (R27, R33). -/
theorem crossingRule_fresh {p : Passage} (hp : p.Fresh x) (hx : startsPassage x = true) : crossingRule p x = .entered 1 := by
  unfold crossingRule
  rw [hp.dir, hp.counts, hp.total, entryPlace_of_startsPassage hx, if_pos rfl]
  simp [forwardRule, Config.axleTotalMax]

theorem applyCrossing_entered {p : Passage} {n : Nat} (hp : s.passage = some p) (hr : crossingRule p x = .entered n) :
    s.applyCrossing x = (s.count (.entered n) (entryPlace p.dir x.wt)).onPassage (createAxle n x) := by
  unfold State.applyCrossing
  rw [hp]
  simp only [hr]

theorem countLate_eq (x : Crossing) (s : State) : s.countLate x
    = s.onPassageCounters fun c => if s.lateCrossing x then { c with late := bump c.late } else c := by
  unfold State.countLate
  split
  · rfl
  · cases s with | mk _ _ _ _ _ _ _ _ _ _ _ _ p => cases p <;> rfl

/-- The part as the first crossing of a passage meets the crossing rule (R28). -/
def State.opened (x : Crossing) (s : State) : State := ((State.equipmentSince s (s.openPassage x)).countLate x).passFilters x

/-- The part as a starting passage asks for its slot (R28, R117, R120, R122, R176). -/
def State.started (x : Crossing) (s : State) : State :=
  (((((s.opened x).applyCrossing x).changeSite .passage).lossAtStart).markPassage).openShutters

theorem startPassage_eq (x : Crossing) (s : State) : s.startPassage x
    = (((s.started x).takeSlot s.axt.nextPassage).onPassage (endTimers s.standingTime s.clearHold)).judgeLines := rfl

/-- `t` shows a passage context, LIF as in `s`, and of RPS all but the raises. -/
structure Starting (s t : State) : Prop where
  current : t.passage.isSome = true
  lif : t.lif = s.lif
  told : t.rps.told = s.rps.told

section
variable {t : State}

theorem starting_onPassage (h : Starting s t) (f : Passage → Passage) : Starting s (t.onPassage f) :=
  { h with current := by rw [passage_onPassage, Option.isSome_map, h.current] }

theorem starting_onAxt (h : Starting s t) (f : Axt → Axt) : Starting s (t.onAxt f) := { h with }

theorem starting_onScu (h : Starting s t) (f : Scu → Scu) : Starting s (t.onScu f) := { h with }

theorem starting_raise (h : Starting s t) (k : EventKind) : Starting s (t.raise k) :=
  { h with told := (told_rpsRaise t.rps k).trans h.told }

theorem starting_openShutters (h : Starting s t) : Starting s t.openShutters :=
  ⟨by rw [passage_openShutters, h.current], by rw [lif_openShutters, h.lif], by rw [told_openShutters, h.told]⟩

theorem starting_lossAtStart (h : Starting s t) : Starting s t.lossAtStart := by
  unfold State.lossAtStart State.startLoss
  split
  · exact h
  · split
    · exact starting_onScu h _
    · exact h

end

theorem starting_opened (x : Crossing) (s : State) : Starting s (s.opened x) := by
  have h : Starting s (State.equipmentSince s (s.openPassage x)) :=
    ⟨by rw [passage_equipmentSince]; rfl, by rw [lif_equipmentSince]; rfl, by rw [told_equipmentSince]; rfl⟩
  unfold State.opened
  rw [countLate_eq]
  exact starting_onPassage (starting_onPassage (starting_onPassage h _) _) _

theorem fresh_opened (x : Crossing) (s : State) : ∃ p, (s.opened x).passage = some p ∧ p.Fresh x := by
  have h : (State.equipmentSince s (s.openPassage x)).passage = some (Passage.begun s.axt.nextPassage x s.axt.carried) :=
    passage_equipmentSince _ _
  unfold State.opened
  rw [countLate_eq]
  simp only [State.passFilters, State.noteOrder, State.onPassageCounters, passage_onPassage, h, Option.map_some]
  exact ⟨_, rfl, rfl, rfl, rfl⟩

/-- The first crossing is counted as the first axle of the passage (R33, R36). -/
theorem starting_applyCrossing (hx : startsPassage x = true) (s : State) : Starting s ((s.opened x).applyCrossing x) := by
  obtain ⟨p, hp, hfresh⟩ := fresh_opened x s
  rw [applyCrossing_entered hp (crossingRule_fresh hfresh hx)]
  exact starting_onPassage (starting_onAxt (starting_onPassage (starting_opened x s) _) _) _

theorem starting_started (hx : startsPassage x = true) (s : State) : Starting s (s.started x) := by
  have hsite : Starting s (((s.opened x).applyCrossing x).changeSite .passage) :=
    starting_raise (starting_onScu (starting_applyCrossing hx s) _) _
  exact starting_openShutters (starting_onPassage (starting_lossAtStart hsite) _)

/-! ### The start of a passage (R28, R151 to R153) -/

/-- The reports, the seal count and the ring as a starting passage asks for its slot are those before (R28). -/
theorem reports_started (hx : startsPassage x = true) (s : State) : (s.started x).rps.slots = s.rps.slots
    ∧ (s.started x).rps.ring = s.rps.ring ∧ (s.started x).rps.sealCount = s.rps.sealCount := by
  obtain ⟨hslots, hring, hcount, -⟩ := reports_of_told (starting_started hx s).told
  exact ⟨hslots, hring, hcount⟩

/-- Of LIF and RPS a start of a passage changes what the giving of the slot changes, and the raises (R151). -/
theorem startPassage_lif (x : Crossing) (s : State) : (s.startPassage x).lif = ((s.started x).takeSlot s.axt.nextPassage).lif := by
  rw [startPassage_eq, lif_judgeLines, lif_onPassage]

theorem startPassage_rps (x : Crossing) (s : State) : (s.startPassage x).rps = ((s.started x).takeSlot s.axt.nextPassage).rps := by
  rw [startPassage_eq, rps_judgeLines, rps_onPassage]

/-- A passage that has started notes the slot that the choice of R151 gives. -/
theorem startPassage_passage (hx : startsPassage x = true) (s : State) :
    ∃ p, (s.startPassage x).passage = some p ∧ p.slot = s.rps.choose.given := by
  have hs := starting_started hx s
  obtain ⟨p, hp⟩ := Option.isSome_iff_exists.mp hs.current
  obtain ⟨hslots, -, -⟩ := reports_started hx s
  rw [startPassage_eq, passage_judgeLines, passage_onPassage, passage_takeSlot, hp, choose_congr hslots]
  exact ⟨_, rfl, rfl⟩

section
variable {n : Nat}

/-- A passage given a FREE slot fills it (R151). -/
theorem startPassage_fresh (hx : startsPassage x = true) (hc : s.rps.choose = .fresh n) :
    (s.startPassage x).rps.slots = s.rps.slots.set (n - 1) (.filling s.axt.nextPassage)
      ∧ (s.startPassage x).rps.ring = s.rps.ring ∧ (s.startPassage x).lif = s.lif := by
  obtain ⟨hslots, hring, -⟩ := reports_started hx s
  obtain ⟨h1, h2, h3⟩ := reports_takeSlot_fresh (number := s.axt.nextPassage) ((choose_congr hslots).trans hc)
  rw [startPassage_lif, startPassage_rps, h1, h2, h3, hslots, hring, (starting_started hx s).lif]
  exact ⟨rfl, rfl, rfl⟩

/-- A passage that takes over a slot fills it, marks the summary of the passage it held, and cuts a read of it (R152). -/
theorem startPassage_takeover (hx : startsPassage x = true) (hc : s.rps.choose = .takeover n) :
    (s.startPassage x).raised .slotTakenOver
      ∧ (s.startPassage x).rps.slots = s.rps.slots.set (n - 1) (.filling s.axt.nextPassage)
      ∧ (s.startPassage x).rps.ring = (s.rps.setDetail n .takenOver).ring ∧ (s.startPassage x).lif = cutRead n s.lif := by
  obtain ⟨hslots, hring, -⟩ := reports_started hx s
  have hc' := (choose_congr hslots).trans hc
  obtain ⟨h1, h2, h3⟩ := reports_takeSlot_takeover (number := s.axt.nextPassage) hc'
  refine ⟨raised_congr (startPassage_rps x s) ?_, ?_⟩
  · rw [takeSlot_takeover hc']
    exact raised_raise_self _ _
  · rw [startPassage_lif, startPassage_rps, h1, h2, h3, hslots, Rps.setDetail, hring, (starting_started hx s).lif]
    exact ⟨rfl, rfl, rfl⟩

/-- A passage without a slot loses its detail (R153). -/
theorem startPassage_noSlot (hx : startsPassage x = true) (hc : s.rps.choose = .noSlot) :
    (s.startPassage x).raised .detailLost ∧ (s.startPassage x).rps.slots = s.rps.slots
      ∧ (s.startPassage x).rps.ring = s.rps.ring ∧ (s.startPassage x).lif = s.lif := by
  obtain ⟨hslots, hring, -⟩ := reports_started hx s
  have hc' := (choose_congr hslots).trans hc
  obtain ⟨h1, h2, h3⟩ := reports_takeSlot_noSlot (number := s.axt.nextPassage) hc'
  refine ⟨raised_congr (startPassage_rps x s) ?_, ?_⟩
  · rw [takeSlot_noSlot hc']
    exact raised_raise_self _ _
  · rw [startPassage_lif, startPassage_rps, h1, h2, h3, hslots, hring, (starting_started hx s).lif]
    exact ⟨rfl, rfl, rfl⟩

end

/-- In ARMED and CHECKING a crossing that meets the start condition starts a passage, in CHECKING after the check's abort (R27, R180). -/
theorem takeHeadCrossing_starts {rest : List Crossing} (hq : s.axt.queue = x :: rest)
    (hs : s.scu.site = .armed ∨ s.scu.site = .checking) (hx : startsPassage x = true) :
    ∃ u : State, s.takeHeadCrossing = u.startPassage x ∧ u.lif = s.lif ∧ u.rps.told = s.rps.told
      ∧ u.axt.nextPassage = s.axt.nextPassage := by
  unfold State.takeHeadCrossing State.takeCrossing
  rw [hq]
  rcases hs with hs | hs
  · exact ⟨s.onAxt fun a => { a with queue := rest }, by simp [hs, hx], rfl, rfl, rfl⟩
  · refine ⟨(s.onAxt fun a => { a with queue := rest }).abortCheck .train, by simp [hs, hx], ?_, ?_, ?_⟩
    · rw [lif_abortCheck, lif_onAxt]
    · rw [rps_abortCheck, told_rpsRaise, rps_onAxt]
    · rw [axt_abortCheck, axt_onAxt]

end

/-! ### The sealing (R155, R163) -/

section
variable {p : Passage}

theorem raised_sealPassage (hp : s.passage = some p) : s.sealPassage.raised .passageClosed := by
  unfold State.sealPassage
  rw [hp]
  exact raised_raise_self _ _

theorem sealPassage_inSlot {n : Nat} (hp : s.passage = some p) (hn : p.slot = some n) :
    s.sealPassage = ((s.onRps (Rps.sealReport n p s.aou.alarms)).onRps fun r =>
      { r with ring := joinRing (summaryOf p s.aou.alarms) r.ring }).raise .passageClosed := by
  unfold State.sealPassage
  rw [hp]
  simp only [hn]

theorem sealPassage_noSlot (hp : s.passage = some p) (hn : p.slot = none) :
    s.sealPassage = (s.onRps fun r => { r with ring := joinRing (summaryOf p s.aou.alarms) r.ring }).raise .passageClosed := by
  unfold State.sealPassage
  rw [hp]
  simp only [hn]

theorem ring_sealReport (r : Rps) (n : Nat) (p : Passage) (a : AlarmList) : (r.sealReport n p a).ring = r.ring := by
  unfold Rps.sealReport Rps.nextSeal
  split <;> rfl

/-- The summary of the passage joins the ring, with or without a slot (R163). -/
theorem ring_sealPassage (hp : s.passage = some p) : s.sealPassage.rps.ring = joinRing (summaryOf p s.aou.alarms) s.rps.ring := by
  cases hn : p.slot with
  | none => rw [sealPassage_noSlot hp hn]; rfl
  | some n =>
    rw [sealPassage_inSlot hp hn, ← ring_sealReport s.rps n p s.aou.alarms]
    rfl

/-- Below its limit the seal order counts up by one (R150). -/
theorem nextSeal_below {r : Rps} (h : r.sealCount < 4294967295) : r.nextSeal = { r with sealCount := r.sealCount + 1 } := if_pos h

/-- Below the limit of the seal order a sealing puts the report into its slot alone (R155). -/
theorem sealReport_below {r : Rps} (h : r.sealCount < 4294967295) (n : Nat) (p : Passage) (a : AlarmList) :
    r.sealReport n p a
      = { r with sealCount := r.sealCount + 1 }.setSlot n (.sealed (reportOf p a (r.sealCount + 1))) := by
  unfold Rps.sealReport
  rw [nextSeal_below h]

/-- The reports after the sealing of a passage in its slot (R155). -/
theorem slot_sealPassage {n k : Nat} (hp : s.passage = some p) (hn : p.slot = some n) :
    s.sealPassage.rps.slot k = (s.rps.sealReport n p s.aou.alarms).slot k := by
  rw [sealPassage_inSlot hp hn]
  rfl

end

/-- Settles O30: the choice, the start of a passage by the choice, and the sealing. -/
theorem slotsAreChosenAndSealed : Obligations.SlotsAreChosenAndSealed := by
  refine ⟨fun r _ => ⟨fun n h1 h4 hn hlow => choose_fresh h1 h4 hn hlow, fun hfree =>
      ⟨fun n x h1 h4 hn hx hold => choose_takeover hfree h1 h4 hn hx hold, fun hprot => choose_noSlot hfree hprot⟩⟩,
    fun s dt x rest hp hq hsite hx => ?start, fun s p d t hp hd ht => ⟨raised_sealPassage hp, ?ring, fun hn => ?unslotted,
      fun n hn h1 hlen hcount => ?slot⟩⟩
  case start =>
    have hx' := startsPassage_iff.mpr hx
    obtain ⟨u, hu, hlif, htold, hnext⟩ := takeHeadCrossing_starts (s := s.elapse dt) hq hsite hx'
    obtain ⟨hslots, hring, hcount, -⟩ := reports_of_told htold
    obtain ⟨p, hpassage, hslot⟩ := startPassage_passage hx' u
    have hchoose : u.rps.choose = s.rps.choose := choose_congr hslots
    refine ⟨u.startPassage x, p, ?_, hpassage, raised_congr (startPassage_rps x u) (raised_takeSlot_passageStarted _ _), ?_,
      fun n hc => ?fresh, fun n hc => ?takeover, fun hc => ?noSlot⟩
    · rw [exec_crossingTake, ← hu]
      exact timed_powered s dt _ hp
    · obtain ⟨-, -, hstarted⟩ := reports_started hx' u
      rw [startPassage_rps, sealCount_takeSlot, hstarted, hcount]
      rfl
    case fresh =>
      rw [← hchoose] at hc
      obtain ⟨h1, h2, h3⟩ := startPassage_fresh hx' hc
      rw [h1, h2, h3, hslot, hc, hslots, hring, hlif, hnext]
      exact ⟨rfl, rfl, rfl, rfl⟩
    case takeover =>
      rw [← hchoose] at hc
      obtain ⟨h0, h1, h2, h3⟩ := startPassage_takeover hx' hc
      refine ⟨by rw [hslot, hc]; rfl, h0, by rw [h1, hslots, hnext]; rfl, by rw [h2, Rps.setDetail, hring]; rfl, fun j hj => ?_⟩
      rw [h3, hlif, cutRead, show (s.elapse dt).lif.inProgress = _ from hj]
      rfl
    case noSlot =>
      rw [← hchoose] at hc
      obtain ⟨h0, h1, h2, h3⟩ := startPassage_noSlot hx' hc
      rw [h1, h2, h3, hslot, hc, hslots, hring, hlif]
      exact ⟨rfl, h0, rfl, rfl, rfl⟩
  case ring =>
    rw [ring_sealPassage hp, joinRing, summaryOf, hd, ht]
    rfl
  case unslotted =>
    rw [sealPassage_noSlot hp hn]
    rfl
  case slot =>
    have hreport := sealReport_below hcount n p s.aou.alarms
    refine ⟨reportOf p s.aou.alarms (s.rps.sealCount + 1), ?_, rfl, ?_, rfl, ?_, rfl, rfl, rfl, rfl, rfl, rfl, rfl, rfl, rfl, fun k hk => ?_⟩
    · rw [slot_sealPassage hp hn, hreport]
      exact slot_setSlot_self h1 hlen _
    · rw [sealPassage_inSlot hp hn, rps_raise, rps_onRps, rps_onRps, hreport]
      rfl
    · simp only [reportOf, headerOf, hd, Option.getD_some]
    · rw [slot_sealPassage hp hn, hreport]
      exact slot_setSlot_of_ne h1 hk _

end Sys2Proof.Machine
end

section
/-! PROOFS. O6: the site state moves by the transitions of R169, and by those of RESTART. -/

namespace Sys2Proof.Machine

variable {s t : State} {i : Instr}

/-- Every row that neither gives nor takes the supply ends in a site state that R169 or R175 allows: each by where it lands. -/
theorem endsIn_exec (hw : s.Within) (hp : s.powered = true) (hi : suppliesPower i = false) (h : exec i s = .next t) :
    endsIn i s.scu.site t.scu.site := by
  cases i with
  | powerOn | powerLoss => cases hi
  | writeTable dt g r =>
    obtain ⟨_, _, hl⟩ := rowLands_writeTable g r hw hp h
    exact .inl hl.site
  | storeComplete dt failed =>
    obtain ⟨_, hl⟩ := rowLands_storeComplete failed hw hp h
    exact .inl hl.site
  | readbackInputChange dt l b => exact .inl (rowLands_readbackInputChange l b hw hp h).site
  | approachAssertion dt => exact (rowLands_approachAssertion hw hp h).site
  | approachRelease dt => exact .inl (rowLands_approachRelease hw hp h).site
  | shutterFeedbackChange dt r b => exact .inl (rowLands_shutterFeedbackChange r b hw hp h).site
  | _ => exact (rowLands_all _ rfl s t hw hp h).site

/-- Settles O6: the site states a row may end in are the listed ones. -/
theorem siteStateMovesAsListed : Obligations.SiteStateMovesAsListed :=
  fun _ _ _ hw hp hi h => endsIn_exec hw hp hi h

end Sys2Proof.Machine
end

section
/-! PROOFS. O11: what a loss of supply leaves in the store, and the rest of the part without supply. -/

namespace Sys2Proof.Machine

variable {s : State} {i : Instr} {j : StoreJob} {x : SettingsStore} {n k : Nat}

/-! ### The content of a broken store (R184) -/

/-- A section before the broken one holds the new content (R184). -/
theorem holds_broken_lt (h : k < n) (hn : n < 15) : Holds (brokenStore n j x) j.tables j.identity k := by
  match k with
  | 0 | 1 | 2 | 3 | 8 | 9 | 10 | 11 | 12 | 13 => simp [Holds, brokenStore, mixTables, h]
  | 4 | 5 | 6 | 7 => simp [Holds, brokenStore, mixTables, h]
  | k + 14 => omega

/-- A section behind the broken one holds the old content (R184). -/
theorem holds_broken_gt (h : n < k) : Holds (brokenStore n j x) x.tables x.identity k := by
  have hlt : ¬ k < n := by omega
  match k with
  | 0 | 1 | 2 | 3 | 8 | 9 | 10 | 11 | 12 | 13 => simp [Holds, brokenStore, mixTables, hlt]
  | 4 | 5 | 6 | 7 => simp [Holds, brokenStore, mixTables, hlt]
  | k + 14 => rfl

/-- A broken writing of section `n`: the sections before it new and good, it bad, and those behind it as they were, in condition and content (R184). -/
theorem brokenStore_sections (hn : n < 15) (j : StoreJob) (x : SettingsStore) :
    (∀ k, k < n → condAt (brokenStore n j x) k = .good) ∧ condAt (brokenStore n j x) n = .bad
      ∧ (∀ k, n < k → condAt (brokenStore n j x) k = condAt x k)
      ∧ (∀ k, k < n → Holds (brokenStore n j x) j.tables j.identity k)
      ∧ (∀ k, n < k → k < 15 → Holds (brokenStore n j x) x.tables x.identity k) :=
  ⟨fun _ h => condAt_broken_lt j x h hn, condAt_broken_eq n j x, fun _ h => condAt_broken_gt j x h,
    fun _ h => holds_broken_lt h hn, fun _ h _ => holds_broken_gt h⟩

/-! ### The loss of supply (R184) -/

/-- With no store in progress a loss of supply keeps the store (R184). -/
theorem storeAtLoss_idle (h : s.scu.store = none) (n : Nat) : s.storeAtLoss n = s.store := by
  unfold State.storeAtLoss
  rw [h]

/-- With a store in progress a loss of supply breaks it off in the section being written (R184). -/
theorem storeAtLoss_writing (h : s.scu.store = some j) (n : Nat) : s.storeAtLoss n = brokenStore n j s.store := by
  unfold State.storeAtLoss
  rw [h]

/-- Without supply every row but POWER_ON changes the level of an input at most. -/
theorem exec_unpowered (hp : s.powered = false) (hi : i ≠ .powerOn) :
    exec i s = .next { s with pins := pinsAfter i s.pins } := by
  obtain ⟨dt, f, he, hpins⟩ | ⟨dt, c, f, p, he, hpins⟩ := exec_shape i hi
  · rw [he, timed_unpowered s hp, hpins]
  · rw [he, pinRow_unpowered s hp, hpins]

/-- Settles O11: the store at the loss is the store, or the broken store of the job; without supply the rows rest. -/
theorem powerLossKeepsTheStore : Obligations.PowerLossKeepsTheStore := by
  refine ⟨fun s dt n hp hn => ⟨(s.elapse dt).powerDown n, ?_, rfl, rfl, rfl, storeAtLoss_idle (s := s.elapse dt) (n := n),
    fun j hj => ?_⟩, fun i s => exec_unpowered⟩
  · rw [exec_powerLoss, timed_powered s dt _ hp]
  · rw [show ((s.elapse dt).powerDown n).store = brokenStore n j s.store from storeAtLoss_writing (s := s.elapse dt) hj n]
    exact brokenStore_sections hn j s.store

end Sys2Proof.Machine
end

section
/-! PROOFS. O12: STORE_TABLES as LIF takes it, and the two ends of a store. -/

namespace Sys2Proof.Machine

variable {s : State} {dt : Nat} {tag : Byte} {args : List Byte} {j : StoreJob}

/-! ### STORE_TABLES (R184) -/

/-- STORE_TABLES is refused outside OFFLINE and ARMED (R184). -/
theorem refusal_storeTables_elsewhere (ho : s.scu.site ≠ .offline) (ha : s.scu.site ≠ .armed) :
    s.refusal 19 = some .refusedState := if_neg (by simp [ho, ha])

theorem refusal_storeTables (h : s.scu.site = .offline ∨ s.scu.site = .armed) : s.refusal 19 = none := if_pos (by simpa using h)

/-- The part with a store of its tables and of an identity in progress (R184). -/
def State.storing (tag : Byte) (arm fixed : Option Bool) (s : State) : State :=
  (s.onScu fun u => { u with store := some ⟨s.tables, s.identityToStore arm fixed⟩ }).holdCommand tag .store

/-- STORE_TABLES in OFFLINE or ARMED with arguments of its form captures the tables and the identity (R184). -/
theorem storeTables_takes {arm fixed : Option Bool} (h : s.scu.site = .offline ∨ s.scu.site = .armed)
    (hx : whole (takePair (takeCode armSettings) (takeCode fixedSettings)) args = some (arm, fixed)) :
    storeTables tag args s = s.storing tag arm fixed := argCommand_takes s (refusal_storeTables h) hx

/-- A store in progress keeps LIF from answering (R192). -/
theorem drain_storing (s : State) (arm fixed : Option Bool) : (s.storing tag arm fixed).drain = s.storing tag arm fixed :=
  drain_inProgress (p := ⟨.store, tag, !s.lif.locked⟩) rfl

/-! ### The end of a store (R184) -/

/-- The part as a store has ended, before its answer (R184). -/
def State.stored (failed : Option Nat) (j : StoreJob) (s : State) : State :=
  (State.takeFlags failed j.identity
    { s with store := completedStore failed j s.store, scu := { s.scu with store := none } }).raise .storeEnded

/-- STORE_COMPLETE of a store in progress ends it and answers it (R184). -/
theorem exec_storeComplete_job (hp : s.powered = true) (hj : s.scu.store = some j) (dt : Nat) (failed : Option Nat) :
    exec (.storeComplete dt failed) s = .next (((s.elapse dt).stored failed j).answerStore failed).drain := by
  rw [exec_storeComplete, timed_powered s dt _ hp]
  unfold State.completeStore
  rw [show (s.elapse dt).scu.store = some j from hj]
  rfl

/-- The end of a store raises STORE_ENDED (R184). -/
theorem raised_stored (failed : Option Nat) (j : StoreJob) (s : State) : (s.stored failed j).raised .storeEnded :=
  raised_raise_self _ _

/-- Settles O12: STORE_TABLES by its refusal, its misfit and its capture; STORE_COMPLETE by the whole and by the broken store. -/
theorem storeWritesEverySection : Obligations.StoreWritesEverySection := by
  refine ⟨fun s dt tag args h => ⟨fun ho ha => ?refused, fun hs => ⟨fun hx => ?misfit, fun arm fixed hx => ?capture⟩⟩,
    fun s dt j hp hj => ⟨⟨(s.elapse dt).stored none j, exec_storeComplete_job hp hj dt none, fun _ => condAt_wholeStore j,
      rfl, rfl, rfl, raised_stored _ _ _, rfl, rfl, rfl, rfl, rfl⟩, fun k hk => ?failed⟩⟩
  case refused => exact command_answers s h dt (argCommand_refused (refusal_storeTables_elsewhere (s := s.taken dt) ho ha))
  case misfit => exact command_answers s h dt (argCommand_misfit _ (refusal_storeTables (s := s.taken dt) hs) hx)
  case capture =>
    rw [exec_storeTables, storeCode, command_ready s h dt, storeTables_takes (s := s.taken dt) hs hx, drain_storing]
    rfl
  case failed =>
    obtain ⟨hbefore, hbad, hbehind, hnew, hold⟩ := brokenStore_sections hk j s.store
    exact ⟨(s.elapse dt).stored (some k) j, exec_storeComplete_job hp hj dt (some k), hbefore, hbad, hbehind, hnew, hold,
      rfl, raised_stored _ _ _, rfl, rfl, rfl⟩

end Sys2Proof.Machine
end

section
/-! PROOFS. O9: the reset state is the power-on load of a store that was never written. -/

namespace Sys2Proof.Machine

variable {s : State}

/-- Every entry of a list of equal ones is that one, and so is the default. -/
theorem getD_replicate_self {α : Type} (a : α) (n k : Nat) : (List.replicate n a).getD k a = a := by
  rw [List.getD_eq_getElem?_getD, List.getElem?_replicate]
  split <;> rfl

/-- Every section of a store that was never written is blank (R182). -/
theorem condAt_neverWritten (k : Nat) : condAt SettingsStore.blank k = .blank :=
  condAt_blank (getD_replicate_self _ 15 k)

/-- A store that was never written has no bad section (R182). -/
theorem anyBad_neverWritten : anyBad SettingsStore.blank = false := by
  simp [anyBad, allConds, condAt_neverWritten]

/-- The power-on load of the reset state is the reset state (R182). -/
theorem loaded_reset : State.reset.loaded = State.reset := rfl

/-- POWER_ON of the reset state leaves the reset state: no section is bad and auto-arm is clear (R182, R183). -/
theorem powerUp_reset : State.reset.powerUp = State.reset := by
  unfold State.powerUp State.raiseIf
  rw [show State.reset.store = SettingsStore.blank from rfl, anyBad_neverWritten, loaded_reset]
  exact autoArm_off 0 rfl

/-- Every report slot is FREE after reset (R150). -/
theorem slot_reset (n : Nat) : State.reset.rps.slot n = .free := by
  unfold Rps.slot
  split
  · rfl
  · exact getD_replicate_self _ 4 (n - 1)

/-- Settles O9: the reset state by its power-on load, its values by its definition. -/
theorem resetIsPowerOnOfBlankStore : Obligations.ResetIsPowerOnOfBlankStore := by
  refine ⟨congrArg Host.Outcome.next powerUp_reset, rfl, rfl, rfl, rfl, rfl, rfl, rfl, rfl, rfl, rfl, rfl, rfl, rfl, rfl, rfl, rfl,
    rfl, rfl, slot_reset, rfl, rfl, rfl, rfl, fun l => ?_⟩
  cases l <;> exact ⟨rfl, rfl, rfl, rfl⟩

end Sys2Proof.Machine
end

section
/-! PROOFS. O10: what the power-on load makes of each section, and what auto-arm leaves alone. -/

namespace Sys2Proof.Machine

variable {s b t : State} {f : Failure} {k : EventKind}

/-! ### Sections as loaded (R172, R182) -/

section
variable {α : Type} {x : SettingsStore} {i : Nat} {stored default empty : α}

theorem loadSection_good (h : condAt x i = .good) : loadSection x i stored default empty = stored := by
  unfold loadSection
  rw [h]

theorem loadSection_blank (h : condAt x i = .blank) : loadSection x i stored default empty = default := by
  unfold loadSection
  rw [h]

theorem loadSection_bad (h : condAt x i = .bad) : loadSection x i stored default empty = empty := by
  unfold loadSection
  rw [h]

/-- A section whose default is its empty content loads it whenever it is not good (R182). -/
theorem loadSection_not_good (h : condAt x i ≠ .good) : loadSection x i stored default default = default := by
  cases hc : condAt x i with
  | blank => exact loadSection_blank hc
  | good => exact absurd hc h
  | bad => exact loadSection_bad hc

end

/-- Each conversion table as loaded (R15, R182). -/
theorem conv_loadTables (x : SettingsStore) {k : Nat} (h : k < 4) : (loadTables x).conv.getD k [] = loadConv x k := by
  match k with
  | 0 | 1 | 2 | 3 => rfl
  | k + 4 => omega

/-- Each INVALID mark as loaded (R172). -/
theorem getD_loadMarks (x : SettingsStore) {k : Nat} (h : k < 14) : (loadMarks x).getD k false = (condAt x k == .bad) := by
  simp [loadMarks, List.getD_eq_getElem?_getD, h]

/-! ### What a start of the site leaves alone (R170, R175, R183) -/

/-- RPS values that agree but for raises agree in the event mask. -/
theorem mask_of_told {x y : Rps} (h : x.told = y.told) : x.mask = y.mask := (congrArg Rps.mask h :)

/-- `t` is `b` but for what a start of the site changes: SCU, the lines, the shutters, the nodes and channels, the commit, the supervision timer and the raised events. -/
structure SameButStarted (b t : State) : Prop where
  pending : t.pending = b.pending
  powered : t.powered = b.powered
  now : t.now = b.now
  pins : t.pins = b.pins
  store : t.store = b.store
  conds : t.conds = b.conds
  tables : t.tables = b.tables
  invalid : t.invalid = b.invalid
  lif : { t.lif with supTimer := none } = { b.lif with supTimer := none }
  sin : { t.sin with nodes := [], channels := [] } = { b.sin with nodes := [], channels := [] }
  axt : t.axt = b.axt
  passage : t.passage = b.passage
  alarms : t.aou.alarms = b.aou.alarms
  told : t.rps.told = b.rps.told
  autoArm : t.scu.autoArm = b.scu.autoArm

section
variable (h : SameButStarted b t)
include h

theorem SameButStarted.locked : t.lif.locked = b.lif.locked := (congrArg Lif.locked h.lif :)
theorem SameButStarted.queue : t.lif.queue = b.lif.queue := (congrArg Lif.queue h.lif :)
theorem SameButStarted.station : t.lif.station = b.lif.station := (congrArg Lif.station h.lif :)
theorem SameButStarted.fixed : t.lif.fixed = b.lif.fixed := (congrArg Lif.fixed h.lif :)
theorem SameButStarted.lifCounters : t.lif.counters = b.lif.counters := (congrArg Lif.counters h.lif :)
theorem SameButStarted.line : t.sin.line = b.sin.line := (congrArg Sin.line h.sin :)
theorem SameButStarted.history : t.sin.history = b.sin.history := (congrArg Sin.history h.sin :)
theorem SameButStarted.sinCounters : t.sin.counters = b.sin.counters := (congrArg Sin.counters h.sin :)
theorem SameButStarted.slots : t.rps.slots = b.rps.slots := (reports_of_told h.told).1
theorem SameButStarted.ring : t.rps.ring = b.rps.ring := (reports_of_told h.told).2.1
theorem SameButStarted.mask : t.rps.mask = b.rps.mask := mask_of_told h.told

end

/-- The entry into CHECKING discards what the channels have pending, and changes no more of SIN (R14, R131). -/
theorem sin_enterChecking (s : State) (n : Nat) : (s.enterChecking n).sin = s.discardPending.sin := by
  unfold State.enterChecking
  rw [sin_judgeLines, sin_closeShutters]
  rfl

/-- SIN as the site state leaves OFFLINE (R6, R11). -/
theorem sin_leaveOffline (s : State) : s.leaveOffline.sin = superviseNodes s.tables s.sin := by
  unfold State.leaveOffline
  rw [sin_onAou, sin_startSupervision]
  rfl

/-- LIF as the site state leaves OFFLINE, but for the supervision timer (R198). -/
theorem unsupervised_leaveOffline (s : State) :
    { s.leaveOffline.lif with supTimer := none } = { s.lif with supTimer := none } := by
  rw [lif_leaveOffline]
  split <;> rfl

theorem sameButStarted_startSite (s : State) (n : Nat) : SameButStarted s (s.startSite n) := by
  obtain ⟨htables, hinvalid, haxt, hpassage, halarms, htold⟩ := startSite_frame s n
  refine ⟨?_, ?_, ?_, ?_, ?_, ?_, htables, hinvalid, ?_, ?_, haxt, hpassage, halarms, htold, (validation_startSite s n).2⟩ <;>
    rw [startSite_eq]
  · rw [pending_enterChecking, pending_leaveOffline]; rfl
  · rw [powered_enterChecking, powered_leaveOffline]; rfl
  · rw [now_enterChecking, now_leaveOffline]; rfl
  · rw [pins_enterChecking, pins_leaveOffline]; rfl
  · rw [store_enterChecking, store_leaveOffline]; rfl
  · rw [conds_enterChecking, conds_leaveOffline]; rfl
  · rw [lif_enterChecking, unsupervised_leaveOffline]; rfl
  · rw [sin_enterChecking, State.discardPending, sin_onSin, sin_leaveOffline]; rfl

/-- Auto-arm with tables that fail notes the failure alone (R175, R183). -/
theorem autoArm_fails (n : Nat) (ha : s.scu.autoArm = true) (hv : s.validation = some f) :
    s.autoArm n = s.onScu fun u => { u with validation := .failed f } := by
  unfold State.autoArm
  rw [if_pos ha, hv]

/-- Auto-arm with sound tables starts the site (R175, R183). -/
theorem autoArm_starts (n : Nat) (ha : s.scu.autoArm = true) (hv : s.validation = none) : s.autoArm n = s.startSite n := by
  unfold State.autoArm
  rw [if_pos ha, hv]

/-- Auto-arm does nothing, notes a failure, or starts the site (R175, R183). -/
theorem autoArm_cases (s : State) (n : Nat) : s.autoArm n = s
    ∨ (∃ f, s.autoArm n = s.onScu fun u => { u with validation := .failed f }) ∨ s.autoArm n = s.startSite n := by
  cases ha : s.scu.autoArm with
  | false => exact .inl (autoArm_off n ha)
  | true =>
    cases hv : s.validation with
    | some f => exact .inr (.inl ⟨f, autoArm_fails n ha hv⟩)
    | none => exact .inr (.inr (autoArm_starts n ha hv))

/-- Auto-arm leaves what a start of the site leaves (R175, R183). -/
theorem sameButStarted_autoArm (s : State) (n : Nat) : SameButStarted s (s.autoArm n) := by
  obtain h | ⟨f, h⟩ | h := autoArm_cases s n <;> rw [h]
  · constructor <;> rfl
  · constructor <;> rfl
  · exact sameButStarted_startSite s n

/-- A start of the site keeps every raised kind. -/
theorem raised_startSite (n : Nat) (h : s.raised k) : (s.startSite n).raised k := by
  rw [startSite_eq]
  exact raised_enterChecking n (raised_congr (rps_leaveOffline _) h)

/-- Auto-arm keeps every raised kind. -/
theorem raised_autoArm (n : Nat) (h : s.raised k) : (s.autoArm n).raised k := by
  obtain e | ⟨f, e⟩ | e := autoArm_cases s n <;> rw [e]
  · exact h
  · exact h
  · exact raised_startSite n h

/-- A start of the site begins a check on committed tables that have passed (R170, R178). -/
theorem checks_startSite (s : State) (n : Nat) : Checks (s.startSite n) n ∧ (s.startSite n).scu.validation = .passed
    ∧ (s.startSite n).commit.site = some s.tables.site :=
  ⟨checks_enterChecking _ n, (validation_startSite s n).1, congrArg Commit.site (commit_startSite s n)⟩

/-! ### POWER_ON (R182, R183) -/

/-- The part loaded, with EQUIPMENT_CHANGED raised for bad sections (R182). -/
def State.woken (s : State) : State := s.loaded.raiseIf (anyBad s.store) .equipmentChanged

theorem powerUp_eq (s : State) : s.powerUp = s.woken.autoArm 0 := rfl

theorem sameButStarted_raiseIf (s : State) (c : Bool) (k : EventKind) : SameButStarted s (s.raiseIf c k) := by
  cases c <;> constructor <;> rfl

theorem SameButStarted.trans (h : SameButStarted s b) (g : SameButStarted b t) : SameButStarted s t where
  pending := g.pending.trans h.pending
  powered := g.powered.trans h.powered
  now := g.now.trans h.now
  pins := g.pins.trans h.pins
  store := g.store.trans h.store
  conds := g.conds.trans h.conds
  tables := g.tables.trans h.tables
  invalid := g.invalid.trans h.invalid
  lif := g.lif.trans h.lif
  sin := g.sin.trans h.sin
  axt := g.axt.trans h.axt
  passage := g.passage.trans h.passage
  alarms := g.alarms.trans h.alarms
  told := g.told.trans h.told
  autoArm := g.autoArm.trans h.autoArm

/-- POWER_ON leaves the part as it was loaded, but for what a start changes (R182, R183). -/
theorem sameButStarted_powerUp (s : State) : SameButStarted s.loaded s.powerUp :=
  (sameButStarted_raiseIf _ _ _).trans (sameButStarted_autoArm _ 0)

theorem scu_woken (s : State) : s.woken.scu = s.loaded.scu := scu_raiseIf _ _ _

theorem validation_woken (s : State) : s.woken.validation = s.loaded.validation :=
  validation_congr (congrArg Lif.station (lif_raiseIf ..)) (tables_raiseIf ..) (invalid_raiseIf ..)

/-- POWER_ON without auto-arm stays in OFFLINE with nothing committed (R182, R183). -/
theorem powerUp_unarmed (h : s.powerUp.scu.autoArm = false) :
    s.powerUp.scu.site = .offline ∧ s.powerUp.commit = ⟨s.powerUp.tables.site, none, none⟩ := by
  have hoff : s.powerUp = s.woken := by
    rw [powerUp_eq, autoArm_off]
    rw [scu_woken, ← (sameButStarted_powerUp s).autoArm]
    exact h
  rw [hoff, scu_woken, State.woken, commit_raiseIf, tables_raiseIf]
  exact ⟨rfl, rfl⟩

/-- POWER_ON raises EQUIPMENT_CHANGED for bad sections (R182). -/
theorem raised_powerUp (h : anyBad s.store = true) : s.powerUp.raised .equipmentChanged := by
  rw [powerUp_eq, State.woken, h]
  exact raised_autoArm 0 (raised_raise_self _ _)

/-- Settles O10: each section by its condition, the rest by the load, and auto-arm by the outcome of validation. -/
theorem powerOnLoadsTheStore : Obligations.PowerOnLoadsTheStore := by
  refine ⟨fun s => ⟨s.powerUp, rfl, ?load⟩, fun s ha => ⟨fun hv => ⟨s.powerUp, rfl, ?sound⟩, fun f hv => ⟨s.powerUp, rfl, ?failing⟩⟩⟩
  case load =>
    have h := sameButStarted_powerUp s
    refine ⟨h.powered, h.now, h.pending, h.pins, h.store, h.conds, fun k hk => ?marks, ?tables⟩
    case marks =>
      rw [h.invalid]
      exact getD_loadMarks s.store hk
    rw [h.tables, h.autoArm]
    have conv : ∀ k, k < 4 → s.loaded.tables.conv.getD k [] = loadConv s.store k := fun k => conv_loadTables s.store
    refine ⟨loadSection_good, loadSection_not_good, loadSection_good, loadSection_blank, loadSection_bad, loadSection_good,
      loadSection_not_good, loadSection_good, loadSection_not_good, rfl,
      fun k hk => ⟨fun hc => (conv k hk).trans (loadSection_good hc), fun hc => (conv k hk).trans (loadSection_not_good hc)⟩,
      loadSection_good, loadSection_not_good, loadSection_good, loadSection_not_good, loadSection_good, loadSection_not_good,
      loadSection_good, loadSection_not_good, loadSection_good, loadSection_not_good, loadSection_good, loadSection_not_good,
      fun hc => ?identity, fun hc => ?blankIdentity, raised_powerUp, h.passage, h.locked, h.queue, h.mask,
      h.slots, h.ring, h.axt, h.alarms, fun hoff => ?unarmed⟩
    case identity =>
      have hid : loadIdentity s.store = s.store.identity := loadSection_good hc
      rw [h.station, h.fixed, ← hid]
      exact ⟨rfl, rfl, rfl⟩
    case blankIdentity =>
      have hid : loadIdentity s.store = Identity.blank := loadSection_not_good hc
      rw [h.station, h.fixed]
      exact ⟨congrArg Identity.station hid, congrArg Identity.fixed hid, congrArg Identity.autoArm hid⟩
    case unarmed =>
      rw [← h.tables]
      exact powerUp_unarmed (h.autoArm.trans hoff)
  case sound =>
    obtain ⟨hchecks, hpassed, hcommit⟩ := checks_startSite s.woken 0
    rw [powerUp_eq, autoArm_starts 0 (scu_woken s ▸ ha) ((validation_woken s).trans hv)]
    exact ⟨hchecks, hpassed, by rw [hcommit, (startSite_frame _ 0).1]⟩
  case failing =>
    rw [powerUp_eq, autoArm_fails 0 (scu_woken s ▸ ha) ((validation_woken s).trans hv), scu_onScu, scu_woken]
    exact ⟨rfl, rfl⟩

end Sys2Proof.Machine
end

section
/-! PROOFS. O22: what RESTART clears and keeps, before auto-arm and after it. -/

namespace Sys2Proof.Machine

variable {s t : State} {dt : Nat} {tag : Byte} {f : Failure}

/-! ### The cleared part (R175) -/

/-- The part cleared and in OFFLINE, as RESTART leaves it to auto-arm (R175). -/
def State.cleared (s : State) : State := (State.equipmentSince s s.clearForRestart).enterOffline

theorem restart_eq (s : State) : s.restart = s.cleared.autoArm 5000000 := rfl

/-- RESTART without arguments is never refused (R175). -/
theorem restart_takes (s : State) : restart tag [] s = s.restart.answer 8 tag .done [] := plainCommand_takes s rfl

/-- An entry into OFFLINE makes no passage (R54). -/
theorem passage_enterOffline_none (h : s.passage = none) : s.enterOffline.passage = none := by
  unfold State.enterOffline
  simp [h]

/-- What RESTART keeps: the tables with their marks, and the commit (R175). -/
theorem cleared_keeps (s : State) : s.cleared.tables = s.tables ∧ s.cleared.invalid = s.invalid ∧ s.cleared.commit = s.commit := by
  unfold State.cleared
  rw [tables_enterOffline, tables_equipmentSince, invalid_enterOffline, invalid_equipmentSince, commit_enterOffline,
    commit_equipmentSince]
  exact ⟨rfl, rfl, rfl⟩

/-- AXT as RESTART clears it: empty, with the next passage number (R175). -/
theorem axt_cleared (s : State) : s.cleared.axt = { Axt.reset with nextPassage := s.axt.nextPassage } := by
  unfold State.cleared
  rw [axt_enterOffline, axt_equipmentSince]
  rfl

/-- LIF as RESTART clears it: its counters at 0, the link PRESENT and unsupervised (R175, R198). -/
theorem lif_cleared (s : State) : s.cleared.lif = suspendLink { s.lif with counters := LifCounters.zero } := by
  unfold State.cleared
  rw [lif_enterOffline, lif_equipmentSince]
  rfl

/-- SIN as RESTART clears it: the delay line and the counters empty, the ambient history kept (R175). -/
theorem sin_cleared (s : State) : s.cleared.sin.line = [] ∧ s.cleared.sin.counters = SinCounters.zero
    ∧ s.cleared.sin.history = s.sin.history := by
  unfold State.cleared
  rw [sin_enterOffline, State.discardPending, sin_onSin, sin_equipmentSince]
  exact ⟨rfl, rfl, rfl⟩

/-- SCU as RESTART clears it: no check, the validation and the auto-arm flag kept (R175). -/
theorem scu_cleared (s : State) : s.cleared.scu.check = .idle ∧ s.cleared.scu.validation = s.scu.validation
    ∧ s.cleared.scu.autoArm = s.scu.autoArm := by
  unfold State.cleared
  rw [scu_enterOffline, State.changeSite, scu_raise, scu_onScu, scu_equipmentSince]
  exact ⟨rfl, rfl, rfl⟩

/-- The alarm list as RESTART clears it (R175). -/
theorem alarms_cleared (s : State) : s.cleared.aou.alarms = AlarmList.reset := by
  unfold State.cleared
  rw [alarms_enterOffline, alarms_equipmentSince]
  rfl

/-- RPS as RESTART clears it, but for the raised events: the mask is kept (R175). -/
theorem told_cleared (s : State) : s.cleared.rps.told = s.rps.restart.told := by
  unfold State.cleared
  rw [told_enterOffline, told_equipmentSince]
  rfl

theorem passage_cleared (s : State) : s.cleared.passage = none :=
  passage_enterOffline_none (passage_equipmentSince ..)

theorem rests_cleared (s : State) : Rests s.cleared := rests_enterOffline _

/-- Validation reads nothing that RESTART clears (R171, R175). -/
theorem validation_cleared (s : State) : s.cleared.validation = s.validation := by
  obtain ⟨htables, hinvalid, -⟩ := cleared_keeps s
  exact validation_congr (by rw [lif_cleared]; rfl) htables hinvalid

/-! ### Auto-arm after the clearing (R175) -/

/-- The last validation result bears on nothing that OFFLINE states (R169). -/
theorem rests_validation (h : Rests s) (v : Validation) : Rests (s.onScu fun u => { u with validation := v }) :=
  ⟨h.site, h.raised, h.interval, h.due, h.queue, h.line, h.released, h.nodes, h.link, h.supervision, h.shutter, h.lines⟩

/-- RESTART without auto-arm rests in OFFLINE (R175). -/
theorem restart_unarmed (ha : s.scu.autoArm = false) : Rests s.restart ∧ s.restart.scu.check = .idle
    ∧ s.restart.commit = s.commit ∧ s.restart.scu.validation = s.scu.validation := by
  obtain ⟨hcheck, hvalidation, harm⟩ := scu_cleared s
  rw [restart_eq, autoArm_off _ (harm.trans ha)]
  exact ⟨rests_cleared s, hcheck, (cleared_keeps s).2.2, hvalidation⟩

/-- RESTART under auto-arm with tables that fail rests in OFFLINE, with the failure noted (R175). -/
theorem restart_fails (ha : s.scu.autoArm = true) (hv : s.validation = some f) :
    Rests s.restart ∧ s.restart.scu.validation = .failed f ∧ s.restart.commit = s.commit := by
  obtain ⟨-, -, harm⟩ := scu_cleared s
  rw [restart_eq, autoArm_fails _ (harm.trans ha) ((validation_cleared s).trans hv)]
  exact ⟨rests_validation (rests_cleared s) _, rfl, (commit_onScu ..).trans (cleared_keeps s).2.2⟩

/-- RESTART under auto-arm with sound tables begins a check with 5 s (R175). -/
theorem restart_starts (ha : s.scu.autoArm = true) (hv : s.validation = none) :
    Checks s.restart 5000000 ∧ s.restart.scu.validation = .passed ∧ s.restart.commit.site = some s.tables.site := by
  obtain ⟨-, -, harm⟩ := scu_cleared s
  rw [restart_eq, autoArm_starts _ (harm.trans ha) ((validation_cleared s).trans hv)]
  obtain ⟨hchecks, hpassed, hcommit⟩ := checks_startSite s.cleared 5000000
  exact ⟨hchecks, hpassed, by rw [hcommit, (cleared_keeps s).1]⟩

/-- What RESTART leaves whatever auto-arm then does (R175). -/
theorem restart_clears (s : State) : s.restart.passage = none
    ∧ s.restart.axt = { Axt.reset with nextPassage := s.axt.nextPassage } ∧ s.restart.sin.line = []
    ∧ s.restart.sin.counters = SinCounters.zero ∧ s.restart.sin.history = s.sin.history
    ∧ s.restart.lif.counters = LifCounters.zero ∧ s.restart.aou.alarms = AlarmList.reset
    ∧ s.restart.rps.told = s.rps.restart.told ∧ s.restart.raised .stateChanged
    ∧ s.restart.tables = s.tables ∧ s.restart.invalid = s.invalid := by
  have h : SameButStarted s.cleared s.restart := sameButStarted_autoArm s.cleared 5000000
  obtain ⟨htables, hinvalid, -⟩ := cleared_keeps s
  obtain ⟨hline, hcounters, hhistory⟩ := sin_cleared s
  have hlif : s.cleared.lif.counters = LifCounters.zero := by rw [lif_cleared]; rfl
  exact ⟨h.passage.trans (passage_cleared s), h.axt.trans (axt_cleared s), h.line.trans hline, h.sinCounters.trans hcounters,
    h.history.trans hhistory, h.lifCounters.trans hlif, h.alarms.trans (alarms_cleared s), h.told.trans (told_cleared s),
    raised_autoArm _ (rests_cleared s).raised, h.tables.trans htables, h.invalid.trans hinvalid⟩

/-- Settles O22: the clearing by block, then auto-arm by its flag and the outcome of validation. -/
theorem restartClearsAndRearms : Obligations.RestartClearsAndRearms := by
  refine fun s dt tag h => ⟨(s.taken dt).restart, command_answers s h dt (restart_takes (s.taken dt)), ?_⟩
  obtain ⟨hpassage, haxt, hline, hcounters, hhistory, hlif, halarms, htold, hraised, htables, hinvalid⟩ :=
    restart_clears (s.taken dt)
  obtain ⟨hslots, hring, -, -⟩ := reports_of_told htold
  have hvalid := validation_taken s dt
  rw [haxt]
  exact ⟨hpassage, rfl, rfl, rfl, hline, hcounters, hhistory, hlif, halarms, hslots, hring,
    (mask_of_told htold :), hraised, htables, hinvalid,
    restart_unarmed (s := s.taken dt), fun f ha hv => restart_fails (s := s.taken dt) ha (hvalid.trans hv),
    fun ha hv => restart_starts (s := s.taken dt) ha (hvalid.trans hv)⟩

end Sys2Proof.Machine
end

section
/-! PROOFS. O23: the three beginnings of a check in ARMED, and the check left due elsewhere. -/

namespace Sys2Proof.Machine

variable {s : State} {dt n : Nat} {tag : Byte}

/-- The entry into CHECKING leaves the interval timer (R181). -/
theorem interval_enterChecking (s : State) (n : Nat) : (s.enterChecking n).scu.interval = s.scu.interval := by
  rw [scu_enterChecking]
  rfl

theorem mayCheck_iff : s.mayCheck = true ↔ s.scu.site = .armed ∧ s.pins.approach = false := by
  simp [State.mayCheck]

/-- RUN_CHECK that is not refused begins a check with no settle wait (R181). -/
theorem runCheck_takes (hs : s.scu.site = .armed) (ha : s.pins.approach = false) :
    runCheck tag [] s = (s.enterChecking 0).answer 9 tag .done [] := plainCommand_takes s (refusal_runCheck hs ha)

/-- DUE_CHECK_START of a check that may start begins it (R181). -/
theorem exec_dueCheckStart_due (hp : s.powered = true) (hd : s.scu.due = true) (hm : s.mayCheck = true) (dt : Nat) :
    exec (.dueCheckStart dt) s = .next ((s.elapse dt).enterChecking 0) :=
  (exec_dueCheckStart s dt).trans (timed_when s hp dt (b := fun t => t.scu.due && t.mayCheck)
    (Bool.and_eq_true_iff.mpr ⟨hd, hm⟩))

/-- INTERVAL_TIMER_EXPIRY of a timer that has run out (R181). -/
theorem exec_intervalTimerExpiry_due (hp : s.powered = true) (ht : s.scu.interval = some n) (hn : n ≤ dt) :
    exec (.intervalTimerExpiry dt) s = .next (s.elapse dt).intervalEnd :=
  (exec_intervalTimerExpiry s dt).trans
    (timed_when s hp dt (b := fun t => expired t.scu.interval) (expired_tick ht hn))

/-- The part with a check due and the interval timer stopped (R181). -/
def State.checkDue (s : State) : State := s.onScu fun u => { u with interval := none, due := true }

theorem intervalEnd_starts (h : s.mayCheck = true) : s.intervalEnd = s.checkDue.enterChecking 0 := if_pos h

theorem intervalEnd_waits (h : s.mayCheck ≠ true) : s.intervalEnd = s.checkDue := if_neg h

/-- Settles O23: each beginning is the entry into CHECKING with no settle wait; elsewhere the check is due. -/
theorem checksBeginInArmed : Obligations.ChecksBeginInArmed := by
  refine ⟨fun s dt hs ha => ⟨fun tag h => ⟨_, command_answers s h dt (runCheck_takes (s := s.taken dt) hs ha),
      checks_enterChecking _ 0, tables_enterChecking _ 0, commit_enterChecking _ 0, axt_enterChecking _ 0⟩,
    fun hp hd => ⟨_, exec_dueCheckStart_due hp hd (mayCheck_iff.mpr ⟨hs, ha⟩) dt, checks_enterChecking _ 0,
      tables_enterChecking _ 0, commit_enterChecking _ 0, axt_enterChecking _ 0⟩,
    fun n hp ht hn => ⟨_, (exec_intervalTimerExpiry_due hp ht hn).trans
        (congrArg _ (intervalEnd_starts (s := s.elapse dt) (mayCheck_iff.mpr ⟨hs, ha⟩))),
      checks_enterChecking _ 0, interval_enterChecking _ 0⟩⟩,
    fun s dt n hp ht hn hw => (exec_intervalTimerExpiry_due hp ht hn).trans
      (congrArg _ (intervalEnd_waits (s := s.elapse dt) fun hm => ?_))⟩
  obtain ⟨hs, ha⟩ := mayCheck_iff.mp hm
  exact hw.elim (fun hne => hne hs) fun happroach => Bool.false_ne_true (ha.symm.trans happroach)

end Sys2Proof.Machine
end

section
/-! PROOFS. O35: what brings lock, and the rates tried in SEARCH. -/

namespace Sys2Proof.Machine

variable {s : State} {dt n : Nat} {bytes : List Byte} {f : Frame}

/-! ### The lock (R176, R187, R189) -/

/-- The part locked, with the loss timer stopped and the first TIM frame due (R176, R187, R189). -/
def State.gained (s : State) : State := (s.onLif (gainLock s.quietLimit)).onScu fun u => { u with loss := none }

/-- The transmitter, free in LOCKED with a TIM frame due, begins to send it (R189). -/
theorem transmit_tim (hl : s.lif.locked = true) (hs : s.lif.sending = none) (ht : s.lif.timWaiting = true) :
    s.transmit = s.beginTim := by
  unfold State.transmit
  rw [if_pos ⟨hl, by rw [hs]; rfl⟩, if_pos ht]

/-- The lock lets the first TIM frame begin, and after a loss raises its two events (R187, R189). -/
theorem lockLoop_eq (h : s.lif.sending = none) :
    s.lockLoop = if s.lif.loopLost then s.gained.beginTim.equipmentChanged.raise .loopRelocked else s.gained.beginTim := by
  unfold State.lockLoop
  rw [show ((s.onLif (gainLock s.quietLimit)).onScu fun u => { u with loss := none }).transmit = s.gained.beginTim from
    transmit_tim (s := s.gained) rfl h rfl]

/-- A field that the events raised at a lock leave alone is that of the part locked. -/
theorem lockLoop_field {α : Type} (g : State → α) (hg : ∀ t : State, g (t.equipmentChanged.raise .loopRelocked) = g t)
    (h : s.lif.sending = none) : g s.lockLoop = g s.gained.beginTim := by
  rw [lockLoop_eq h]
  split
  · exact hg _
  · rfl

/-- LIF as a lock leaves it: the first TIM frame is being sent (R187, R189). -/
theorem lif_lockLoop (h : s.lif.sending = none) : s.lockLoop.lif = { gainLock s.quietLimit s.lif with
    timWaiting := false, sending := some ⟨.tim, frameOctets 255 s.lif.station .tim (putTime s.now)⟩ } :=
  lockLoop_field State.lif (fun t => lif_equipmentChanged t) h

theorem scu_lockLoop (h : s.lif.sending = none) : s.lockLoop.scu = { s.scu with loss := none } :=
  lockLoop_field State.scu (fun t => scu_equipmentChanged t) h

/-- A lock leaves SIN, AXT, the passage and the tables. -/
theorem lockLoop_frame (h : s.lif.sending = none) : s.lockLoop.sin = s.sin ∧ s.lockLoop.axt = s.axt
    ∧ s.lockLoop.passage = s.passage ∧ s.lockLoop.tables = s.tables :=
  ⟨lockLoop_field State.sin (fun t => sin_equipmentChanged t) h, lockLoop_field State.axt (fun t => axt_equipmentChanged t) h,
    lockLoop_field State.passage (fun t => passage_equipmentChanged t) h,
    lockLoop_field State.tables (fun t => tables_equipmentChanged t) h⟩

/-- A lock after a loss raises LOOP_RELOCKED, and EQUIPMENT_CHANGED as LOOP_LOST leaves the fault set (R187). -/
theorem raised_lockLoop (h : s.lif.sending = none) (hl : s.lif.loopLost = true) :
    s.lockLoop.raised .loopRelocked ∧ s.lockLoop.raised .equipmentChanged := by
  rw [lockLoop_eq h, if_pos hl]
  exact ⟨raised_raise_self _ _, raised_raise _ (raised_equipmentChanged_self _)⟩

/-- A first lock raises nothing (R187). -/
theorem rps_lockLoop (h : s.lif.sending = none) (hl : s.lif.loopLost = false) : s.lockLoop.rps = s.rps := by
  rw [lockLoop_eq h, if_neg (by rw [hl]; exact Bool.false_ne_true)]
  rfl

/-- FRAME_RECEIVED in SEARCH of a frame that passes its check at the rate listened to: the loop locks, and the frame is handled (R187). -/
theorem exec_searching (dt : Nat) (hp : s.powered = true) (hl : s.lif.locked = false) (hf : checkFrame bytes = some f) :
    exec (.frameReceived dt s.lif.rate bytes) s = .next ((s.elapse dt).lockLoop.handleFrame f) := by
  rw [exec_frameReceived, timed_powered s dt _ hp]
  congr 1
  unfold State.receive
  rw [if_neg (by simp [hl])]
  unfold State.frameSearching
  simp only [lif_elapse, rate_tickLif, hf, if_true]

/-- A frame of the part's own is stripped (R188). -/
theorem handleFrame_own (h : f.source = s.lif.station) : s.handleFrame f = s.onLif (stripFrame f.octets) :=
  if_pos (by simp [ownSource, h])

/-- Stripping a frame changes the kept previous address at most (R188, R190). -/
theorem stripFrame_cases (octets : List Byte) (l : Lif) : stripFrame octets l = l ∨ stripFrame octets l = { l with strip := none } := by
  unfold stripFrame
  split
  · exact .inr rfl
  · exact .inl rfl

/-- A field of LIF other than the kept previous address stands as a frame is stripped. -/
theorem stripFrame_field {α : Type} (g : Lif → α) (hg : ∀ l, g { l with strip := none } = g l) (octets : List Byte) (l : Lif) :
    g (stripFrame octets l) = g l := by
  rcases stripFrame_cases octets l with h | h <;> rw [h]
  exact hg l

/-- SEARCH_DWELL_EXPIRY moves on to the next rate (R187). -/
theorem exec_searchDwellExpiry_due (hp : s.powered = true) (hl : s.lif.locked = false) (ht : s.lif.dwell = some n) (hn : n ≤ dt) :
    exec (.searchDwellExpiry dt) s = .next ((s.elapse dt).onLif fun l => { l with rate := nextRate l.rate, dwell := some 100000 }) := by
  refine (exec_searchDwellExpiry s dt).trans (timed_when s hp dt (b := fun t => !t.lif.locked && expired t.lif.dwell) ?_)
  have hexp : expired (tickLif dt s.lif).dwell = true := expired_tick ht hn
  simp [hexp, hl]

/-- Settles O35: the lock by what it leaves of each block, the part's own frame by its stripping, and the next rate. -/
theorem searchFindsTheLoop : Obligations.SearchFindsTheLoop := by
  refine ⟨fun s dt bytes f hp hl hs hf => ⟨(s.elapse dt).lockLoop, exec_searching dt hp hl hf, ?lock⟩,
    fun s dt bytes f hp hl hf => exec_locked dt hp hl hf,
    fun s dt bytes f hp hl hs hf hown => ⟨_, exec_searching dt hp hl hf, ?own⟩,
    fun s dt n hp hl ht hn => (exec_searchDwellExpiry_due hp hl ht hn).trans ?rate⟩
  case lock =>
    have hfree : (s.elapse dt).lif.sending = none := hs
    obtain ⟨hsin, haxt, hpassage, htables⟩ := lockLoop_frame hfree
    rw [lif_lockLoop hfree, scu_lockLoop hfree]
    exact ⟨rfl, rfl, rfl, rfl, rfl, rfl, rfl, rfl, rfl, raised_lockLoop (s := s.elapse dt) hfree,
      rps_lockLoop (s := s.elapse dt) hfree, hsin, haxt, hpassage, htables⟩
  case own =>
    have hfree : (s.elapse dt).lif.sending = none := hs
    have hlif := lif_lockLoop hfree
    rw [handleFrame_own (by rw [hlif]; exact hown), lif_onLif, scu_onLif, rps_onLif, scu_lockLoop hfree,
      stripFrame_field Lif.locked fun _ => rfl, stripFrame_field Lif.rate fun _ => rfl, stripFrame_field Lif.dwell fun _ => rfl,
      stripFrame_field Lif.quiet fun _ => rfl, stripFrame_field Lif.timTimer fun _ => rfl,
      stripFrame_field Lif.loopLost fun _ => rfl, stripFrame_field Lif.sending fun _ => rfl, hlif]
    exact ⟨rfl, rfl, rfl, rfl, rfl, rfl, rfl, rfl, raised_lockLoop (s := s.elapse dt) hfree, rps_lockLoop (s := s.elapse dt) hfree⟩
  case rate =>
    cases hr : s.lif.rate <;> simp [State.onLif, nextRate, hr]

end Sys2Proof.Machine
end

section
/-! PROOFS. O36: what the loss of the loop takes from LIF, and what it does in each site state. -/

namespace Sys2Proof.Machine

variable {s : State} {dt n : Nat}

/-! ### LIF at a loss of the loop (R187, R192) -/

/-- One answer is lost where a report read was in progress (R192). -/
theorem readLost_eq (p : Option InProgress) : readLost p = (match p with
    | some ⟨.read _, _, _⟩ => 1
    | _ => 0) := by
  rcases p with _ | ⟨_ | _ | _, _, _⟩ <;> rfl

/-- The answers lost with the loop: the waiting commands, the waiting answers and a report read in progress (R192). -/
theorem answersLost_loseLock (l : Lif) : (loseLock l).counters.answersLost
    = min 65535 (l.counters.answersLost + l.queue.length + (l.own.filter fun f => f.kind == .ans).length
      + (match l.inProgress with
          | some ⟨.read _, _, _⟩ => 1
          | _ => 0)) := by
  rw [← readLost_eq]
  rfl

/-- The loop's loss is counted (R199). -/
theorem loopLosses_loseLock (l : Lif) : (loseLock l).counters.loopLosses = min 65535 (l.counters.loopLosses + 1) :=
  bump_eq_min _

/-- The command in progress after the loop's loss (R192). -/
theorem inProgress_loseLock (l : Lif) {p : InProgress} (h : l.inProgress = some p) : (loseLock l).inProgress = loseProgress p := by
  unfold loseLock
  rw [h]
  rfl

/-! ### The part at a loss of the loop (R176, R180, R187) -/

/-- The part in SEARCH with LOOP_LOST in the fault set, before a running check is aborted (R176, R187). -/
def State.lost (s : State) : State := (s.onLif loseLock).equipmentChanged.startLoss

theorem loseLoop_eq (s : State) : s.loseLoop = if s.lost.checkSampling then (s.lost.abortCheck .loop).enterArmed else s.lost := rfl

/-- The loss timer touches Site Control alone (R176). -/
theorem startLoss_eq (s : State) :
    s.startLoss = s.onScu fun u => { u with loss := if s.scu.site = .passage then some 10000000 else u.loss } := by
  unfold State.startLoss
  split <;> rfl

/-- Site Control as the loop is lost: the loss timer starts in PASSAGE (R176). -/
theorem scu_lost (s : State) : s.lost.scu = { s.scu with loss := if s.scu.site = .passage then some 10000000 else s.scu.loss } := by
  unfold State.lost
  rw [startLoss_eq, scu_onScu, scu_equipmentChanged]
  rfl

theorem lif_lost (s : State) : s.lost.lif = loseLock s.lif := by
  unfold State.lost
  rw [startLoss_eq, lif_onScu, lif_equipmentChanged]
  rfl

theorem raised_lost (s : State) : s.lost.raised .equipmentChanged := by
  unfold State.lost
  rw [startLoss_eq]
  exact raised_congr (rps_onScu ..) (raised_equipmentChanged_self _)

/-- The loss of the loop leaves whether a check takes samples (R180). -/
theorem checkSampling_lost (s : State) : s.lost.checkSampling = s.checkSampling := by
  unfold State.checkSampling
  rw [scu_lost]

theorem checkSampling_iff : s.checkSampling = true ↔ s.scu.check = .run .capture ∨ s.scu.check = .run .reference := by
  simp [State.checkSampling]

/-- A loss of the loop while a check takes samples aborts the check into ARMED (R180). -/
theorem loseLoop_sampling (h : s.checkSampling = true) : s.loseLoop = (s.lost.abortCheck .loop).enterArmed :=
  (loseLoop_eq s).trans (if_pos ((checkSampling_lost s).trans h))

theorem loseLoop_idle (h : s.checkSampling ≠ true) : s.loseLoop = s.lost :=
  (loseLoop_eq s).trans (if_neg fun hc => h ((checkSampling_lost s).symm.trans hc))

/-- LIF at a loss of the loop, whether or not a check is aborted (R187, R192). -/
theorem lif_loseLoop (s : State) : s.loseLoop.lif = loseLock s.lif := by
  by_cases h : s.checkSampling = true
  · rw [loseLoop_sampling h, lif_enterArmed, lif_abortCheck, lif_lost]
  · rw [loseLoop_idle h, lif_lost]

/-- A loss of the loop raises EQUIPMENT_CHANGED (R140, R187). -/
theorem raised_loseLoop (s : State) : s.loseLoop.raised .equipmentChanged := by
  by_cases h : s.checkSampling = true
  · rw [loseLoop_sampling h]
    exact raised_enterArmed (raised_abortCheck _ (raised_lost s))
  · rw [loseLoop_idle h]
    exact raised_lost s

/-- QUIET_TIMER_EXPIRY in LOCKED loses the loop (R187). -/
theorem exec_quietTimerExpiry_due (hp : s.powered = true) (hl : s.lif.locked = true) (ht : s.lif.quiet = some n) (hn : n ≤ dt) :
    exec (.quietTimerExpiry dt) s = .next (s.elapse dt).loseLoop := by
  refine (exec_quietTimerExpiry s dt).trans (timed_when s hp dt (b := fun t => t.lif.locked && expired t.lif.quiet) ?_)
  have hexp : expired (tickLif dt s.lif).quiet = true := expired_tick ht hn
  simp [hexp, hl]

/-- Settles O36: LIF by what it loses, then the loss timer in PASSAGE and the abort of a check that takes samples. -/
theorem quietTimeLosesTheLoop : Obligations.QuietTimeLosesTheLoop := by
  refine fun s dt n hp hl ht hn => ⟨_, exec_quietTimerExpiry_due hp hl ht hn, ?_⟩
  rw [lif_loseLoop]
  refine ⟨rfl, rfl, rfl, rfl, rfl, rfl, rfl, rfl, rfl, answersLost_loseLock _, fun r tag b h => inProgress_loseLock _ h,
    fun tag b h => inProgress_loseLock _ h, fun tag b h => inProgress_loseLock _ h, loopLosses_loseLock _, raised_loseLoop _,
    fun hs hcapture hreference => ?passage, fun hc => ?sampling⟩
  case passage =>
    have hidle : (s.elapse dt).checkSampling ≠ true := fun h => (checkSampling_iff.mp h).elim hcapture hreference
    rw [loseLoop_idle hidle, scu_lost]
    exact ⟨if_pos hs, hs⟩
  case sampling =>
    obtain ⟨hsite, hcheck, hended, -⟩ := abortCheck_enterArmed (s.elapse dt).lost .loop
    rw [loseLoop_sampling (s := s.elapse dt) (checkSampling_iff.mpr hc)]
    exact ⟨hsite, hcheck, hended⟩

end Sys2Proof.Machine
end

section
/-! PROOFS. O1 and O3: the step on a waiting command, and the next state that every row answers. -/

namespace Sys2Proof.Machine

/-- Settles O1: the step takes the front of the queue. -/
theorem stepRunsFrontCommand : Obligations.StepRunsFrontCommand := fun _ _ _ => rfl

/-- A timed row answers a next state, with or without supply. -/
theorem timed_answers (dt : Nat) (f : State → State) (s : State) : ∃ t, timed dt f s = .next t := by
  unfold timed
  split <;> exact ⟨_, rfl⟩

/-- The row of an input answers a next state, with or without supply. -/
theorem pinRow_answers (dt : Nat) (c : State → Bool) (f : State → State) (p : Pins → Pins) (s : State) :
    ∃ t, pinRow dt c f p s = .next t := by
  unfold pinRow
  split <;> exact ⟨_, rfl⟩

/-- Settles O3: every row is POWER_ON, a timed row or the row of an input. -/
theorem everyCommandAnswersNext : Obligations.EveryCommandAnswersNext := by
  intro i s
  by_cases hi : i = .powerOn
  · subst hi
    exact ⟨_, exec_powerOn s⟩
  · rcases exec_shape i hi with ⟨dt, f, he, -⟩ | ⟨dt, c, f, p, he, -⟩ <;> rw [he]
    · exact timed_answers dt f s
    · exact pinRow_answers dt c f p s

end Sys2Proof.Machine
end

section
/-! PROOFS. O13: where an answer goes, and what answering leaves alone. -/

namespace Sys2Proof.Machine

variable {s : State} {code : Nat} {tag : Byte} {a : AnswerCode} {data : List Byte}

/-! ### The ANS frame (R189, R192) -/

/-- An answer in LOCKED is handed over as an ANS frame, and no command is in progress any more (R192). -/
theorem answer_locked (hl : s.lif.locked = true) (code : Nat) (tag : Byte) (a : AnswerCode) (data : List Byte) :
    s.answer code tag a data = (s.onLif fun l => { l with inProgress := none }).handOwn
      (ansFrame s.controller code tag a data false none) := if_pos hl

/-- An answer in SEARCH is lost (R192). -/
theorem answer_search (hl : s.lif.locked = false) (code : Nat) (tag : Byte) (a : AnswerCode) (data : List Byte) :
    s.answer code tag a data = s.onLif fun l => loseAnswer { l with inProgress := none } := if_neg (by simp [hl])

/-- An answer begins to be sent where the transmitter is free with nothing waiting before it (R189). -/
theorem answer_sends (hl : s.lif.locked = true) (hs : s.lif.sending = none) (ht : s.lif.timWaiting = false) (ho : s.lif.own = []) :
    s.answer code tag a data = s.onLif fun l => { l with
      inProgress := none
      sending := some ⟨.own .ans, frameOctets s.controller l.station .ans (ansPayload code tag a data)⟩ } :=
  (answer_locked hl code tag a data).trans (handOwn_sends (s := s.onLif _) hl hs ht ho rfl)

/-- An answer waits behind the own frames while a frame is being sent (R189). -/
theorem answer_waits (hl : s.lif.locked = true) (hs : s.lif.sending.isSome = true) :
    s.answer code tag a data = s.onLif fun l => { l with
      inProgress := none
      own := l.own ++ [ansFrame s.controller code tag a data false none] } :=
  (answer_locked hl code tag a data).trans (handOwn_waits (s := s.onLif fun l => { l with inProgress := none }) hs _)

/-! ### What answering leaves alone (R192) -/

/-- Answering a command leaves every block but LIF and RPS (R192). -/
theorem sameBlocks_ended (s : State) (code : Nat) (tag : Byte) (a : AnswerCode) (data : List Byte) :
    SameBlocks s (s.ended code tag a data) := by
  constructor <;> simp [State.ended]

/-- RPS values that agree in all but the hold-off timer differ in it alone. -/
theorem eq_of_rps {x y : Rps} (h1 : x.slots = y.slots) (h2 : x.sealCount = y.sealCount) (h3 : x.ring = y.ring)
    (h4 : x.pending = y.pending) (h5 : x.marks = y.marks) (h6 : x.mask = y.mask) (h7 : x.sendDue = y.sendDue)
    (h8 : x.lastEvt = y.lastEvt) (h9 : x.lastPassage = y.lastPassage) : x = { y with holdOff := x.holdOff } := by
  cases x
  cases y
  simp_all

/-- Answering a command leaves all of RPS but the hold-off timer (R165, R192). -/
theorem rps_ended (s : State) (code : Nat) (tag : Byte) (a : AnswerCode) (data : List Byte) :
    (s.ended code tag a data).rps = { s.rps with holdOff := (s.ended code tag a data).rps.holdOff } := by
  apply eq_of_rps <;> simp [State.ended]

/-- Settles O13: the answer that is sent, the one that waits and the one that is lost, and the blocks an answer leaves. -/
theorem answersGoToTheController : Obligations.AnswersGoToTheController := by
  refine ⟨fun s code tag a data => ⟨inProgress_answer s code tag a data, fun hl hs ht ho => ?sent, fun hl hs => ?waits, fun hl => ?lost⟩,
    fun s code tag a data => ⟨sameBlocks_ended s code tag a data, rps_ended s code tag a data⟩⟩
  case sent =>
    rw [answer_sends hl hs ht ho]
    exact ⟨rfl, ho⟩
  case waits =>
    rw [answer_waits hl hs]
    exact ⟨rfl, rfl⟩
  case lost =>
    rw [answer_search hl, ← bump_eq_min]
    rfl

end Sys2Proof.Machine
end

section
/-! PROOFS. O15: READ_LIVE as LIF takes it. -/

namespace Sys2Proof.Machine

/-- READ_LIVE answers the live values, with the fresh flags as they were before it clears them (R197). -/
theorem readLive_answers (s : State) (tag : Byte) : readLive tag [] s = s.clearFresh.answer 3 tag .done s.liveData :=
  plainCommand_takes s rfl

/-- Settles O15: the live values are those of the part as LIF takes the command. -/
theorem readLiveClearsFreshFlags : Obligations.ReadLiveClearsFreshFlags :=
  fun s dt tag h => command_answers s h dt (readLive_answers (s.taken dt) tag)

end Sys2Proof.Machine
end

section
/-! PROOFS. O19: the fields of a frame where the check of R188 reads them, and the numeric fields read back. -/

namespace Sys2Proof.Machine

/-! ### Octets read where they were written (R200) -/

@[simp] theorem length_putNat (n v : Nat) : (putNat n v).length = n := length_octets n v

/-- Octets of the stated number are taken off the front. -/
theorem takeBytes_append {n : Nat} {a : List Byte} (h : a.length = n) (rest : List Byte) :
    takeBytes n (a ++ rest) = some (a, rest) := by
  subst h
  unfold takeBytes
  rw [if_pos (by simp), List.take_left, List.drop_left]

/-- A number read at the offset where it was written is its remainder by what its octets hold. -/
theorem natAt_putNat {a : List Byte} {i : Nat} (h : a.length = i) (n v : Nat) (rest : List Byte) :
    natAt (a ++ (putNat n v ++ rest)) i n = v % 256 ^ n := by
  unfold natAt
  rw [List.drop_left' h, List.take_left' (length_putNat n v)]
  exact getNat_octets n v

/-! ### Padding (R200) -/

theorem length_pad (l : List Byte) : (pad l).length = l.length + (4 - l.length % 4) % 4 := by simp [pad]

/-- A padded payload is of whole words (R200). -/
theorem length_pad_words (l : List Byte) : 4 * ((pad l).length / 4) = (pad l).length := by
  rw [length_pad]
  omega

/-- A payload of at most 4,096 octets is padded to at most 1,024 words (R188, R200). -/
theorem words_pad_le {l : List Byte} (h : l.length ≤ 4096) : (pad l).length / 4 ≤ 1024 := by
  rw [length_pad]
  omega

/-! ### The octets of a frame (R188, R200) -/

/-- The octets of a frame over which its CRC is taken: header and padded payload (R200). -/
def frameBody (dest source : Nat) (kind : FrameKind) (payload : List Byte) : List Byte :=
  putNat 1 dest ++ putNat 1 source ++ putNat 1 (frameCode kind) ++ putNat 2 ((pad payload).length / 4) ++ pad payload

section

variable {dest source : Nat} {kind : FrameKind} {payload : List Byte}

theorem frameOctets_eq : frameOctets dest source kind payload
    = frameBody dest source kind payload ++ putNat 2 (crc16 (frameBody dest source kind payload)).toNat := rfl

theorem length_frameBody : (frameBody dest source kind payload).length = 5 + (pad payload).length := by
  simp [frameBody]
  omega

theorem length_frameOctets : (frameOctets dest source kind payload).length = 5 + (pad payload).length + 2 := by
  rw [frameOctets_eq, List.length_append, length_frameBody, length_putNat]

theorem frameCode_lt (k : FrameKind) : frameCode k < 256 := by cases k <;> decide

/-- The three lone octets at a frame's front. -/
theorem frameBody_cons (rest : List Byte) : frameBody dest source kind payload ++ rest
    = BitVec.ofNat 8 dest :: BitVec.ofNat 8 source :: BitVec.ofNat 8 (frameCode kind)
      :: (putNat 2 ((pad payload).length / 4) ++ (pad payload ++ rest)) := by
  simp [frameBody, putNat, octets]

/-- The length in words as the check reads it (R188). -/
theorem words_frameBody (h : payload.length ≤ 4096) (rest : List Byte) :
    natAt (frameBody dest source kind payload ++ rest) 3 2 = (pad payload).length / 4 := by
  have hw := words_pad_le h
  rw [frameBody_cons]
  refine (natAt_putNat (a := [BitVec.ofNat 8 dest, BitVec.ofNat 8 source, BitVec.ofNat 8 (frameCode kind)]) rfl 2 _ _).trans ?_
  omega

/-- The payload as the check reads it (R188). -/
theorem payload_frameBody (rest : List Byte) :
    ((frameBody dest source kind payload ++ rest).drop 5).take (pad payload).length = pad payload := by
  rw [frameBody_cons]
  simp [putNat, octets]

/-- The CRC as the check reads it behind the body (R188). -/
theorem crc_frameBody (c : BitVec 16) (rest : List Byte) :
    natAt (frameBody dest source kind payload ++ (putNat 2 c.toNat ++ rest)) (5 + (pad payload).length) 2 = c.toNat := by
  rw [natAt_putNat length_frameBody]
  exact Nat.mod_eq_of_lt c.isLt

/-- A frame the part forms passes the check with its stations, kind and padded payload, whatever octets follow it (R188; notes/assumptions/16.md). -/
theorem checkFrame_frameOctets (hd : dest < 256) (hs : source < 256) (hp : payload.length ≤ 4096) (rest : List Byte) :
    checkFrame (frameOctets dest source kind payload ++ rest)
      = some ⟨dest, source, frameCode kind, pad payload, frameOctets dest source kind payload⟩ := by
  have hl : frameOctets dest source kind payload ++ rest = frameBody dest source kind payload
      ++ (putNat 2 (crc16 (frameBody dest source kind payload)).toNat ++ rest) := by
    rw [frameOctets_eq, List.append_assoc]
  have hwords := words_frameBody (dest := dest) (source := source) (kind := kind) hp
    (putNat 2 (crc16 (frameBody dest source kind payload)).toNat ++ rest)
  have hoctets : (frameOctets dest source kind payload ++ rest).take (5 + (pad payload).length + 2)
      = frameOctets dest source kind payload := List.take_left' length_frameOctets
  rw [hl] at hoctets
  rw [hl]
  unfold checkFrame
  dsimp only
  rw [hwords, length_pad_words, crc_frameBody, List.take_left' length_frameBody, payload_frameBody, hoctets, if_pos ?passes]
  case passes =>
    refine ⟨?_, words_pad_le hp, ?_, rfl⟩ <;> rw [List.length_append, List.length_append, length_frameBody, length_putNat] <;> omega
  simp [byteAt, frameBody_cons, hd, hs, frameCode_lt]

end

/-! ### Numeric fields (R200) -/

theorem length_put4 (v : Nat) : (put4 v).length = 4 := length_octets 4 v

theorem length_put4s (v : Int) : (put4s v).length = 4 := length_octets 4 _

theorem take4_put4 {v : Nat} (h : v < 2 ^ 32) (rest : List Byte) : take4 (put4 v ++ rest) = some (v, rest) := by
  have hv : getNat (put4 v) = v := (getNat_octets 4 v).trans (Nat.mod_eq_of_lt h)
  unfold take4
  rw [takeBytes_append (length_put4 v), Option.map_some]
  exact congrArg (fun n => some (n, rest)) hv

/-- A signed number within four octets is spelled by its two's complement (R200). -/
theorem getInt_put4s {v : Int} (hlo : -2147483648 ≤ v) (hhi : v ≤ 2147483647) : getInt (put4s v) = v := by
  have hn : getNat (put4s v) = (v % (256 ^ 4 : Nat)).toNat % 256 ^ 4 := getNat_octets 4 _
  unfold getInt
  rw [hn, length_put4s]
  dsimp only
  split <;> omega

theorem take4s_put4s {v : Int} (hlo : -2147483648 ≤ v) (hhi : v ≤ 2147483647) (rest : List Byte) :
    take4s (put4s v ++ rest) = some (v, rest) := by
  unfold take4s
  rw [takeBytes_append (length_put4s v), Option.map_some]
  exact congrArg (fun n => some (n, rest)) (getInt_put4s hlo hhi)

theorem timeAt_putTime (t : LoopTime) (rest : List Byte) : timeAt (putTime t ++ rest) 0 = t := by
  have ht : natAt (putTime t ++ rest) 0 4 = t.toNat :=
    (natAt_putNat (a := []) rfl 4 t.toNat rest).trans (Nat.mod_eq_of_lt t.isLt)
  unfold timeAt
  rw [ht, BitVec.ofNat_toNat, BitVec.setWidth_eq]

/-- Settles O19: the frame by its check, each field by what it takes off the front. -/
theorem framesAndFieldsReadBack : Obligations.FramesAndFieldsReadBack :=
  ⟨fun _ _ _ _ rest hd hs hp => checkFrame_frameOctets hd hs hp rest, fun _ rest h => take4_put4 h rest,
    fun _ rest hlo hhi => take4s_put4s hlo hhi rest, timeAt_putTime⟩

end Sys2Proof.Machine
end

section
/-! PROOFS. O33: frames that fail their check, and in LOCKED the frames stripped, forwarded or counted. -/

namespace Sys2Proof.Machine

variable {s : State} {dt : Nat} {rate : Rate} {bytes : List Byte} {f : Frame}

/-! ### Frames that fail (R187, R188) -/

/-- No frame passes its check at another rate, nor one that fails it at the loop's (R187, R188; notes/assumptions/17.md). -/
theorem checked_none {r : Rate} (h : rate ≠ r ∨ checkFrame bytes = none) : (if rate = r then checkFrame bytes else none) = none := by
  rcases h with hr | hc
  · exact if_neg hr
  · rw [hc, ite_self]

/-- A frame that fails in LOCKED is counted (R188, R199). -/
theorem receive_failed_locked (h : rate ≠ s.lif.rate ∨ checkFrame bytes = none) (hl : s.lif.locked = true) :
    s.receive rate bytes = s.onLifCounters fun c => { c with badFrames := bump c.badFrames } := by
  unfold State.receive State.frameLocked
  rw [if_pos hl, checked_none h]

/-- A frame that fails in SEARCH changes nothing (R187; notes/assumptions/17.md). -/
theorem receive_failed_search (h : rate ≠ s.lif.rate ∨ checkFrame bytes = none) (hl : s.lif.locked = false) :
    s.receive rate bytes = s := by
  unfold State.receive State.frameSearching
  rw [if_neg (by simp [hl]), checked_none h]

/-! ### Frames of the part's own (R188, R190) -/

/-- LIF strips the frames of the part's station and of the kept previous one (R188, R190). -/
theorem ownSource_iff {l : Lif} {n : Nat} : ownSource l n = true ↔ n = l.station ∨ ∃ p, l.strip = some p ∧ n = p.station := by
  unfold ownSource
  cases l.strip with
  | none => simp
  | some p =>
    simp only [Bool.or_eq_true, beq_iff_eq, Option.any_some, Option.some.injEq, exists_eq_left']
    exact or_congr Iff.rfl eq_comm

theorem handleFrame_stripped (h : ownSource s.lif f.source = true) : s.handleFrame f = s.onLif (stripFrame f.octets) := if_pos h

/-- A frame other than the first sent under the new address leaves the kept one (R190; notes/assumptions/50.md). -/
theorem stripFrame_other {octets : List Byte} {l : Lif} (h : ∀ p, l.strip = some p → octets ≠ p.first) : stripFrame octets l = l := by
  refine if_neg fun hany => ?_
  cases hp : l.strip with
  | none =>
    rw [hp] at hany
    cases hany
  | some p =>
    rw [hp, Option.any_some, beq_iff_eq] at hany
    exact h p hp hany.symm

/-- The first frame sent under the new address ends the kept one (R190; notes/assumptions/50.md). -/
theorem stripFrame_first {octets : List Byte} {l : Lif} {p : Strip} (hp : l.strip = some p) (h : octets = p.first) :
    stripFrame octets l = { l with strip := none } := if_pos (by simp [hp, h])

/-! ### Frames for other stations (R189) -/

/-- While a frame is being sent the transmitter takes no other (R189). -/
theorem transmit_sending (h : s.lif.sending.isSome = true) : s.transmit = s := by
  refine if_neg fun hfree => ?_
  rw [Option.isNone_iff_eq_none.mp hfree.2] at h
  cases h

/-- A foreign frame for another station is one to forward (R188). -/
theorem handleFrame_forwards (ho : ownSource s.lif f.source = false) (hd : f.dest ≠ s.lif.station) (hb : f.dest ≠ 255) :
    s.handleFrame f = s.forwardFrame f.octets :=
  (if_neg (by simp [ho])).trans ((if_neg hd).trans (if_neg hb))

/-- A frame to forward waits while another is being sent (R189). -/
theorem forwardFrame_waits (hs : s.lif.sending.isSome = true) (hroom : s.lif.forward.length < 16) (octets : List Byte) :
    s.forwardFrame octets = s.onLif fun l => { l with forward := l.forward ++ [octets] } :=
  (if_pos hroom).trans (transmit_sending (s := s.onLif fun l => { l with forward := l.forward ++ [octets] }) hs)

/-- A frame to forward is discarded and counted at a full queue (R189, R199). -/
theorem forwardFrame_overflows (hfull : 16 ≤ s.lif.forward.length) (octets : List Byte) :
    s.forwardFrame octets
      = s.onLif fun l => { l with counters := { l.counters with forwardOverflows := bump l.counters.forwardOverflows } } :=
  if_neg (Nat.not_lt.mpr hfull)

/-! ### Frames for the part (R188) -/

theorem handleFrame_addressed (ho : ownSource s.lif f.source = false) (hd : f.dest = s.lif.station) :
    s.handleFrame f = s.takeAddressed f := (if_neg (by simp [ho])).trans (if_pos hd)

/-- A frame of a kind that the part does not consume is counted (R188, R199). -/
theorem takeAddressed_unexpected (h : f.kind = 0 ∨ f.kind = 4 ∨ 6 ≤ f.kind) :
    s.takeAddressed f = s.onLifCounters fun c => { c with unexpected := bump c.unexpected } := by
  unfold State.takeAddressed
  split
  case h_5 => rfl
  all_goals omega

/-- A CMD frame goes to the command intake (R188, R191). -/
theorem takeAddressed_cmd (h : f.kind = 5) : s.takeAddressed f = s.takeCmd f.source f.payload := by
  unfold State.takeAddressed
  rw [h]
  rfl

/-- The part as a frame that passed its check in LOCKED is handled: the loop time that ran has run, and the quiet timer has restarted (R187). -/
def State.restarted (dt : Nat) (s : State) : State := (s.elapse dt).onLif fun l => { l with quiet := some s.quietLimit }

theorem ownSource_restarted (s : State) (dt n : Nat) : ownSource (s.restarted dt).lif n = ownSource s.lif n := ownSource_elapse s dt n

theorem exec_restarted (dt : Nat) (hp : s.powered = true) (hl : s.lif.locked = true) (hf : checkFrame bytes = some f) :
    exec (.frameReceived dt s.lif.rate bytes) s = .next ((s.restarted dt).handleFrame f) := exec_locked dt hp hl hf

/-- Settles O33: the frame that fails, the one stripped, the one to forward, and the one of a kind the part does not consume. -/
theorem lockedFramesByAddress : Obligations.LockedFramesByAddress := by
  refine ⟨fun s dt rate bytes hp h => ⟨fun hl => ?failed, fun hl => ?ignored⟩, fun s dt bytes f hp hl hf =>
    ⟨fun ho => ⟨fun hother => ?kept, fun p hstrip hfirst => ?ended⟩, fun _ => ownSource_iff, fun ho hd hb hs hroom => ?waits,
      fun ho hd hb hfull => ?overflows, fun ho hd hk => ?unexpected⟩⟩
  case failed =>
    rw [exec_frameReceived, timed_powered s dt _ hp, receive_failed_locked (s := s.elapse dt) h hl, ← bump_eq_min]
    rfl
  case ignored =>
    rw [exec_frameReceived, timed_powered s dt _ hp, receive_failed_search (s := s.elapse dt) h hl]
  all_goals
    have hown := (ownSource_restarted s dt f.source).trans ho
    rw [exec_restarted dt hp hl hf]
  case kept =>
    have hother' : ∀ p, (tickLif dt s.lif).strip = some p → f.octets ≠ p.first := by
      simpa [tickLif] using hother
    rw [handleFrame_stripped hown, onLif_same _ (stripFrame_other (l := (s.restarted dt).lif) hother')]
    rfl
  case ended =>
    have hstrip' : (tickLif dt s.lif).strip = some { p with timer := tick dt p.timer } := by simp [tickLif, hstrip]
    rw [handleFrame_stripped hown]
    exact congrArg _ <| onLif_congr (s.restarted dt) (f := stripFrame f.octets) (g := fun l => { l with strip := none }) (stripFrame_first hstrip' hfirst)
  case waits =>
    rw [handleFrame_forwards hown hd hb, forwardFrame_waits (s := s.restarted dt) hs hroom]
    rfl
  case overflows =>
    rw [handleFrame_forwards hown hd hb, forwardFrame_overflows (s := s.restarted dt) hfull, ← bump_eq_min]
    rfl
  case unexpected =>
    rw [handleFrame_addressed hown hd, takeAddressed_unexpected hk, ← bump_eq_min]
    rfl

end Sys2Proof.Machine
end

section
/-! PROOFS. O34 and O39: CMD frames at the command intake, and the supervision of the controller. -/

namespace Sys2Proof.Machine

variable {s : State} {dt n : Nat} {bytes payload : List Byte} {f : Frame} {c : Cmd}

/-! ### CMD frames (R191) -/

/-- FRAME_RECEIVED of a CMD frame for the part is the command intake taking it (R188, R191). -/
theorem exec_cmd (dt : Nat) (h : s.Hears bytes f) (hd : f.dest = s.lif.station) (hk : f.kind = 5) :
    exec (.frameReceived dt s.lif.rate bytes) s = .next ((s.restarted dt).takeCmd f.source f.payload) := by
  have hown := (ownSource_restarted s dt f.source).trans h.foreign
  rw [exec_restarted dt h.powered h.locked h.check, handleFrame_addressed hown hd, takeAddressed_cmd hk]

/-- A CMD frame from another station is counted foreign (R191, R199). -/
theorem takeCmd_foreign {source : Nat} (h : source ≠ s.controller) (payload : List Byte) :
    s.takeCmd source payload = s.onLifCounters fun c => { c with foreign := bump c.foreign } := if_neg h

/-- A CMD frame of the controller too short for a command is counted malformed (R191, R199). -/
theorem takeCmd_short (h : payload.length < 4) :
    s.takeCmd s.controller payload = s.hearController.onLifCounters fun c => { c with malformed := bump c.malformed } :=
  (if_pos rfl).trans (if_pos h)

/-- A well-formed CMD frame of the controller is offered to the queue (R191). -/
theorem takeCmd_offered (h : 4 ≤ payload.length) :
    s.takeCmd s.controller payload = s.hearController.offerCommand (cmdOf payload) :=
  (if_pos rfl).trans (if_neg (Nat.not_lt.mpr h))

/-- A command waits in the queue while LIF is not free (R191, R192). -/
theorem offerCommand_waits (hroom : s.lif.queue.length < 4) (hbusy : s.lif.free = false) (c : Cmd) :
    s.offerCommand c = s.onLif fun l => { l with queue := l.queue ++ [c] } :=
  (if_pos hroom).trans (drain_busy (s.onLif fun l => { l with queue := l.queue ++ [c] }) hbusy)

/-- A command to a full queue is refused busy (R191). -/
theorem offerCommand_full (hfull : s.lif.queue.length = 4) (c : Cmd) : s.offerCommand c = s.answerBusy c.code c.tag :=
  if_neg (by simp [hfull, Config.commandQueueDepth])

/-- A command refused busy is counted, whether its answer goes out or is lost (R191, R199). -/
theorem refusedBusy_answerBusy (s : State) (code : Nat) (tag : Byte) :
    (s.answerBusy code tag).lif.counters.refusedBusy = bump s.lif.counters.refusedBusy := by
  unfold State.answerBusy
  dsimp only
  split
  · rw [lifCounters_handOwn]
    rfl
  · rfl

/-! ### The controller is heard (R198) -/

/-- A timer that does not run is not restarted. -/
theorem restart_stopped {l : Lif} (h : l.supTimer = none) (n : Nat) : ({ l with supTimer := l.supTimer.map fun _ => n } : Lif) = l := by
  cases l
  cases h
  rfl

/-- A timer that runs is restarted. -/
theorem restart_running {l : Lif} {m : Nat} (h : l.supTimer = some m) (n : Nat) :
    ({ l with supTimer := l.supTimer.map fun _ => n } : Lif) = { l with supTimer := some n } := by
  rw [h]
  rfl

/-- A command frame from a PRESENT controller restarts a running supervision timer (R198). -/
theorem hearController_present (h : s.lif.linkLost = false) :
    s.hearController = s.onLif fun l => { l with supTimer := l.supTimer.map fun _ => s.supervisionLimit } := by
  refine (if_neg (by simp [h])).trans ?_
  cases ht : s.lif.supTimer with
  | none => exact (onLif_same s (restart_stopped ht _)).symm
  | some n =>
    refine (if_pos rfl).trans ?_
    exact onLif_congr s (restart_running ht _).symm

/-- A command frame from a LOST controller makes it PRESENT, with the timer running and the lines judged anew (R198). -/
theorem hearController_lost (h : s.lif.linkLost = true) : s.hearController
    = ((s.onLif fun l => { l with linkLost := false, supTimer := some s.supervisionLimit }).raise .controllerResumed).judgeLines :=
  if_pos h

/-- A field of LIF other than those of the supervision stands as the controller is heard (R198). -/
theorem hearController_field {α : Type} (g : Lif → α) (hg : ∀ l b t, g { l with linkLost := b, supTimer := t } = g l) (s : State) :
    g s.hearController.lif = g s.lif := by
  cases h : s.lif.linkLost with
  | false =>
    rw [hearController_present h]
    exact hg s.lif s.lif.linkLost _
  | true =>
    rw [hearController_lost h, lif_judgeLines]
    exact hg s.lif _ _

/-- Settles O34: the foreign command, the one that waits, and the one refused busy. -/
theorem commandFramesReachTheQueue : Obligations.CommandFramesReachTheQueue := by
  intro s dt bytes f hp hl hf ho hd hk
  rw [exec_cmd dt ⟨hp, hl, hf, ho, .inl hd⟩ hd hk]
  refine ⟨fun hsrc => ?foreign, fun hsrc hpresent hbusy h4 hroom => ⟨_, rfl, ?_⟩, fun hsrc h4 hfull => ⟨_, rfl, ?_⟩⟩
  case foreign =>
    rw [takeCmd_foreign (s := s.restarted dt) hsrc, ← bump_eq_min]
    rfl
  all_goals
    have hqueue := hearController_field Lif.queue (fun _ _ _ => rfl) (s.restarted dt)
    rw [show f.source = (s.restarted dt).controller from hsrc, takeCmd_offered h4]
  case refine_1 =>
    have hfree := hearController_field Lif.free (fun _ _ _ => rfl) (s.restarted dt)
    rw [offerCommand_waits (by rw [hqueue]; exact hroom) (by rw [hfree]; exact hbusy),
      hearController_present (s := s.restarted dt) hpresent]
    refine ⟨rfl, fun hrunning => ?_, ⟨rfl, rfl, rfl, rfl, rfl, rfl, rfl, rfl, rfl, rfl, rfl, rfl, rfl, rfl, rfl⟩, rfl⟩
    obtain ⟨n, hn⟩ := Option.isSome_iff_exists.mp hrunning
    show ((tick dt s.lif.supTimer).map fun _ => s.supervisionLimit) = some s.supervisionLimit
    rw [hn]
    rfl
  case refine_2 =>
    have hcounters := hearController_field Lif.counters (fun _ _ _ => rfl) (s.restarted dt)
    rw [offerCommand_full (by rw [hqueue]; exact hfull), queue_answerBusy, refusedBusy_answerBusy, hqueue, hcounters, ← bump_eq_min]
    exact ⟨rfl, rfl⟩

/-! ### What the taking of commands leaves of the supervision (R189, R192) -/

/-- What LIF keeps of the loop and of the controller: LOOP_LOST, and the supervision (R187, R198). -/
def Lif.link (l : Lif) : Bool × Bool × Option Nat := (l.loopLost, l.linkLost, l.supTimer)

@[simp] theorem link_transmit (s : State) : s.transmit.lif.link = s.lif.link := by
  unfold State.transmit
  split
  · split
    · rfl
    · split <;> simp [Lif.link]
  · rfl

@[simp] theorem link_handOwn (s : State) (f : OwnFrame) : (s.handOwn f).lif.link = s.lif.link := link_transmit _

@[simp] theorem link_answer (s : State) (code : Nat) (tag : Byte) (a : AnswerCode) (data : List Byte) :
    (s.answer code tag a data).lif.link = s.lif.link := by
  cases h : s.lif.locked with
  | false => rw [answer_search h]; rfl
  | true => rw [answer_locked h, link_handOwn]; rfl

@[simp] theorem link_drainOne (s : State) : s.drainOne.lif.link = s.lif.link := by
  unfold State.drainOne
  split
  · rfl
  · split
    · split
      · rw [link_answer]; rfl
      · rfl
    · rfl

@[simp] theorem link_drain (s : State) : s.drain.lif.link = s.lif.link :=
  forEach_keeps (fun t => t.lif.link) (fun _ t => link_drainOne t) _ s

@[simp] theorem link_answerBusy (s : State) (code : Nat) (tag : Byte) : (s.answerBusy code tag).lif.link = s.lif.link := by
  unfold State.answerBusy
  dsimp only
  split
  · rw [link_handOwn]; rfl
  · rfl

/-- A command offered to the queue leaves every block but LIF and RPS (R191). -/
theorem sameBlocks_offerCommand (s : State) (c : Cmd) : SameBlocks s (s.offerCommand c) := by
  unfold State.offerCommand
  split <;> constructor <;> simp

theorem link_offerCommand (s : State) (c : Cmd) : (s.offerCommand c).lif.link = s.lif.link := by
  unfold State.offerCommand
  split
  · rw [link_drain]; rfl
  · rw [link_answerBusy]

/-- A command offered to the queue keeps every raised kind. -/
theorem raised_offerCommand {k : EventKind} (h : s.raised k) (c : Cmd) : (s.offerCommand c).raised k := by
  unfold State.offerCommand
  split
  · exact raised_of_kinds h (by simp) (by simp)
  · exact raised_of_kinds h (by simp) (by simp)

/-- States with the same blocks differ in LIF and RPS alone. -/
theorem eq_of_sameBlocks {t : State} (h : SameBlocks s t) : t = { s with lif := t.lif, rps := t.rps } := by
  obtain ⟨h1, h2, h3, h4, h5, h6, h7, h8, h9, h10, h11, h12, h13, h14, h15⟩ := h
  cases s
  cases t
  simp_all

/-- The equipment fault set rests on the blocks beside LIF and RPS, and on LOOP_LOST (R140). -/
theorem faultSet_of_blocks {t : State} (h : SameBlocks s t) (hloop : t.lif.loopLost = s.lif.loopLost) : t.faultSet = s.faultSet := by
  rw [eq_of_sameBlocks h]
  unfold State.faultSet
  rw [hloop]
  rfl

/-- The assertion of a line rests on those blocks, LOOP_LOST and the controller's presence (R142). -/
theorem lineAsserted_of_blocks {t : State} (h : SameBlocks s t) (hlink : t.lif.link = s.lif.link) (l : Line) :
    t.lineAsserted l = s.lineAsserted l := by
  have hfault : t.faultSet = s.faultSet := faultSet_of_blocks h (congrArg Prod.fst hlink)
  have hlost : t.lif.linkLost = s.lif.linkLost := congrArg (·.2.1) hlink
  unfold State.lineAsserted State.lineSource State.outputEntry State.inPassage
  rw [hfault, hlost, h.tables, h.aou, h.scu]

/-! ### Supervision (R198) -/

/-- SUPERVISION_TIMER_EXPIRY makes the controller LOST (R198). -/
theorem exec_supervisionTimerExpiry_due (hp : s.powered = true) (ht : s.lif.supTimer = some n) (hn : n ≤ dt) :
    exec (.supervisionTimerExpiry dt) s = .next (s.elapse dt).loseController :=
  (exec_supervisionTimerExpiry s dt).trans (timed_when s hp dt (b := fun t => expired t.lif.supTimer) (expired_tick ht hn))

/-- A controller that is PRESENT with the supervision running and CONTROLLER_RESUMED raised, and lines that follow (R198). -/
structure Resumed (limit : Nat) (t : State) : Prop where
  present : t.lif.linkLost = false
  running : t.lif.supTimer = some limit
  raised : t.raised .controllerResumed
  lines : ∀ l, (t.aou.lines.get l).asserted = t.lineAsserted l

/-- A LOST controller that is heard is PRESENT again (R198). -/
theorem resumed_hearController (h : s.lif.linkLost = true) : Resumed s.supervisionLimit s.hearController := by
  rw [hearController_lost h]
  refine ⟨?_, ?_, raised_judgeLines (raised_raise_self _ _), asserted_judgeLines_self _⟩ <;> rw [lif_judgeLines] <;> rfl

/-- It stays so as the counters of LIF count. -/
theorem Resumed.onLifCounters {limit : Nat} (h : Resumed limit s) (g : LifCounters → LifCounters) :
    Resumed limit (s.onLifCounters g) :=
  ⟨h.present, h.running, h.raised, h.lines⟩

/-- It stays so as a command is offered to the queue. -/
theorem Resumed.offerCommand {limit : Nat} (h : Resumed limit s) (c : Cmd) : Resumed limit (s.offerCommand c) := by
  have hlink := link_offerCommand s c
  have hsame := sameBlocks_offerCommand s c
  refine ⟨(congrArg (·.2.1) hlink).trans h.present, (congrArg (·.2.2) hlink).trans h.running, raised_offerCommand h.raised c, fun l => ?_⟩
  rw [lineAsserted_of_blocks hsame hlink, hsame.aou]
  exact h.lines l

/-- Settles O39: the loss by the timer, and the return by a CMD frame, too short or well formed. -/
theorem supervisionLosesTheController : Obligations.SupervisionLosesTheController := by
  refine fun s dt n => ⟨fun hp ht hn => ⟨_, exec_supervisionTimerExpiry_due hp ht hn, ?_⟩, fun hlost => ?heard,
    fun bytes f h hd hk hsrc hlost => ⟨_, exec_cmd dt h hd hk, ?_⟩⟩
  case heard =>
    obtain ⟨hpresent, hrunning, hraised, -⟩ := resumed_hearController hlost
    exact ⟨hpresent, hrunning, hraised⟩
  case refine_1 =>
    unfold State.loseController
    rw [lif_judgeLines, rps_judgeLines, scu_judgeLines]
    exact ⟨rfl, rfl, rfl, rfl, asserted_judgeLines_self _⟩
  case refine_2 =>
    have hresumed : Resumed s.supervisionLimit (s.restarted dt).hearController := resumed_hearController (s := s.restarted dt) hlost
    rw [show f.source = (s.restarted dt).controller from hsrc]
    by_cases h4 : f.payload.length < 4
    · obtain ⟨hpresent, hrunning, hraised, hlines⟩ := hresumed.onLifCounters fun c => { c with malformed := bump c.malformed }
      rw [takeCmd_short h4]
      refine ⟨hpresent, hrunning, hraised, hlines, fun _ => ⟨?_, ?_⟩⟩
      · rw [← bump_eq_min]
        exact congrArg (fun c : LifCounters => bump c.malformed) (hearController_field Lif.counters (fun _ _ _ => rfl) (s.restarted dt))
      · exact hearController_field Lif.queue (fun _ _ _ => rfl) (s.restarted dt)
    · obtain ⟨hpresent, hrunning, hraised, hlines⟩ := hresumed.offerCommand (cmdOf f.payload)
      rw [takeCmd_offered (Nat.not_lt.mp h4)]
      exact ⟨hpresent, hrunning, hraised, hlines, fun hshort => absurd hshort h4⟩

end Sys2Proof.Machine
end

section
/-! PROOFS. O37: the frame the transmitter takes next, and the TIM frames that fall due. -/

namespace Sys2Proof.Machine

variable {s : State} {dt n : Nat} {x : Sending} {f : OwnFrame} {rest : List OwnFrame}

/-! ### The transmitter, free in LOCKED (R189) -/

section

variable (hl : s.lif.locked = true) (hs : s.lif.sending = none) (ht : s.lif.timWaiting = false)

include hl hs ht

/-- With no TIM frame due it takes the own frame handed over first (R189). -/
theorem transmit_own (ho : s.lif.own = f :: rest) : s.transmit = (s.onLif (sendOwn f rest)).startHoldOff f.kind := by
  unfold State.transmit
  rw [if_pos ⟨hl, by rw [hs]; rfl⟩, if_neg (by simp [ht]), ho]

/-- With no own frame waiting either it takes the first frame to forward (R189). -/
theorem transmit_forward {g : List Byte} {more : List (List Byte)} (ho : s.lif.own = []) (hf : s.lif.forward = g :: more) :
    s.transmit = s.onLif (sendForward g more) := by
  unfold State.transmit
  rw [if_pos ⟨hl, by rw [hs]; rfl⟩, if_neg (by simp [ht]), ho, hf]

/-- With nothing waiting it rests (R189). -/
theorem transmit_rests (ho : s.lif.own = []) (hf : s.lif.forward = []) : s.transmit = s := by
  unfold State.transmit
  rw [if_pos ⟨hl, by rw [hs]; rfl⟩, if_neg (by simp [ht]), ho, hf]

end

/-- The sending of an own frame that brings no new address begins under the station that stands (R189, R190). -/
theorem sendOwn_plain (hn : f.newStation = none) (rest : List OwnFrame) (l : Lif) :
    sendOwn f rest l = { l with own := rest, sending := some ⟨.own f.kind, ownOctets f l.station⟩ } := by
  unfold sendOwn
  rw [hn]

/-- The hold-off starts with an EVT frame (R165). -/
theorem holdOff_startHoldOff_evt (s : State) : (s.startHoldOff .evt).rps.holdOff = some s.eventHoldOff := rfl

/-- No other own frame starts the hold-off (R165). -/
theorem startHoldOff_other {k : OwnKind} (h : k ≠ .evt) (s : State) : s.startHoldOff k = s := by
  cases k with
  | evt => exact absurd rfl h
  | ans => rfl
  | rpt => rfl

/-! ### The end of a sending (R189) -/

/-- The part with its transmitter free (R189). -/
def State.sent (s : State) : State := s.onLif fun l => { l with sending := none }

/-- FRAME_SEND_COMPLETE frees the transmitter, which takes the next frame; no command waits for LIF (R189, R192). -/
theorem exec_frameSendComplete_next (hp : s.powered = true) (hs : s.lif.sending = some x) (hq : s.lif.queue = []) (dt : Nat) :
    exec (.frameSendComplete dt) s = .next (s.elapse dt).sent.transmit := by
  have hqueue : (s.elapse dt).sent.transmit.lif.queue = [] := (queue_transmit _).trans hq
  have hend : (s.elapse dt).endSending = (s.elapse dt).sent.transmit.drain := if_pos (by rw [lif_elapse, sending_tickLif, hs]; rfl)
  rw [exec_frameSendComplete, timed_powered s dt _ hp, hend, drain_nil _ hqueue]

/-! ### TIM frames (R189) -/

/-- The part as a TIM frame falls due, the next one 10 ms away (R189). -/
def State.timWaits (s : State) : State := s.onLif fun l => { l with timTimer := some 10000, timWaiting := true }

/-- TIM_FRAME_DUE in LOCKED (R189). -/
theorem exec_timFrameDue_due (hp : s.powered = true) (hl : s.lif.locked = true) (ht : s.lif.timTimer = some n) (hn : n ≤ dt) :
    exec (.timFrameDue dt) s = .next (s.elapse dt).timWaits.transmit := by
  rw [exec_timFrameDue, timed_powered s dt _ hp]
  exact congrArg _ (if_pos ⟨hl, expired_tick ht hn⟩)

/-- Settles O37: the four frames the transmitter may take next, and a TIM frame that is due with the transmitter free or not. -/
theorem transmitterTakesTheNextFrame : Obligations.TransmitterTakesTheNextFrame := by
  refine ⟨fun s dt x hp hl hs hq => ?_, fun s dt n hp hl ht hn => ⟨fun hs => ?due, fun hs => ?late⟩⟩
  case due =>
    rw [exec_timFrameDue_due hp hl ht hn, transmit_tim (s := (s.elapse dt).timWaits) hl hs rfl]
    rfl
  case late =>
    rw [exec_timFrameDue_due hp hl ht hn, transmit_sending (s := (s.elapse dt).timWaits) hs]
    rfl
  rw [exec_frameSendComplete_next hp hs hq]
  refine ⟨fun ht => ?tim, fun f rest ht ho hn => ⟨_, rfl, ?own⟩, fun g more ht ho hf => ?forward, fun ht ho hf => ?rests⟩
  case tim =>
    rw [transmit_tim (s := (s.elapse dt).sent) hl rfl ht]
    rfl
  case own =>
    rw [transmit_own (s := (s.elapse dt).sent) hl rfl ht ho, lif_startHoldOff, lif_onLif, sendOwn_plain hn]
    refine ⟨rfl, rfl, fun hk => ?_, fun hk => ?_⟩
    · rw [hk]
      exact holdOff_startHoldOff_evt _
    · rw [startHoldOff_other hk]
      rfl
  case forward =>
    rw [transmit_forward (s := (s.elapse dt).sent) hl rfl ht ho hf]
    rfl
  case rests =>
    rw [transmit_rests (s := (s.elapse dt).sent) hl rfl ht ho hf]
    rfl

end Sys2Proof.Machine
end

section
/-! PROOFS. O38: SET_STATION by its refusals, the new address as its answer begins or waits, and the end of the kept one. -/

namespace Sys2Proof.Machine

variable {s : State} {dt n : Nat} {tag : Byte} {args : List Byte} {fix : Bool}

/-! ### SET_STATION as taken (R190) -/

theorem refusal_setStation (h : s.scu.site = .offline) (hf : s.lif.fixed = false) : s.refusal 20 = none :=
  (if_neg (by simp [h])).trans (if_neg (by simp [hf]))

/-- A station is refused outside 1..126, and where it is the controller's (R190). -/
theorem stationRefused_iff : s.stationRefused n = true ↔ n = 0 ∨ 126 < n ∨ n = s.controller := by
  simp [State.stationRefused, or_assoc]

/-- The part with its station made fixed or left free (R190). -/
def State.fixing (fix : Bool) (s : State) : State := s.onLif fun l => { l with fixed := fix }

theorem fixing_of_free (hf : s.lif.fixed = false) (fix : Bool) : (s.onLif fun l => { l with fixed := l.fixed || fix }) = s.fixing fix := by
  refine onLif_congr s ?_
  rw [hf, Bool.false_or]

/-- The answer DONE of a SET_STATION, which brings the new station with it (R190). -/
def State.stationAnswer (tag : Byte) (n : Nat) (s : State) : OwnFrame := ansFrame s.controller 20 tag .done [] false (some n)

section

variable (hr : s.refusal 20 = none) (hx : whole (takePair take4 (takeCode stationSettings)) args = some (n, fix))

include hr hx

theorem setStation_refused (h : n = 0 ∨ 126 < n ∨ n = s.controller) : setStation tag args s = s.answer 20 tag .badArgument [] :=
  (argCommand_takes s hr hx).trans (if_pos (stationRefused_iff.mpr h))

/-- A station accepted in LOCKED changes with its answer (R190). -/
theorem setStation_accepted (hf : s.lif.fixed = false) (h1 : 1 ≤ n) (h126 : n ≤ 126) (hc : n ≠ s.controller) (hl : s.lif.locked = true) :
    setStation tag args s = (s.fixing fix).handOwn (s.stationAnswer tag n) := by
  have haccept : ¬ s.stationRefused n = true := fun h => by
    rcases stationRefused_iff.mp h with h0 | hbig | hcontroller
    · omega
    · omega
    · exact hc hcontroller
  have htakes : setStation tag args s = (s.onLif fun l => { l with fixed := l.fixed || fix }).changeStation tag n :=
    (argCommand_takes s hr hx).trans (if_neg haccept)
  rw [htakes, fixing_of_free hf]
  exact if_pos hl

end

/-! ### The new address (R190) -/

/-- The sending of the answer that brings a new address begins under that address, with the previous one kept (R190). -/
theorem handOwn_sends_station {f : OwnFrame} (hl : s.lif.locked = true) (hs : s.lif.sending = none) (ht : s.lif.timWaiting = false)
    (ho : s.lif.own = []) (hn : f.newStation = some n) :
    (s.handOwn f).lif = { s.lif with
      station := n
      strip := some ⟨s.lif.station, some 100000, ownOctets f n⟩
      sending := some ⟨.own f.kind, ownOctets f n⟩ } := by
  have hown : (s.onLif fun l => { l with own := l.own ++ [f] }).lif.own = [f] := by rw [lif_onLif, ho]; rfl
  unfold State.handOwn
  rw [transmit_own (s := s.onLif fun l => { l with own := l.own ++ [f] }) hl hs ht hown, lif_startHoldOff, lif_onLif, lif_onLif]
  unfold sendOwn
  rw [hn, ← ho]
  rfl

/-- What LIF keeps of its address, with the frame being sent (R189, R190). -/
def Lif.address (l : Lif) : Nat × Bool × Option Strip × Option Sending := (l.station, l.fixed, l.strip, l.sending)

/-- While a frame is being sent an answer leaves the address and that frame (R189). -/
theorem address_answer (h : s.lif.sending.isSome = true) (code : Nat) (tag : Byte) (a : AnswerCode) (data : List Byte) :
    (s.answer code tag a data).lif.address = s.lif.address := by
  cases hl : s.lif.locked with
  | false => rw [answer_search hl]; rfl
  | true => rw [answer_waits hl h]; rfl

theorem address_drainOne (h : s.lif.sending.isSome = true) : s.drainOne.lif.address = s.lif.address := by
  unfold State.drainOne
  split
  · rfl
  · next c rest _ =>
    split
    · split
      · exact address_answer (s := s.onLif fun l => { l with queue := rest }) h _ _ _ _
      · rfl
    · rfl

/-- While a frame is being sent, what LIF answers by itself leaves the address and that frame (R189, R192). -/
theorem address_drain (h : s.lif.sending.isSome = true) : s.drain.lif.address = s.lif.address := by
  unfold State.drain forEach
  refine List.foldlRecOn (motive := fun t : State => t.lif.address = s.lif.address) _ _ rfl fun t ht _ _ => ?_
  have hsending : t.lif.sending = s.lif.sending := congrArg (·.2.2.2) ht
  exact (address_drainOne (by rw [hsending]; exact h)).trans ht

/-- The answer of a command that waits keeps LIF from taking another (R192). -/
theorem free_of_answer {l : Lif} {f : OwnFrame} (hm : f ∈ l.own) (hk : f.kind = .ans) (hb : f.busy = false) : l.free = false := by
  have hall : (l.own.all fun g => g.kind != .ans || g.busy) = false := List.all_eq_false.mpr ⟨f, hm, by simp [hk, hb]⟩
  unfold Lif.free
  rw [hall, Bool.and_false]

/-! ### The kept address (R190) -/

/-- STRIP_ADDRESS_TIMEOUT ends the kept previous address (R190). -/
theorem exec_stripAddressTimeout_due {p : Strip} (hp : s.powered = true) (hstrip : s.lif.strip = some p)
    (ht : p.timer = some n) (hn : n ≤ dt) :
    exec (.stripAddressTimeout dt) s = .next ((s.elapse dt).onLif fun l => { l with strip := none }) := by
  refine (exec_stripAddressTimeout s dt).trans (timed_when s hp dt (b := fun t => t.lif.strip.any fun q => expired q.timer) ?_)
  rw [lif_elapse]
  unfold tickLif
  rw [hstrip]
  exact expired_tick ht hn

/-- Settles O38: the refusals, the address that changes as its answer begins, the answer that waits, and the address that goes. -/
theorem setStationChangesTheAddress : Obligations.SetStationChangesTheAddress := by
  refine ⟨fun s dt tag args h hs hf => ?_, fun s dt n station first hp hstrip hn => exec_stripAddressTimeout_due hp hstrip rfl hn⟩
  have hr : (s.taken dt).refusal 20 = none := refusal_setStation (s := s.taken dt) hs hf
  refine ⟨fun hx => command_answers s h dt (argCommand_misfit _ hr hx), fun n fix hx =>
    ⟨fun hbad => command_answers s h dt (setStation_refused hr hx hbad), fun h1 h126 hc hl hsend ht ho => ?begins,
      fun h1 h126 hc hl hsend => ?waits⟩⟩
  all_goals
    have haccept : setStation tag args (s.taken dt) = ((s.taken dt).fixing fix).handOwn ((s.taken dt).stationAnswer tag n) :=
      setStation_accepted hr hx hf h1 h126 hc hl
  case begins =>
    have hlif := handOwn_sends_station (s := (s.taken dt).fixing fix) (f := (s.taken dt).stationAnswer tag n) hl hsend ht ho rfl
    have haddress := address_drain (s := ((s.taken dt).fixing fix).handOwn ((s.taken dt).stationAnswer tag n)) (by rw [hlif]; rfl)
    rw [hlif] at haddress
    simp only [Lif.address, Prod.mk.injEq] at haddress
    obtain ⟨hstation, hfixed, hstrip, hsending⟩ := haddress
    refine ⟨_, command_ready s h dt _, ?_⟩
    rw [haccept]
    exact ⟨hstation, hfixed, hstrip, hsending⟩
  case waits =>
    have hfree : (((s.taken dt).fixing fix).onLif fun l => { l with own := l.own ++ [(s.taken dt).stationAnswer tag n] }).lif.free = false :=
      free_of_answer (f := (s.taken dt).stationAnswer tag n) (List.mem_append_right _ List.mem_cons_self) rfl rfl
    rw [exec_setStation, command_ready s h dt, haccept, handOwn_waits (s := (s.taken dt).fixing fix) hsend, drain_busy _ hfree]
    rfl

end Sys2Proof.Machine
end

section
/-! PROOFS. O2: the step on an empty queue, by what falls due of itself. -/

namespace Sys2Proof.Machine

variable {s : State}

/-- On an empty queue the step is the row due first, or rest where none is due (notes/assumptions/2.md). -/
theorem step_of_pending_nil (h : s.pending = []) : step s = s.nextDue.elim (.next s) fun i => exec i s := by
  simp only [step, h]
  cases s.nextDue with
  | none => rfl
  | some i => rfl

/-- Settles O2: on an empty queue the step rests on the row due first alone, whether there is one or none. -/
theorem stepOnEmptyQueue : Obligations.StepOnEmptyQueue := by
  intro s h
  refine ⟨fun i hdue => ?due, fun hnone => ?idle⟩
  case due => rw [step_of_pending_nil h, hdue, Option.elim_some]
  case idle => rw [step_of_pending_nil h, hnone, Option.elim_none]

end Sys2Proof.Machine
end

section
/-! PROOFS. O45 and O46: what a forward and a backward crossing make of the counts. -/

namespace Sys2Proof.Machine

/-! ### The counts by place (R32) -/

section
variable {c : Counts} {k : Nat}

/-- A count replaced is read at its own place. -/
theorem at_put_self (hk : 1 ≤ k) (hk4 : k ≤ 4) (v : Nat) : (c.put k v).at k = v := by
  obtain rfl | rfl | rfl | rfl : k = 1 ∨ k = 2 ∨ k = 3 ∨ k = 4 := by omega
  all_goals rfl

/-- A count replaced leaves those of the other places. -/
theorem at_put_ne {j : Nat} (h : j ≠ k) (v : Nat) : (c.put k v).at j = c.at j := by
  unfold Counts.put
  split
  all_goals
    unfold Counts.at
    grind

/-- The place of a transducer is one of the four (R29). -/
theorem entryPlace_range (d : Direction) (w : Transducer) : 1 ≤ entryPlace d w ∧ entryPlace d w ≤ 4 := by
  have := place_of_four d w
  omega

end

/-! ### The crossing rule (R33, R34) -/

section
variable {c : Counts} {n k : Nat}

/-- At the entry a forward crossing finds the next of the counted axles (R33). -/
theorem forwardRule_counted (h : c.c1 < n) : forwardRule c n 1 = .forward (c.c1 + 1) := by
  simp [forwardRule, h]

/-- At the entry a forward crossing behind the last counted axle enters a new one (R33). -/
theorem forwardRule_entered (h : c.c1 = n) (hn : n < 65535) : forwardRule c n 1 = .entered (n + 1) := by
  simp [forwardRule, h, Config.axleTotalMax, hn]

/-- The axle total at its limit refuses a new axle (R33). -/
theorem forwardRule_full (h : c.c1 = n) (hn : n = 65535) : forwardRule c n 1 = .refused := by
  simp [forwardRule, h, Config.axleTotalMax, hn]

/-- Behind the entry a forward crossing needs an axle that has crossed the place before (R33). -/
theorem forwardRule_later (hk : k ≠ 1) : forwardRule c n k = if c.at k + 1 ≤ c.at (k - 1) then .forward (c.at k + 1) else .refused :=
  if_neg hk

/-- A backward crossing is applied where an axle has crossed the place and not the next one (R34). -/
theorem backwardRule_applied (h0 : c.at k ≠ 0) (h : 4 ≤ k ∨ c.at (k + 1) ≤ c.at k - 1) : backwardRule c k = .backward (c.at k) := by
  unfold backwardRule
  rw [if_neg h0, if_neg (by omega)]

theorem backwardRule_none (h : c.at k = 0) : backwardRule c k = .refused := if_pos h

/-- A backward crossing that would take a count below the next one is refused (R34). -/
theorem backwardRule_unordered (hk : k < 4) (h : c.at k - 1 < c.at (k + 1)) : backwardRule c k = .refused := by
  unfold backwardRule
  rw [if_pos (⟨hk, h⟩ : k < 4 ∧ _), ite_self]

variable {p : Passage} {x : Crossing}

theorem crossingRule_forward (h : x.dir = p.dir) : crossingRule p x = forwardRule p.counts p.total (entryPlace p.dir x.wt) := if_pos h

theorem crossingRule_backward (h : x.dir ≠ p.dir) : crossingRule p x = backwardRule p.counts (entryPlace p.dir x.wt) := if_neg h

end

/-! ### Forward crossings (R33) -/

/-- Settles O45: the forward rule case by case, and the one count that an applied crossing raises. -/
theorem forwardCrossingsCount : Obligations.ForwardCrossingsCount := by
  intro p k hk hk4
  refine ⟨?entered, ?full, ?counted, fun hne h => ?refused, fun hne h => ?forward, fun i => ⟨rfl, at_put_self hk hk4 _, fun j hj => at_put_ne hj _⟩⟩
  case entered =>
    rintro rfl h hn
    exact ⟨forwardRule_entered h hn, rfl, rfl⟩
  case full =>
    rintro rfl h hn
    exact forwardRule_full h hn
  case counted =>
    rintro rfl h
    exact forwardRule_counted h
  case refused => rw [forwardRule_later hne, if_neg (Nat.not_le.mpr h)]
  case forward => rw [forwardRule_later hne, if_pos h]

/-! ### Backward crossings (R34) -/

/-- An axle backed out over the entry is the one that a forward crossing there finds (R33, R34). -/
theorem crossingRule_after_backing {p : Passage} {y : Crossing} {i : Nat} (hc : p.counts.c1 ≠ 0) (hn : p.counts.c1 ≤ p.total)
    (hd : y.dir = p.dir) (hy : entryPlace p.dir y.wt = 1) : crossingRule (countCrossing (.backward i) 1 p) y = .forward p.counts.c1 := by
  have hlt : ((countCrossing (.backward i) 1 p).counts).c1 < p.total := by
    show p.counts.c1 - 1 < p.total
    omega
  rw [crossingRule_forward (p := countCrossing (.backward i) 1 p) hd]
  show forwardRule _ p.total (entryPlace p.dir y.wt) = _
  rw [hy, forwardRule_counted hlt]
  show Applied.forward (p.counts.c1 - 1 + 1) = _
  rw [Nat.sub_add_cancel (Nat.pos_of_ne_zero hc)]

/-- Settles O46: the backward rule case by case, and the one count that an applied crossing lowers. -/
theorem backwardCrossingsCount : Obligations.BackwardCrossingsCount := by
  intro p x hd
  obtain ⟨h1, h4⟩ := entryPlace_range p.dir x.wt
  rw [crossingRule_backward hd]
  refine ⟨backwardRule_none, fun hne h => backwardRule_unordered (by omega) h, fun h0 h => ⟨backwardRule_applied h0 (h.imp_left fun e => Nat.le_of_eq e.symm),
    fun _ => at_put_self h1 h4 _, fun _ j hj => at_put_ne hj _, fun _ => rfl, fun hk hn i y hyd hy => ?_⟩⟩
  rw [hk] at h0
  exact crossingRule_after_backing h0 hn hyd hy

end Sys2Proof.Machine
end

section
/-! PROOFS. O51: the segment of an axle by the counts, and where a record's final segment comes from. -/

namespace Sys2Proof.Machine

/-! ### Segments (R41) -/

theorem segmentOf_le (c : Counts) (i : Nat) : segmentOf c i ≤ 4 := List.length_filter_le _ _

/-- With ordered counts an axle that has crossed a place has crossed those before it, so its segment is the highest place crossed (R32, R41). -/
theorem le_segmentOf_iff {c : Counts} {total : Nat} (h : c.Ordered total) (i : Nat) {k : Nat} (hk : 1 ≤ k) (hk4 : k ≤ 4) :
    k ≤ segmentOf c i ↔ i ≤ c.at k := by
  obtain ⟨h43, h32, h21, -, -⟩ := h
  have hcases : segmentOf c i = (if i ≤ c.c1 then 1 else 0) + (if i ≤ c.c2 then 1 else 0) + (if i ≤ c.c3 then 1 else 0)
      + (if i ≤ c.c4 then 1 else 0) := by
    simp only [segmentOf, Counts.at, ← List.countP_eq_length_filter, List.countP_cons, List.countP_nil, decide_eq_true_eq]
    omega
  obtain rfl | rfl | rfl | rfl : k = 1 ∨ k = 2 ∨ k = 3 ∨ k = 4 := by omega
  all_goals
    rw [hcases]
    simp only [Counts.at]
    repeat' split
  all_goals omega

/-! ### The final segment (R41, R200) -/

section
variable {s : State}

/-- The passage context as CLOSING is entered (R41, R44). -/
@[simp] theorem passage_endPassage (d : Disposition) : (s.endPassage d).passage = s.passage.map (endedPassage s.now d) := by
  simp [State.endPassage]

end

/-- The octet of the final segment stands after four fields of two octets and one (R200). -/
theorem axleRecord_finalSegment (a : AxleRecord) : (axleRecord a)[7]? = some (BitVec.ofNat 8 a.finalSegment) := by
  unfold axleRecord
  simp only [List.append_assoc]
  rfl

/-- Settles O51: the segment by the counts, and the final segment as it is written and carried. -/
theorem segmentsCountThePlaces : Obligations.SegmentsCountThePlaces := by
  refine ⟨fun c i => ⟨rfl, segmentOf_le c i⟩, fun c total i h => ?ordered, fun s d p hp => ⟨endedPassage s.now d p, ?_, rfl⟩,
    axleRecord_finalSegment⟩
  case ordered =>
    have hle := segmentOf_le c i
    have h1 := le_segmentOf_iff h i (k := 1) (by omega) (by omega)
    have h4 := le_segmentOf_iff h i (k := 4) (by omega) (by omega)
    simp only [Counts.at] at h1 h4
    refine ⟨?_, ?_, fun k hk hk4 => le_segmentOf_iff h i hk hk4⟩
    · rw [← h4]
      omega
    · rw [← Nat.not_le, ← h1]
      omega
  · rw [passage_endPassage, hp, Option.map_some]

end Sys2Proof.Machine
end

section
/-! PROOFS. O50: the standing timer and the mark schedule. -/

namespace Sys2Proof.Machine

section
variable {s : State}

/-! ### Pulses (R146) -/

@[simp] theorem passage_pulseLine (w : Nat) (l : Line) : (s.pulseLine w l).passage = s.passage := by
  unfold State.pulseLine
  dsimp only
  split <;> rfl

@[simp] theorem axt_pulseLine (w : Nat) (l : Line) : (s.pulseLine w l).axt = s.axt := by
  unfold State.pulseLine
  dsimp only
  split <;> rfl

@[simp] theorem rps_pulseLine (w : Nat) (l : Line) : (s.pulseLine w l).rps = s.rps := by
  unfold State.pulseLine
  dsimp only
  split <;> rfl

@[simp] theorem outputEntry_pulseLine (w : Nat) (l : Line) : (s.pulseLine w l).outputEntry = s.outputEntry := by
  unfold State.pulseLine
  dsimp only
  split <;> rfl

@[simp] theorem passage_pulseLines (w : Nat) : (s.pulseLines w).passage = s.passage := forEach_keeps _ (fun _ _ => passage_pulseLine _ _) _ _

@[simp] theorem axt_pulseLines (w : Nat) : (s.pulseLines w).axt = s.axt := forEach_keeps _ (fun _ _ => axt_pulseLine _ _) _ _

@[simp] theorem rps_pulseLines (w : Nat) : (s.pulseLines w).rps = s.rps := forEach_keeps _ (fun _ _ => rps_pulseLine _ _) _ _

/-- A PULSE line on the window of a mark starts its pulse (R146). -/
theorem pulse_pulseLine_self {w : Nat} {l : Line} (hm : (s.outputEntry l).mode = .pulse) (hw : (s.outputEntry l).pulseWindow = some w) :
    ((s.pulseLine w l).aou.lines.get l).pulse = some (1000 * (s.outputEntry l).pulseLength) := by
  unfold State.pulseLine
  dsimp only
  rw [if_pos ⟨hm, hw⟩, pulse_judgeLine, line_onLine_self]

/-- A mark taken for one line leaves the pulses of the others (R146). -/
theorem pulse_pulseLine_of_ne {w : Nat} {k l : Line} (h : l ≠ k) :
    ((s.pulseLine w k).aou.lines.get l).pulse = (s.aou.lines.get l).pulse := by
  unfold State.pulseLine
  dsimp only
  split
  · rw [pulse_judgeLine, line_onLine_of_ne h]
  · rfl

/-- Every PULSE line on the window of a mark starts its pulse (R146). -/
theorem pulse_pulseLines {w : Nat} {l : Line} (hm : (s.outputEntry l).mode = .pulse) (hw : (s.outputEntry l).pulseWindow = some w) :
    ((s.pulseLines w).aou.lines.get l).pulse = some (1000 * (s.outputEntry l).pulseLength) := by
  have hstart {t : State} (ht : t.outputEntry = s.outputEntry) :
      ((t.pulseLine w l).aou.lines.get l).pulse = some (1000 * (s.outputEntry l).pulseLength) := by
    rw [← ht] at hm hw ⊢
    exact pulse_pulseLine_self hm hw
  have hwritten : s.pulseLines w = (((s.pulseLine w .o1).pulseLine w .o2).pulseLine w .o3).pulseLine w .o4 := by
    simp only [State.pulseLines, forEach, allLines, List.foldl_cons, List.foldl_nil]
  rw [hwritten]
  cases l with
  | o1 => rw [pulse_pulseLine_of_ne (by decide), pulse_pulseLine_of_ne (by decide), pulse_pulseLine_of_ne (by decide), pulse_pulseLine_self hm hw]
  | o2 => rw [pulse_pulseLine_of_ne (by decide), pulse_pulseLine_of_ne (by decide), hstart (by simp)]
  | o3 => rw [pulse_pulseLine_of_ne (by decide), hstart (by simp)]
  | o4 => exact hstart (by simp)

/-! ### Marks (R47) -/

/-- A mark taken stands in the mark list of its axle with its time (R47). -/
theorem exists_noteMark (m : MarkEntry) (l : List MarkRecord) :
    ∃ e ∈ noteMark m l, e.window = m.window ∧ e.bound = m.bound ∧ e.time = m.time := by
  unfold noteMark
  split
  case isTrue h =>
    obtain ⟨x, hx, he⟩ := List.any_eq_true.mp h
    rw [Bool.and_eq_true, beq_iff_eq, beq_iff_eq] at he
    exact ⟨{ x with time := m.time }, List.mem_map.mpr ⟨x, hx, if_pos he⟩, he.1, he.2, rfl⟩
  case isFalse => exact ⟨_, List.mem_append_right _ (List.mem_singleton.mpr rfl), rfl, rfl, rfl⟩

/-- The passage with its head mark taken (R47). -/
def markTakenPassage (m : MarkEntry) (rest : List MarkEntry) (p : Passage) : Passage :=
  { p with marks := rest, axles := p.axles.modify (m.axle - 1) fun a => { a with marks := noteMark m a.marks } }

theorem markDue_cons {p : Passage} {m : MarkEntry} {rest : List MarkEntry} (hp : s.passage = some p) (hm : p.marks = m :: rest) :
    s.markDue = reached s.now m.time := by
  unfold State.markDue
  rw [hp]
  dsimp only
  rw [hm]

/-- The head mark leaves the schedule, is noted in its axle's record and pulses the lines on its window (R47). -/
theorem takeMark_cons {p : Passage} {m : MarkEntry} {rest : List MarkEntry} (hp : s.passage = some p) (hm : p.marks = m :: rest) :
    s.takeMark = State.pulseLines m.window { s with passage := some (markTakenPassage m rest p) } := by
  unfold State.takeMark
  rw [hp]
  dsimp only
  rw [hm]
  dsimp only
  rw [onPassage_some hp]
  rfl

end

/-! ### The statement -/

/-- Settles O50: the standing episode, and the head mark as it is taken. -/
theorem standingTrainsAndMarks : Obligations.StandingTrainsAndMarks := by
  refine ⟨fun s dt n p hpow hp ht hn => ?standing, fun s dt p m rest hpow hp hm hr => ?mark⟩
  case standing =>
    have hpassage : (s.elapse dt).passage = some (tickPassage s.now dt p) := by rw [passage_elapse, hp, Option.map_some]
    have hdue : ((s.elapse dt).passage.any fun p => expired p.standing) = true := by
      rw [hpassage]
      exact expired_tick ht hn
    rw [exec_standingTimerExpiry, timed_when s hpow dt (b := fun t => t.passage.any fun p => expired p.standing) hdue,
      onPassage_some hpassage]
    unfold standEpisode
    rw [bump_eq_min]
    rfl
  case mark =>
    have hpassage : (s.elapse dt).passage = some (tickPassage s.now dt p) := by rw [passage_elapse, hp, Option.map_some]
    have hdue : (s.elapse dt).markDue = true := (markDue_cons hpassage hm).trans hr
    refine ⟨_, markTakenPassage m rest (tickPassage s.now dt p), timed_when s hpow dt hdue, ?_⟩
    rw [takeMark_cons hpassage hm]
    refine ⟨passage_pulseLines _, rfl, rfl, rfl, fun a ha => ?_, fun l hmode hw => pulse_pulseLines hmode hw, rps_pulseLines _, axt_pulseLines _⟩
    exact ⟨_, passageAxle_modify ha _, exists_noteMark m a.marks⟩

end Sys2Proof.Machine
end

section
/-! PROOFS. O24 and O21: the end of a passage by its cause, and STOP by site state. -/

namespace Sys2Proof.Machine

section
variable {s : State}

/-! ### The end of a passage (R41, R44, R118, R169, R176) -/

@[simp] theorem now_endPassage (d : Disposition) : (s.endPassage d).now = s.now := by simp [State.endPassage]

@[simp] theorem lif_endPassage (d : Disposition) : (s.endPassage d).lif = s.lif := by simp [State.endPassage]

@[simp] theorem scu_endPassage (d : Disposition) : (s.endPassage d).scu = { s.scu with site := .closing, siteFresh := true, loss := none } := by
  simp [State.endPassage, State.changeSite]

@[simp] theorem brg_endPassage (d : Disposition) :
    (s.endPassage d).brg = { s.brg with shutter := .closeWait, closeTimer := some 2000000 } := by
  simp [State.endPassage, State.closeWaitClosing, Config.closeDelayClosing]

theorem raised_endPassage_self (d : Disposition) (s : State) : (s.endPassage d).raised .stateChanged :=
  raised_judgeLines (raised_congr (rps_closeWaitClosing _) (raised_changeSite_self _ _))

/-- A passage that ends after loop time that ran has ended as the part's words say (R41, R44, R118, R169). -/
theorem ends_endPassage {t : State} {dt : Nat} (d : Disposition) (h : t.passage = s.passage.map (tickPassage s.now dt)) :
    Ends s (t.endPassage d) d where
  site := by rw [scu_endPassage]
  loss := by rw [scu_endPassage]
  raised := raised_endPassage_self d t
  shutter := by rw [brg_endPassage]
  closeTimer := by rw [brg_endPassage]
  passage p hp := by
    refine ⟨endedPassage t.now d (tickPassage s.now dt p), ?_, ?_, rfl, rfl, rfl, rfl, rfl, rfl, rfl, rfl, ?_, ?_, rfl, rfl, rfl⟩
    · rw [passage_endPassage, h, hp, Option.map_some, Option.map_some]
    · rw [now_endPassage]
      rfl
    · simp only [endedPassage, tickPassage, List.length_map]
    · intro a ha
      obtain ⟨b, -, rfl⟩ := List.mem_map.mp ha
      rfl

/-! ### The causes (R44, R176) -/

theorem forceClose_takes {tag : Byte} (h : s.scu.site = .passage) :
    forceClose tag [] s = (s.endPassage .forced).answer 10 tag .done [] := plainCommand_takes s (refusal_forceClose h)

theorem exec_lossTimerExpiry_due {dt n : Nat} (hp : s.powered = true) (hs : s.scu.site = .passage) (hl : s.scu.loss = some n) (hn : n ≤ dt) :
    exec (.lossTimerExpiry dt) s = .next ((s.elapse dt).endPassage .aborted) := by
  have hdue : ((s.elapse dt).scu.site == .passage && expired (s.elapse dt).scu.loss) = true :=
    Bool.and_eq_true_iff.mpr ⟨beq_iff_eq.mpr hs, expired_tick hl hn⟩
  rw [exec_lossTimerExpiry, timed_when s hp dt (b := fun t => t.scu.site == .passage && expired t.scu.loss) hdue]

theorem clearHoldEnd_due {p : Passage} (hp : s.passage = some p) (hs : s.scu.site = .passage) (hc : expired p.clear = true) :
    s.clearHoldEnd = s.endPassage (clearDisposition p) := by
  unfold State.clearHoldEnd
  rw [hp]
  exact if_pos ⟨hs, hc⟩

theorem exec_clearHoldExpiry_due {p : Passage} {dt n : Nat} (hp : s.powered = true) (hs : s.scu.site = .passage) (hq : s.passage = some p)
    (hc : p.clear = some n) (hn : n ≤ dt) : exec (.clearHoldExpiry dt) s = .next ((s.elapse dt).endPassage (clearDisposition p)) := by
  have hpassage : (s.elapse dt).passage = some (tickPassage s.now dt p) := by rw [passage_elapse, hq, Option.map_some]
  rw [exec_clearHoldExpiry, timed_powered s dt _ hp, clearHoldEnd_due hpassage hs (expired_tick hc hn)]
  rfl

/-! ### STOP (R174) -/

section
variable {tag : Byte}

theorem stop_offline (h : s.scu.site = .offline) : stop tag [] s = s.answer 7 tag .done [] := by
  unfold stop
  rw [plainCommand_takes s rfl, h]
  rfl

theorem stop_armed (h : s.scu.site = .armed) : stop tag [] s = s.enterOffline.answer 7 tag .done [] := by
  unfold stop
  rw [plainCommand_takes s rfl, h]
  rfl

theorem stop_checking (h : s.scu.site = .checking) : stop tag [] s = (s.abortCheck .stop).enterOffline.answer 7 tag .done [] := by
  unfold stop
  rw [plainCommand_takes s rfl, h]
  rfl

theorem stop_passage (h : s.scu.site = .passage) : stop tag [] s = (s.holdCommand tag .stop).endPassage .aborted := by
  unfold stop
  rw [plainCommand_takes s rfl, h]

theorem stop_closing (h : s.scu.site = .closing) : stop tag [] s = s.holdCommand tag .stop := by
  unfold stop
  rw [plainCommand_takes s rfl, h]

end

/-- A command held in progress keeps LIF from answering others (R192). -/
theorem inProgress_holdCommand (s : State) (tag : Byte) (j : Job) : (s.holdCommand tag j).lif.inProgress = some ⟨j, tag, !s.lif.locked⟩ := rfl

end

/-! ### The statements -/

/-- Settles O24: each cause by the end of the passage that it makes. -/
theorem passageEndsByItsCause : Obligations.PassageEndsByItsCause := by
  refine fun s dt hs => ⟨fun tag h => ?forced, fun n hp hl hn => ?aborted, fun p n hp hq hc hn => ?cleared⟩
  case forced =>
    exact ⟨_, command_answers s h dt (forceClose_takes (s := s.taken dt) hs), ends_endPassage _ rfl⟩
  case aborted => exact ⟨_, exec_lossTimerExpiry_due hp hs hl hn, ends_endPassage _ (passage_elapse s dt)⟩
  case cleared => exact ⟨_, exec_clearHoldExpiry_due hp hs hq hc hn, ends_endPassage _ (passage_elapse s dt)⟩

/-- Settles O21: STOP in each site state. -/
theorem stopBySiteState : Obligations.StopBySiteState := by
  refine fun s dt tag h => ⟨fun hs => ?offline, fun hs => ?armed, fun hs => ?checking, fun hs => ?passage, fun hs => ?closing⟩
  case offline => exact command_answers s h dt (stop_offline (s := s.taken dt) hs)
  case armed =>
    refine ⟨_, command_answers s h dt (stop_armed (s := s.taken dt) hs), rests_enterOffline _, ?_, ?_, ?_, ?_⟩
    · rw [scu_enterOffline]
      rfl
    · rw [tables_enterOffline, tables_taken]
    · rw [commit_enterOffline, commit_taken]
    · rw [axt_enterOffline]
      rfl
  case checking =>
    refine ⟨_, command_answers s h dt (stop_checking (s := s.taken dt) hs), rests_enterOffline _, ?_, raised_enterOffline (raised_abortCheck_self _ _), ?_, ?_⟩
    · rw [scu_enterOffline]
      rfl
    · rw [tables_enterOffline, tables_abortCheck, tables_taken]
    · rw [commit_enterOffline, commit_abortCheck, commit_taken]
  case passage =>
    have hheld : (((s.taken dt).holdCommand tag .stop).endPassage .aborted).lif.inProgress = some ⟨.stop, tag, !s.lif.locked⟩ := by
      rw [lif_endPassage]
      rfl
    have hrow : exec (.stop dt tag []) s = .next (((s.taken dt).holdCommand tag .stop).endPassage .aborted) := by
      rw [exec_stop, stopCode, command_ready s h, stop_passage (s := s.taken dt) hs, drain_inProgress hheld]
    exact ⟨_, hrow, ends_endPassage _ rfl, hheld⟩
  case closing =>
    rw [exec_stop, stopCode, command_ready s h, stop_closing (s := s.taken dt) hs, drain_inProgress (inProgress_holdCommand _ _ _)]
    rfl

end Sys2Proof.Machine
end

section
/-! PROOFS. O25: the end of CLOSING, and the passage sealed on the way. -/

namespace Sys2Proof.Machine

section
variable {s t : State} {p : Passage}

/-! ### The steps of CLOSING (R177) -/

/-- The part as CLOSING seals its passage: outlier check of LEFT and then RIGHT, tail segmentation, finalising, closing evaluation (R177). -/
def State.finished (s : State) : State :=
  ((((s.outlierSide .left).outlierSide .right).segmentAttempt true).finalise).closingEvaluation

theorem closingWork_eq (s : State) : s.closingWork = s.finished.sealPassage := rfl

theorem measured_finished (s : State) : Measured s s.finished :=
  measured_closingEvaluation (measured_finalise (measured_segmentAttempt (measured_outlierCheck (measured_self s)) true))

/-- Sealing changes RPS alone (R155, R163). -/
theorem sealPassage_frame (s : State) : s.sealPassage = { s with rps := s.sealPassage.rps } := by
  obtain hp | ⟨p, hp⟩ := s.passage.eq_none_or_eq_some
  · have hsame : s.sealPassage = s := by
      unfold State.sealPassage
      rw [hp]
    rw [hsame]
  · cases hn : p.slot with
    | none =>
      rw [sealPassage_noSlot hp hn]
      rfl
    | some n =>
      rw [sealPassage_inSlot hp hn]
      rfl

@[simp] theorem lif_sealPassage (s : State) : s.sealPassage.lif = s.lif := by rw [sealPassage_frame]

@[simp] theorem aou_sealPassage (s : State) : s.sealPassage.aou = s.aou := by rw [sealPassage_frame]

@[simp] theorem passage_sealPassage (s : State) : s.sealPassage.passage = s.passage := by rw [sealPassage_frame]

theorem stopping_eq (s : State) : s.stopping = s.lif.inProgress.any fun p => p.job == .stop := rfl

theorem stopping_closingWork (s : State) : s.closingWork.stopping = s.stopping := by
  rw [stopping_eq, stopping_eq, closingWork_eq, lif_sealPassage, (measured_finished s).lif]

/-! ### The end of CLOSING (R143, R174, R177) -/

@[simp] theorem passage_clearPassage (s : State) : s.clearPassage.passage = none := by
  unfold State.clearPassage
  cases h : s.passage with
  | none => exact h
  | some p => rfl

theorem clearPassage_some (h : s.passage = some p) : s.clearPassage = { s with
    passage := none
    rps := { s.rps with lastPassage := p.number }
    axt := { s.axt with countsFresh := s.axt.countsFresh || !noCounts p } } := by
  unfold State.clearPassage
  rw [h]

/-- Starting the hold timers changes lines alone (R143). -/
theorem holdLine_keeps {α : Type} (g : State → α) (hg : ∀ (u : State) l f, g (u.onLine l f) = g u) (l : Line) (u : State) :
    g (u.holdLine l) = g u := by
  unfold State.holdLine
  dsimp only
  split
  · exact hg _ _ _
  · rfl

theorem holdLines_keeps {α : Type} (g : State → α) (hg : ∀ (u : State) l f, g (u.onLine l f) = g u) (u : State) : g u.holdLines = g u :=
  forEach_keeps g (holdLine_keeps g hg) _ _

@[simp] theorem passage_holdLines (s : State) : s.holdLines.passage = s.passage := holdLines_keeps State.passage (fun _ _ _ => rfl) s

@[simp] theorem rps_holdLines (s : State) : s.holdLines.rps = s.rps := holdLines_keeps State.rps (fun _ _ _ => rfl) s

@[simp] theorem alarms_holdLines (s : State) : s.holdLines.aou.alarms = s.aou.alarms := holdLines_keeps (·.aou.alarms) (fun _ _ _ => rfl) s

/-- `t` shows no passage, with the reports, alarms and raised events of `s` and the number of its passage as the latest that ended (R48, R165, R177). -/
structure Cleared (s t : State) : Prop where
  passage : t.passage = none
  alarms : t.aou.alarms = s.aou.alarms
  slots : t.rps.slots = s.rps.slots
  ring : t.rps.ring = s.rps.ring
  lastPassage : ∀ p, s.passage = some p → t.rps.lastPassage = p.number
  raised : ∀ k, s.raised k → t.raised k

theorem cleared_clearPassage (h : s.passage = some p) : Cleared s s.clearPassage := by
  rw [clearPassage_some h]
  refine ⟨rfl, rfl, rfl, rfl, fun q hq => ?_, fun k hk => raised_of_kinds hk rfl rfl⟩
  rw [h] at hq
  cases hq
  rfl

theorem Cleared.of_told {u : State} (h : Cleared s t) (hp : u.passage = none) (ha : u.aou.alarms = t.aou.alarms)
    (hr : u.rps.told = t.rps.told) (hk : ∀ k, t.raised k → u.raised k) : Cleared s u := by
  obtain ⟨hslots, hring, -, hlast⟩ := reports_of_told hr
  exact ⟨hp, ha.trans h.alarms, hslots.trans h.slots, hring.trans h.ring, fun p hs => hlast.trans (h.lastPassage p hs),
    fun k hs => hk k (h.raised k hs)⟩

theorem Cleared.drain (h : Cleared s t) : Cleared s t.drain where
  passage := by rw [passage_drain, h.passage]
  alarms := by rw [aou_drain, h.alarms]
  slots := by rw [slots_drain, h.slots]
  ring := by rw [ring_drain, h.ring]
  lastPassage p hs := by rw [lastPassage_drain, h.lastPassage p hs]
  raised k hs := raised_of_kinds (h.raised k hs) (kinds_drain t) (marks_drain t)

theorem Cleared.answerProgress (h : Cleared s t) (c : Nat) (a : AnswerCode) (d : List Byte) : Cleared s (t.answerProgress c a d) where
  passage := by rw [passage_answerProgress, h.passage]
  alarms := by rw [aou_answerProgress, h.alarms]
  slots := by rw [slots_answerProgress, h.slots]
  ring := by rw [ring_answerProgress, h.ring]
  lastPassage p hs := by rw [lastPassage_answerProgress, h.lastPassage p hs]
  raised k hs := raised_of_kinds (h.raised k hs) (kinds_answerProgress t c a d) (marks_answerProgress t c a d)

/-! ### Into ARMED -/

theorem passage_closeToArmed (s : State) : s.closeToArmed.passage = none := by
  rw [State.closeToArmed, passage_equipmentSince, passage_enterArmed, passage_holdLines, passage_clearPassage]

theorem site_closeToArmed (s : State) : s.closeToArmed.scu.site = .armed := by
  rw [State.closeToArmed, scu_equipmentSince, site_enterArmed]

theorem raised_closeToArmed_self (s : State) : s.closeToArmed.raised .stateChanged := raised_equipmentSince (raised_enterArmed_self _)

theorem cleared_closeToArmed (h : s.passage = some p) : Cleared s s.closeToArmed := by
  refine (cleared_clearPassage h).of_told (passage_closeToArmed s) ?_ ?_ fun k hk => ?_
  · rw [State.closeToArmed, alarms_equipmentSince, alarms_enterArmed, alarms_holdLines]
  · rw [State.closeToArmed, told_equipmentSince, told_enterArmed, rps_holdLines]
  · exact raised_equipmentSince (raised_enterArmed (raised_congr (rps_holdLines _) hk))

/-! ### Into OFFLINE -/

/-- The part as an end of CLOSING has entered OFFLINE, before the STOP is answered (R174, R177). -/
def State.stopped (s : State) : State := State.equipmentSince s s.clearPassage.enterOffline

theorem closeToOffline_eq (s : State) : s.closeToOffline = s.stopped.answerProgress 7 .done [] := rfl

theorem passage_stopped (s : State) : s.stopped.passage = none := by
  rw [State.stopped, passage_equipmentSince, passage_enterOffline_none (passage_clearPassage s)]

theorem cleared_stopped (h : s.passage = some p) : Cleared s s.stopped := by
  refine (cleared_clearPassage h).of_told (passage_stopped s) ?_ ?_ fun k hk => ?_
  · rw [State.stopped, alarms_equipmentSince, alarms_enterOffline]
  · rw [State.stopped, told_equipmentSince, told_enterOffline]
  · exact raised_equipmentSince (raised_enterOffline hk)

/-- A comparison of the equipment leaves OFFLINE as it was entered (R140, R169). -/
theorem rests_equipmentSince (b : State) (h : Rests s) : Rests (State.equipmentSince b s) where
  site := by rw [scu_equipmentSince, h.site]
  raised := raised_equipmentSince h.raised
  interval := by rw [scu_equipmentSince, h.interval]
  due := by rw [scu_equipmentSince, h.due]
  queue := by rw [axt_equipmentSince, h.queue]
  line := by rw [sin_equipmentSince, h.line]
  released := by rw [sin_equipmentSince, h.released]
  nodes := by rw [sin_equipmentSince]; exact h.nodes
  link := by rw [lif_equipmentSince, h.link]
  supervision := by rw [lif_equipmentSince, h.supervision]
  shutter := by rw [brg_equipmentSince, h.shutter]
  lines l := by rw [hold_equipmentSince, pulse_equipmentSince, test_equipmentSince]; exact h.lines l

theorem rests_stopped (s : State) : Rests s.stopped := rests_equipmentSince _ (rests_enterOffline _)

theorem lif_clearPassage (s : State) : s.clearPassage.lif = s.lif := by
  unfold State.clearPassage
  split <;> rfl

theorem inProgress_stopped (s : State) : s.stopped.lif.inProgress = s.lif.inProgress := by
  rw [State.stopped, lif_equipmentSince, lif_enterOffline, lif_clearPassage]
  rfl

theorem inProgress_answerProgress (s : State) (c : Nat) (a : AnswerCode) (d : List Byte) :
    (s.answerProgress c a d).lif.inProgress = none := by
  unfold State.answerProgress
  cases h : s.lif.inProgress with
  | none => exact h
  | some p =>
    dsimp only
    split
    · rfl
    · exact inProgress_answer _ _ _ _ _

theorem inProgress_drainOne (h : s.lif.inProgress = none) : s.drainOne.lif.inProgress = none := by
  unfold State.drainOne
  split
  · exact h
  · split
    · split
      · exact inProgress_answer _ _ _ _ _
      · exact h
    · exact h

/-- The commands that LIF answers by itself are never in progress (R192). -/
theorem inProgress_drain (h : s.lif.inProgress = none) : s.drain.lif.inProgress = none :=
  List.foldlRecOn (motive := fun u : State => u.lif.inProgress = none) _ _ h fun _ hu _ _ => inProgress_drainOne hu

/-! ### The row (R177) -/

theorem exec_closingSteps_closing (hp : s.powered = true) (hs : s.scu.site = .closing) (dt : Nat) :
    exec (.closingSteps dt) s = .next (s.elapse dt).runClosing.drain := by
  have hdue : ((s.elapse dt).scu.site == .closing) = true := beq_iff_eq.mpr hs
  rw [exec_closingSteps, timed_when s hp dt (b := fun t => t.scu.site == .closing) hdue]

theorem runClosing_armed (h : s.stopping = false) : s.runClosing = s.closingWork.closeToArmed := by
  unfold State.runClosing
  dsimp only
  rw [stopping_closingWork, h]
  rfl

theorem runClosing_offline (h : s.stopping = true) : s.runClosing = s.closingWork.stopped.answerProgress 7 .done [] := by
  unfold State.runClosing
  dsimp only
  rw [stopping_closingWork, h, closeToOffline_eq]
  rfl

theorem passage_runClosing (s : State) : s.runClosing.passage = none := by
  cases h : s.stopping with
  | false => rw [runClosing_armed h, passage_closeToArmed]
  | true => rw [runClosing_offline h, passage_answerProgress, passage_stopped]

theorem cleared_runClosing (h : s.closingWork.passage = some p) : Cleared s.closingWork s.runClosing := by
  cases hs : s.stopping with
  | false =>
    rw [runClosing_armed hs]
    exact cleared_closeToArmed h
  | true =>
    rw [runClosing_offline hs]
    exact (cleared_stopped h).answerProgress _ _ _

/-- The passage as CLOSING seals it has the values of its end, and its axles their numbers and final segments (R155, R177). -/
theorem passage_finished {dt : Nat} (hp : s.passage = some p) : ∃ q, (s.elapse dt).finished.passage = some q
    ∧ q.number = p.number ∧ q.startTime = p.startTime ∧ q.endTime = p.endTime ∧ q.disposition = p.disposition ∧ q.dir = p.dir
    ∧ q.total = p.total ∧ q.slot = p.slot
    ∧ q.axles.map (fun a => (a.number, a.finalSegment)) = p.axles.map fun a => (a.number, a.finalSegment) := by
  obtain ⟨q, hq, hm⟩ := (measured_finished (s.elapse dt)).passage (by rw [passage_elapse, hp, Option.map_some])
  refine ⟨q, hq, (congrArg Passage.number hm :), (congrArg Passage.startTime hm :), (congrArg Passage.endTime hm :), (congrArg Passage.disposition hm :),
    (congrArg Passage.dir hm :), (congrArg Passage.total hm :), (congrArg Passage.slot hm :), ?_⟩
  have haxles := congrArg (fun x : Passage => x.axles.map fun a => (a.number, a.finalSegment)) hm
  simp only [Passage.moved, tickPassage, List.map_map] at haxles
  exact haxles

end

/-! ### The statement -/

/-- Settles O25: the end of CLOSING into ARMED or OFFLINE, with the sealed passage as O30 states a sealing. -/
theorem closingEndsInArmedOrOffline : Obligations.ClosingEndsInArmedOrOffline := by
  intro s dt hw hp hs
  have hrow := exec_closingSteps_closing hp hs dt
  refine ⟨⟨_, hrow, ?none, fun h => ?armed, fun h => ?offline, fun p d e hpassage hd he => ?sealed⟩, fun h => ?stop⟩
  case none => rw [passage_drain, passage_runClosing]
  case armed =>
    rw [runClosing_armed (s := s.elapse dt) h]
    refine ⟨?_, raised_of_kinds (raised_closeToArmed_self _) (kinds_drain _) (marks_drain _)⟩
    rw [scu_drain, site_closeToArmed]
  case offline =>
    rw [runClosing_offline (s := s.elapse dt) h]
    refine ⟨?_, inProgress_drain (inProgress_answerProgress _ _ _ _)⟩
    rw [scu_drain, scu_answerProgress, (rests_stopped _).site]
  case stop =>
    rw [runClosing_offline (s := s.elapse dt) h] at hrow
    refine ⟨_, hrow, rests_stopped _, passage_stopped _, ?_⟩
    rw [inProgress_stopped, closingWork_eq, lif_sealPassage, (measured_finished _).lif]
    rfl
  case sealed =>
    have hm := measured_finished (s.elapse dt)
    obtain ⟨q, hq, hnumber, hstart, hend, hdisposition, hdir, htotal, hslot, haxles⟩ := passage_finished (dt := dt) hpassage
    have hsealed : (s.elapse dt).closingWork.passage = some q := by rw [closingWork_eq, passage_sealPassage, hq]
    have hc := (cleared_runClosing hsealed).drain
    obtain ⟨-, -, hseal⟩ := slotsAreChosenAndSealed
    obtain ⟨hraised, hring, hunslotted, hreport⟩ := hseal _ q d e hq (hdisposition.trans hd) (hend.trans he)
    rw [← closingWork_eq] at hraised hring hunslotted hreport
    have halarms : (s.elapse dt).runClosing.drain.aou.alarms = (s.elapse dt).finished.aou.alarms := by
      rw [hc.alarms, closingWork_eq, aou_sealPassage]
    have hat (k : Nat) : (s.elapse dt).runClosing.drain.rps.slot k = (s.elapse dt).closingWork.rps.slot k := by
      unfold Rps.slot
      rw [hc.slots]
    refine ⟨hc.raised _ hraised, (hc.lastPassage q hsealed).trans hnumber, ?_, fun hn => ?_, fun n hn h1 h4 hcount => ?_⟩
    · rw [hc.ring, hring, halarms, hm.ring, hnumber, hstart, hdir, htotal, hslot]
      rfl
    · rw [hc.slots, hunslotted (hslot.trans hn), hm.slots]
      rfl
    · have hlength : (s.elapse dt).finished.rps.slots.length = 4 := by
        rw [hm.slots]
        exact hw.slots
      obtain ⟨r, hr, horder, -, hrn, hrd, hrt, -, -, -, hhighest, hra, hrv, hralarms, hread, hothers⟩ :=
        hreport n (hslot.trans hn) h1 (hlength ▸ h4) (by rw [hm.sealCount]; exact hcount)
      refine ⟨⟨r, (hat n).trans hr, ?_, hrn.trans hnumber, hrd, hrt.trans htotal, ?_, ?_, ?_, hread, _, q, rfl, hq, hra, hrv, hralarms⟩,
        fun k hk => ?_⟩
      · rw [horder, hm.sealCount]
        rfl
      · rw [hra, haxles]
      · rw [hralarms, halarms]
      · rw [hhighest, halarms]
      · rw [hat k, hothers k hk]
        unfold Rps.slot
        rw [hm.slots]
        rfl

end Sys2Proof.Machine
end

section
/-! PROOFS. O47: stray crossings, and the intake of a CRS frame. -/

namespace Sys2Proof.Machine

/-! ### Counters over many steps (R22) -/

/-- A counter after it has been counted `k` times (R22). -/
def bumpTimes (k n : Nat) : Nat :=
  match k with
  | 0 => n
  | k + 1 => bump (bumpTimes k n)

theorem bumpTimes_succ (k n : Nat) : bumpTimes (k + 1) n = bump (bumpTimes k n) := rfl

/-- A counter counted several times is held to its limit (R22). -/
theorem bumpTimes_eq (k n : Nat) : bumpTimes k n = if k = 0 then n else min 65535 (n + k) := by
  induction k with
  | zero => rfl
  | succ k ih =>
    rw [bumpTimes_succ, ih, bump_eq_min, if_neg k.succ_ne_zero]
    split <;> omega

/-! ### The records of a CRS payload (R25, R200) -/

section
variable {payload : List Byte} {now : LoopTime} {i n : Nat}

theorem wtAt_eq_some_iff {w : Transducer} : wtAt i = some w ↔ i = wtIndex w := by
  unfold wtAt
  cases w
  all_goals
    unfold wtIndex
    split <;> simp_all

theorem transducerOf_eq_some_iff {w : Transducer} : transducerOf i = some w ↔ i = wtIndex w + 1 := by
  unfold transducerOf
  split
  · next h => simp [h]
  · rw [wtAt_eq_some_iff]
    omega

theorem directionOf_eq_up_iff : directionOf i = some .up ↔ i = 1 := by
  unfold directionOf
  split <;> simp_all

theorem directionOf_eq_down_iff : directionOf i = some .down ↔ i = 2 := by
  unfold directionOf
  split <;> simp_all

theorem crossingAt_eq_some_iff {x : Crossing} : crossingAt payload now i = some x ↔
    transducerOf (byteAt payload (4 + 8 * i)) = some x.wt ∧ directionOf (byteAt payload (4 + 8 * i + 1)) = some x.dir
      ∧ x.time = timeAt payload (4 + 8 * i + 4) ∧ x.arrival = now := by
  obtain ⟨w, d, t, a⟩ := x
  unfold crossingAt
  dsimp only
  rw [Option.bind_eq_some_iff]
  simp only [Option.map_eq_some_iff, Crossing.mk.injEq]
  constructor
  · rintro ⟨w', hw, d', hd, rfl, rfl, rfl, rfl⟩
    exact ⟨hw, hd, rfl, rfl⟩
  · rintro ⟨hw, hd, rfl, rfl⟩
    exact ⟨w, hw, d, hd, rfl, rfl, rfl, rfl⟩

/-- The good ones of the first `n` records of a payload, in order (R25). -/
def goodRecords (payload : List Byte) (now : LoopTime) (n : Nat) : List Crossing := (List.range n).filterMap (crossingAt payload now)

theorem goodRecords_succ : goodRecords payload now (n + 1) = goodRecords payload now n ++ (crossingAt payload now n).toList := by
  unfold goodRecords
  rw [List.range_succ, List.filterMap_append]
  cases h : crossingAt payload now n <;> simp [h]

theorem length_goodRecords_le : (goodRecords payload now n).length ≤ n :=
  Nat.le_trans (List.length_filterMap_le _ _) (Nat.le_of_eq List.length_range)

theorem goodRecords_succ_bad (h : crossingAt payload now n = none) : goodRecords payload now (n + 1) = goodRecords payload now n := by
  rw [goodRecords_succ, h, Option.toList_none, List.append_nil]

theorem goodRecords_succ_good {c : Crossing} (h : crossingAt payload now n = some c) :
    goodRecords payload now (n + 1) = goodRecords payload now n ++ [c] := by
  rw [goodRecords_succ, h, Option.toList_some]

end

/-! ### One record (R25, R26, R35) -/

section
variable {s t u : State} {payload : List Byte} {i : Nat} {c : Crossing}

theorem takeRecord_bad (h : crossingAt payload s.now i = none) :
    s.takeRecord payload i = s.onAxtCounters fun c => { c with malformed := bump c.malformed } := by
  unfold State.takeRecord
  rw [h]

theorem takeRecord_offline (h : crossingAt payload s.now i = some c) (hs : s.scu.site = .offline) :
    s.takeRecord payload i = s.onAxtCounters fun x => { x with offline := bump x.offline } := by
  unfold State.takeRecord
  rw [h]
  exact if_pos hs

theorem takeRecord_offered (h : crossingAt payload s.now i = some c) (hs : s.scu.site ≠ .offline) :
    s.takeRecord payload i = s.offerCrossing c := by
  unfold State.takeRecord
  rw [h]
  exact if_neg hs

theorem offerCrossing_room (h : s.axt.queue.length < 64) : s.offerCrossing c = s.onAxt fun x => { x with queue := x.queue ++ [c] } :=
  if_pos h

theorem offerCrossing_full (h : 64 ≤ s.axt.queue.length) : s.offerCrossing c = s.overflowCrossing := if_neg (Nat.not_lt.mpr h)

@[simp] theorem axt_suspectPassage : s.suspectPassage.axt = s.axt := by
  unfold State.suspectPassage
  split
  · rfl
  · rw [axt_equipmentSince, axt_onPassage]

@[simp] theorem scu_suspectPassage : s.suspectPassage.scu = s.scu := by
  unfold State.suspectPassage
  split
  · rfl
  · rw [scu_equipmentSince, scu_onPassage]

@[simp] theorem now_suspectPassage : s.suspectPassage.now = s.now := by
  unfold State.suspectPassage
  split
  · rfl
  · rw [now_equipmentSince, now_onPassage]

/-- With a passage current, its flag TRACKING_SUSPECT is set and nothing else of it changes (R35). -/
theorem passage_suspectPassage : s.suspectPassage.passage = s.passage.map fun p => { p with flags := { p.flags with suspect := true } } := by
  unfold State.suspectPassage
  split
  case isTrue h =>
    unfold State.trackingSuspect at h
    cases hp : s.passage with
    | none => rfl
    | some p =>
      rw [hp] at h
      have hflags : p.flags = { p.flags with suspect := true } := by
        rw [← show p.flags.suspect = true from h]
      exact congrArg some (congrArg (fun g => { p with flags := g }) hflags)
  case isFalse => rw [passage_equipmentSince, passage_onPassage]

theorem overflowCrossing_passage (h : s.scu.site = .passage) :
    s.overflowCrossing = (s.onAxtCounters fun c => { c with overflow := bump c.overflow }).suspectPassage := by
  unfold State.overflowCrossing
  rw [h]

theorem overflowCrossing_closing (h : s.scu.site = .closing) :
    s.overflowCrossing = (s.onAxtCounters fun c => { c with overflow := bump c.overflow }).onAxt fun x => { x with carried := true } := by
  unfold State.overflowCrossing
  rw [h]

theorem overflowCrossing_elsewhere (hp : s.scu.site ≠ .passage) (hc : s.scu.site ≠ .closing) :
    s.overflowCrossing = s.onAxtCounters fun c => { c with overflow := bump c.overflow } := by
  unfold State.overflowCrossing
  cases h : s.scu.site with
  | passage => exact absurd h hp
  | closing => exact absurd h hc
  | offline => rfl
  | checking => rfl
  | armed => rfl

/-- A crossing that arrives to a full queue counts an overflow; the carried mark goes up in CLOSING, and the passage is suspect in PASSAGE (R26, R35). -/
theorem overflowCrossing_effect (s : State) : s.overflowCrossing.scu = s.scu ∧ s.overflowCrossing.now = s.now
    ∧ s.overflowCrossing.axt = { s.axt with
        counters := { s.axt.counters with overflow := bump s.axt.counters.overflow }
        carried := s.axt.carried || s.scu.site == .closing }
    ∧ (s.scu.site = .passage → ∀ p, s.overflowCrossing.passage = some p → p.flags.suspect = true) := by
  by_cases hp : s.scu.site = .passage
  · rw [overflowCrossing_passage hp, hp]
    refine ⟨scu_suspectPassage, now_suspectPassage, axt_suspectPassage.trans ?_, fun _ p hs => ?_⟩
    · rw [show (SiteState.passage == SiteState.closing) = false from rfl, Bool.or_false]
      rfl
    · rw [passage_suspectPassage] at hs
      obtain ⟨q, -, rfl⟩ := Option.map_eq_some_iff.mp hs
      rfl
  · refine ⟨?_, ?_, ?_, fun h => absurd h hp⟩
    all_goals by_cases hc : s.scu.site = .closing
    case pos | pos => rw [overflowCrossing_closing hc]; rfl
    case pos =>
      rw [overflowCrossing_closing hc, hc, show (SiteState.closing == SiteState.closing) = true from rfl, Bool.or_true]
      rfl
    case neg | neg => rw [overflowCrossing_elsewhere hp hc]; rfl
    case neg =>
      rw [overflowCrossing_elsewhere hp hc, beq_false_of_ne hc, Bool.or_false]
      rfl

end

/-! ### The records of a frame in turn (R25, R26) -/

section
variable {s u : State} {payload : List Byte} {good : List Crossing} {bad : Nat}

/-- In OFFLINE the records of a frame are counted, the bad ones and the good ones (R25). -/
theorem takeRecords_offline (hs : s.scu.site = .offline) (n : Nat) : forEach (List.range n) (State.takeRecord payload) s
    = s.onAxtCounters fun c => { c with
        malformed := bumpTimes (n - (goodRecords payload s.now n).length) c.malformed
        offline := bumpTimes (goodRecords payload s.now n).length c.offline } := by
  induction n with
  | zero => rfl
  | succ n ih =>
    have hle : (goodRecords payload s.now n).length ≤ n := length_goodRecords_le
    have hlast : forEach (List.range (n + 1)) (State.takeRecord payload) s
        = (forEach (List.range n) (State.takeRecord payload) s).takeRecord payload n := by
      unfold forEach
      rw [List.range_succ, List.foldl_append, List.foldl_cons, List.foldl_nil]
    rw [hlast, ih]
    cases h : crossingAt payload s.now n with
    | none =>
      rw [takeRecord_bad (s := State.onAxtCounters _ s) h, goodRecords_succ_bad h, Nat.succ_sub hle]
      simp only [bumpTimes_succ]
      rfl
    | some c =>
      rw [takeRecord_offline (s := State.onAxtCounters _ s) h hs, goodRecords_succ_good h, List.length_append, List.length_singleton, Nat.add_sub_add_right]
      simp only [bumpTimes_succ]
      rfl

/-- Outside OFFLINE `u` is the part `s` with some good records offered to the queue and some bad ones counted (R25, R26, R35). -/
structure Offered (s u : State) (good : List Crossing) (bad : Nat) : Prop where
  site : u.scu.site = s.scu.site
  now : u.now = s.now
  queue : u.axt.queue = (s.axt.queue ++ good).take 64
  malformed : u.axt.counters.malformed = bumpTimes bad s.axt.counters.malformed
  overflow : u.axt.counters.overflow = bumpTimes (s.axt.queue.length + good.length - 64) s.axt.counters.overflow
  room : s.axt.queue.length + good.length ≤ 64 → u = { s with axt := u.axt } ∧ u.axt.carried = s.axt.carried
  carried : 64 < s.axt.queue.length + good.length → u.axt.carried = (s.axt.carried || s.scu.site == .closing)
  suspect : 64 < s.axt.queue.length + good.length → s.scu.site = .passage → ∀ p, u.passage = some p → p.flags.suspect = true

theorem offered_self (hq : s.axt.queue.length ≤ 64) : Offered s s [] 0 where
  site := rfl
  now := rfl
  queue := by rw [List.append_nil, List.take_of_length_le hq]
  malformed := rfl
  overflow := by rw [List.length_nil, Nat.add_zero, Nat.sub_eq_zero_of_le hq]; rfl
  room _ := ⟨rfl, rfl⟩
  carried h := absurd hq (Nat.not_le.mpr h)
  suspect h := absurd hq (Nat.not_le.mpr h)

/-- A bad record is counted (R25). -/
theorem Offered.discard (h : Offered s u good bad) : Offered s (u.onAxtCounters fun c => { c with malformed := bump c.malformed }) good (bad + 1) where
  site := h.site
  now := h.now
  queue := h.queue
  malformed := by
    rw [bumpTimes_succ, ← h.malformed]
    rfl
  overflow := h.overflow
  room hr := by
    obtain ⟨hu, hc⟩ := h.room hr
    refine ⟨?_, hc⟩
    rw [hu]
    rfl
  carried := h.carried
  suspect := h.suspect

/-- A good record that finds room joins the queue (R25). -/
theorem Offered.room_good (h : Offered s u good bad) (hr : s.axt.queue.length + good.length < 64) (c : Crossing) :
    Offered s (u.offerCrossing c) (good ++ [c]) bad := by
  have hlength : (good ++ [c]).length = good.length + 1 := List.length_append
  have hjoined : u.axt.queue = s.axt.queue ++ good := by
    rw [h.queue, List.take_of_length_le (by rw [List.length_append]; omega)]
  have huroom : u.axt.queue.length < 64 := by
    rw [hjoined, List.length_append]
    exact hr
  obtain ⟨hu, hc⟩ := h.room (Nat.le_of_lt hr)
  rw [offerCrossing_room huroom]
  refine ⟨h.site, h.now, ?_, h.malformed, ?_, fun _ => ⟨?_, hc⟩, fun hf => ?_, fun hf => ?_⟩
  · show u.axt.queue ++ [c] = _
    rw [hjoined, List.append_assoc, List.take_of_length_le]
    rw [List.length_append, hlength]
    omega
  · refine h.overflow.trans ?_
    rw [Nat.sub_eq_zero_of_le (Nat.le_of_lt hr), hlength, Nat.sub_eq_zero_of_le (show s.axt.queue.length + (good.length + 1) ≤ 64 from hr)]
  · rw [hu]
    rfl
  · omega
  · omega

/-- A good record that finds the queue full is an overflow (R26). -/
theorem Offered.full_good (h : Offered s u good bad) (hf : 64 ≤ s.axt.queue.length + good.length) (c : Crossing) :
    Offered s (u.offerCrossing c) (good ++ [c]) bad := by
  have hlength : (good ++ [c]).length = good.length + 1 := List.length_append
  have hufull : 64 ≤ u.axt.queue.length := by
    rw [h.queue, List.length_take, List.length_append]
    omega
  have hcarried : (u.axt.carried || s.scu.site == .closing) = (s.axt.carried || s.scu.site == .closing) := by
    rcases Nat.eq_or_lt_of_le hf with he | hl
    · rw [(h.room (Nat.le_of_eq he.symm)).2]
    · rw [h.carried hl, Bool.or_assoc, Bool.or_self]
  obtain ⟨hscu, hnow, haxt, hsuspect⟩ := overflowCrossing_effect u
  rw [offerCrossing_full hufull]
  refine ⟨hscu ▸ h.site, hnow.trans h.now, ?_, ?_, ?_, fun hr => ?_, fun _ => ?_, fun _ hs => hsuspect (h.site.trans hs)⟩
  · rw [haxt]
    refine h.queue.trans ?_
    rw [← List.append_assoc, List.take_append_of_le_length (l₁ := s.axt.queue ++ good) (by rw [List.length_append]; exact hf)]
  · rw [haxt]
    exact h.malformed
  · rw [haxt, hlength, show s.axt.queue.length + (good.length + 1) - 64 = (s.axt.queue.length + good.length - 64) + 1 by omega,
      bumpTimes_succ, ← h.overflow]
  · omega
  · rw [haxt, h.site]
    exact hcarried

/-- Outside OFFLINE the good records of a frame are offered to the queue in order (R25). -/
theorem takeRecords_offered (hs : s.scu.site ≠ .offline) (hq : s.axt.queue.length ≤ 64) (n : Nat) :
    Offered s (forEach (List.range n) (State.takeRecord payload) s) (goodRecords payload s.now n)
      (n - (goodRecords payload s.now n).length) := by
  induction n with
  | zero => exact offered_self hq
  | succ n ih =>
    have hle : (goodRecords payload s.now n).length ≤ n := length_goodRecords_le
    have hlast : forEach (List.range (n + 1)) (State.takeRecord payload) s
        = (forEach (List.range n) (State.takeRecord payload) s).takeRecord payload n := by
      unfold forEach
      rw [List.range_succ, List.foldl_append, List.foldl_cons, List.foldl_nil]
    rw [hlast]
    cases h : crossingAt payload s.now n with
    | none =>
      rw [takeRecord_bad (by rw [ih.now]; exact h), goodRecords_succ_bad h, Nat.succ_sub hle]
      exact ih.discard
    | some c =>
      rw [takeRecord_offered (by rw [ih.now]; exact h) (by rw [ih.site]; exact hs), goodRecords_succ_good h, List.length_append,
        List.length_singleton, Nat.add_sub_add_right]
      rcases Nat.lt_or_ge (s.axt.queue.length + (goodRecords payload s.now n).length) 64 with hr | hf
      · exact ih.room_good hr c
      · exact ih.full_good hf c

end

/-! ### The frame (R25) -/

section
variable {s : State} {bytes : List Byte} {f : Frame} {dt : Nat}

/-- FRAME_RECEIVED of a CRS frame is AXT taking it (R25, R188). -/
theorem exec_crs (dt : Nat) (h : s.Hears bytes f) (hk : f.kind = 2) :
    exec (.frameReceived dt s.lif.rate bytes) s = .next ((s.heard dt f).takeCrs f.source f.payload) := by
  rw [exec_traffic dt h (.inr (.inl hk))]
  unfold State.takeTraffic
  rw [hk]
  rfl

/-- A change of AXT's counters as a frame reaches its block. -/
theorem onAxtCounters_heard (s : State) (dt : Nat) (f : Frame) (g : AxtCounters → AxtCounters) :
    (s.heard dt f).onAxtCounters g = { s.heard dt f with axt := { s.axt with counters := g s.axt.counters } } := by
  unfold State.onAxtCounters State.onAxt
  rw [axt_heard]

theorem takeCrs_foreign {source : Nat} (h : transducerStation s.tables ≠ some source) (payload : List Byte) :
    s.takeCrs source payload = s.onAxtCounters fun c => { c with source := bump c.source } := if_neg h

theorem takeCrs_own {source : Nat} (h : transducerStation s.tables = some source) (payload : List Byte) :
    s.takeCrs source payload = forEach (List.range (recordCount payload)) (State.takeRecord payload) s := if_pos h

/-! ### Stray crossings (R26, R27) -/

/-- The part with its head crossing discarded as stray (R26, R27). -/
def State.strayed (rest : List Crossing) (carried : Bool) (s : State) : State :=
  { s with axt := { s.axt with
      queue := rest, carried := carried, counters := { s.axt.counters with stray := min 65535 (s.axt.counters.stray + 1) } } }

theorem takeHeadCrossing_closing (h : s.scu.site = .closing) : s.takeHeadCrossing = s := by
  unfold State.takeHeadCrossing
  cases s.axt.queue with
  | nil => rfl
  | cons x rest => exact if_pos h

variable {x : Crossing} {rest : List Crossing}

/-- Outside the start condition a crossing taken in ARMED or CHECKING is stray (R27). -/
theorem takeHeadCrossing_stray (hq : s.axt.queue = x :: rest) (hx : startsPassage x = false)
    (hs : s.scu.site = .armed ∨ s.scu.site = .checking) :
    s.takeHeadCrossing = (s.onAxt fun a => { a with queue := rest }).strayCrossing := by
  unfold State.takeHeadCrossing State.takeCrossing
  rw [hq]
  rcases hs with hs | hs
  · simp [hs, hx]
  · simp [hs, hx]

/-- The carried mark goes as a stray crossing leaves the queue empty in ARMED, and else stands (R26). -/
theorem strayCrossing_eq (rest : List Crossing) : (s.onAxt fun a => { a with queue := rest }).strayCrossing
    = s.strayed rest (if s.scu.site = .armed ∧ rest = [] then false else s.axt.carried) := by
  unfold State.strayCrossing State.strayed
  rw [← bump_eq_min]
  by_cases h : s.scu.site = .armed ∧ rest = []
  · rw [if_pos h]
    refine (if_pos ⟨h.1, ?_⟩).trans rfl
    exact List.isEmpty_iff.mpr h.2
  · rw [if_neg h]
    refine (if_neg fun hc => h ⟨hc.1, ?_⟩).trans rfl
    exact List.isEmpty_iff.mp hc.2

theorem startsPassage_false (h1 : ¬ (x.wt = .wt1 ∧ x.dir = .up)) (h4 : ¬ (x.wt = .wt4 ∧ x.dir = .down)) : startsPassage x = false := by
  rw [← Bool.not_eq_true, startsPassage_iff]
  exact not_or.mpr ⟨h1, h4⟩

theorem exec_crossingTake_stray (hp : s.powered = true) (hq : s.axt.queue = x :: rest) (hx : startsPassage x = false)
    (hs : s.scu.site = .armed ∨ s.scu.site = .checking) : exec (.crossingTake dt) s
      = .next ((s.elapse dt).strayed rest (if s.scu.site = .armed ∧ rest = [] then false else s.axt.carried)) := by
  rw [exec_crossingTake, timed_powered s dt _ hp, takeHeadCrossing_stray (s := s.elapse dt) hq hx hs, strayCrossing_eq]
  rfl

end

/-! ### The statement -/

/-- Settles O47: stray crossings, crossings in CLOSING, CRS frames by source and site state, and the records of a payload. -/
theorem crossingsOutsidePassages : Obligations.CrossingsOutsidePassages := by
  refine ⟨fun s dt x rest hp hq h1 h4 => ?stray, fun s dt hp hs => ?closing, fun s dt bytes f h hk => ⟨fun hsrc => ?foreign,
    fun good bad hsrc hgood hbad => ⟨fun hs => ?offline, fun hs hq => ?offered⟩⟩, fun payload now i x => ⟨rfl, ?record⟩⟩
  case stray =>
    have hx := startsPassage_false h1 h4
    refine ⟨fun hs => ?_, fun hs hr => ?_⟩
    · have hkept : ¬ (s.scu.site = .armed ∧ rest = []) := by
        rintro ⟨ha, hr⟩
        rcases hs with hs | ⟨-, hne⟩
        · rw [hs] at ha
          cases ha
        · exact hne hr
      rw [exec_crossingTake_stray hp hq hx (hs.symm.imp_left And.left), if_neg hkept]
      rfl
    · subst hr
      rw [exec_crossingTake_stray hp hq hx (.inl hs), if_pos ⟨hs, rfl⟩]
      rfl
  case closing => rw [exec_crossingTake, timed_powered s dt _ hp, takeHeadCrossing_closing (s := s.elapse dt) hs]
  case foreign => rw [exec_crs dt h hk, takeCrs_foreign (by rw [tables_heard]; exact hsrc), onAxtCounters_heard, bump_eq_min]
  case offline =>
    have hgood' : good = goodRecords f.payload (s.heard dt f).now (recordCount f.payload) := by rw [hgood, now_heard]; rfl
    rw [exec_crs dt h hk, takeCrs_own (by rw [tables_heard]; exact hsrc), takeRecords_offline (by rw [site_heard]; exact hs), ← hgood',
      ← hbad, onAxtCounters_heard]
    simp only [bumpTimes_eq, List.length_eq_zero_iff]
  case offered =>
    have hgood' : good = goodRecords f.payload (s.heard dt f).now (recordCount f.payload) := by rw [hgood, now_heard]; rfl
    have ho := takeRecords_offered (s := s.heard dt f) (payload := f.payload) (by rw [site_heard]; exact hs) (by rw [axt_heard]; exact hq)
      (recordCount f.payload)
    rw [← hgood', ← hbad] at ho
    obtain ⟨-, -, hqueue, hmalformed, hoverflow, hroom, hcarried, hsuspect⟩ := ho
    rw [axt_heard] at hqueue hmalformed hoverflow hroom hcarried hsuspect
    rw [site_heard] at hcarried hsuspect
    refine ⟨_, (exec_crs dt h hk).trans (congrArg _ (takeCrs_own (by rw [tables_heard]; exact hsrc) _)), hqueue, ?_, ?_, hroom,
      fun hf => ⟨fun hs => ?_, fun hs => ?_, hsuspect hf⟩⟩
    · rw [hmalformed, bumpTimes_eq]
    · simp only [hoverflow, bumpTimes_eq, Nat.sub_eq_zero_iff_le]
    · rw [hcarried hf, hs]
      exact Bool.or_true _
    · rw [hcarried hf, beq_false_of_ne hs, Bool.or_false]
  case record =>
    rw [crossingAt_eq_some_iff, transducerOf_eq_some_iff]
    cases x.dir with
    | up =>
      rw [directionOf_eq_up_iff]
    | down =>
      rw [directionOf_eq_down_iff]

end Sys2Proof.Machine
end

section
/-! PROOFS. O48: what the start of a passage sets up. -/

namespace Sys2Proof.Machine

section
variable {s : State} {x : Crossing} {rest : List Crossing}

/-! ### The crossing that starts a passage (R27, R180) -/

theorem takeHeadCrossing_armed (hq : s.axt.queue = x :: rest) (hs : s.scu.site = .armed) (hx : startsPassage x = true) :
    s.takeHeadCrossing = (s.onAxt fun a => { a with queue := rest }).startPassage x := by
  unfold State.takeHeadCrossing State.takeCrossing
  rw [hq]
  simp [hs, hx]

theorem takeHeadCrossing_checking (hq : s.axt.queue = x :: rest) (hs : s.scu.site = .checking) (hx : startsPassage x = true) :
    s.takeHeadCrossing = ((s.onAxt fun a => { a with queue := rest }).abortCheck .train).startPassage x := by
  unfold State.takeHeadCrossing State.takeCrossing
  rw [hq]
  simp [hs, hx]

/-- The ambient temperature rests on the history of SIN alone (R17). -/
theorem ambient_congr {t : State} (h : t.sin.history = s.sin.history) : t.ambient = s.ambient := by
  unfold State.ambient
  rw [h]

theorem history_abortCheck (r : AbortReason) (s : State) : (s.abortCheck r).sin.history = s.sin.history := by
  simp [State.abortCheck, State.discardPending]

/-- In ARMED, and in CHECKING after the abort of the check, the crossing starts a passage of a part that is otherwise as before (R27, R180). -/
theorem takeHeadCrossing_started (hq : s.axt.queue = x :: rest) (hs : s.scu.site = .armed ∨ s.scu.site = .checking)
    (hx : startsPassage x = true) : ∃ u : State, s.takeHeadCrossing = u.startPassage x ∧ u.axt = { s.axt with queue := rest }
      ∧ u.ambient = s.ambient ∧ u.commit = s.commit ∧ u.tables = s.tables ∧ u.lif = s.lif
      ∧ (s.scu.site = .checking → u.scu.check = .aborted .train ∧ u.raised .checkEnded) := by
  rcases hs with hs | hs
  · refine ⟨_, takeHeadCrossing_armed hq hs hx, rfl, rfl, rfl, rfl, rfl, fun hc => ?_⟩
    rw [hs] at hc
    cases hc
  · exact ⟨_, takeHeadCrossing_checking hq hs hx, axt_abortCheck _ _, ambient_congr (history_abortCheck _ _), commit_abortCheck _ _,
      tables_abortCheck _ _, lif_abortCheck _ _, fun _ => ⟨check_abortCheck _ _, raised_abortCheck_self _ _⟩⟩

/-! ### The passage as it is opened (R28, R30, R31) -/

/-- A passage as its first crossing has passed the filters (R28, R30, R31). -/
structure Passage.Opened (s : State) (x : Crossing) (p : Passage) : Prop extends p.Fresh x where
  number : p.number = s.axt.nextPassage
  startTime : p.startTime = x.time
  axles : p.axles = []
  timeOrder : p.timeOrder = some x.time
  pulse : pulseRecord p x.wt x.dir = some x.time
  suspect : p.flags.suspect = s.axt.carried

theorem passage_opened (x : Crossing) (s : State) : ∃ p, (s.opened x).passage = some p ∧ p.Opened s x := by
  have h : (State.equipmentSince s (s.openPassage x)).passage = some (Passage.begun s.axt.nextPassage x s.axt.carried) :=
    passage_equipmentSince _ _
  unfold State.opened
  rw [countLate_eq]
  simp only [State.passFilters, State.noteOrder, State.onPassageCounters, passage_onPassage, h, Option.map_some]
  exact ⟨_, rfl, ⟨rfl, rfl, rfl⟩, rfl, rfl, rfl, rfl, pulseRecord_setPulseRecord_self _ _ _ _, rfl⟩

/-- Of the blocks the opening of a passage changes AXT, the alarm list and the passage context (R28, R135). -/
theorem opened_frame (x : Crossing) (s : State) : (s.opened x).axt = { s.axt with nextPassage := numberAfter s.axt.nextPassage, carried := false }
    ∧ (s.opened x).aou.alarms = { AlarmList.reset with passage := some s.axt.nextPassage } ∧ (s.opened x).scu = s.scu
    ∧ (s.opened x).sin = s.sin ∧ (s.opened x).tables = s.tables ∧ (s.opened x).commit = s.commit := by
  unfold State.opened
  rw [countLate_eq]
  simp [State.passFilters, State.noteOrder, State.onPassageCounters, State.openPassage]

theorem raised_opened {k : EventKind} (h : s.raised k) : (s.opened x).raised k := by
  have hrps : (s.opened x).rps = (State.equipmentSince s (s.openPassage x)).rps := by
    unfold State.opened
    rw [countLate_eq]
    simp only [State.passFilters, State.noteOrder, State.onPassageCounters, rps_onPassage]
  exact raised_congr hrps (raised_equipmentSince (raised_congr (s := s) rfl h))

/-! ### The first axle (R33, R36) -/

/-- The part as the first crossing of a passage has entered its first axle (R33, R36). -/
def State.entered1 (x : Crossing) (s : State) : State := ((s.opened x).count (.entered 1) 1).onPassage (createAxle 1 x)

theorem applyCrossing_opened (hx : startsPassage x = true) (s : State) : (s.opened x).applyCrossing x = s.entered1 x := by
  obtain ⟨p, hp, hfresh⟩ := fresh_opened x s
  rw [applyCrossing_entered hp (crossingRule_fresh hfresh hx), hfresh.dir, entryPlace_of_startsPassage hx]
  rfl

/-- The passage as its first axle has been entered (R33, R36). -/
def Passage.withFirst (x : Crossing) (p : Passage) : Passage := createAxle 1 x (countCrossing (.entered 1) 1 p)

theorem passage_entered1 {p : Passage} (hp : (s.opened x).passage = some p) : (s.entered1 x).passage = some (p.withFirst x) := by
  unfold State.entered1 State.count
  rw [passage_onPassage, passage_onAxt, passage_onPassage, hp]
  rfl

theorem axt_entered1 (x : Crossing) (s : State) : (s.entered1 x).axt = { (s.opened x).axt with countsFresh := true } := by
  unfold State.entered1 State.count
  rw [axt_onPassage, axt_onAxt, axt_onPassage]

/-- The first axle changes the passage context and AXT alone (R33, R36). -/
theorem entered1_keeps {α : Type} (g : State → α) (hp : ∀ (t : State) f, g (t.onPassage f) = g t) (ha : ∀ (t : State) f, g (t.onAxt f) = g t)
    (x : Crossing) (s : State) : g (s.entered1 x) = g (s.opened x) := by
  unfold State.entered1 State.count
  rw [hp, ha, hp]

theorem scu_entered1 (x : Crossing) (s : State) : (s.entered1 x).scu = (s.opened x).scu := entered1_keeps State.scu scu_onPassage scu_onAxt x s

theorem lif_entered1 (x : Crossing) (s : State) : (s.entered1 x).lif = (s.opened x).lif := entered1_keeps State.lif lif_onPassage lif_onAxt x s

theorem rps_entered1 (x : Crossing) (s : State) : (s.entered1 x).rps = (s.opened x).rps := entered1_keeps State.rps rps_onPassage rps_onAxt x s

/-! ### The slot asked for (R28, R117, R120, R122, R176) -/

/-- SCU in a passage that has started: PASSAGE, with the loss timer running where the loop is not LOCKED (R169, R176). -/
def Scu.passing (locked : Bool) (u : Scu) : Scu :=
  { u with site := .passage, siteFresh := true, loss := if locked then u.loss else some 10000000 }

theorem scu_lossAtStart (s : State) : ((s.changeSite .passage).lossAtStart).scu = s.scu.passing s.lif.locked := by
  unfold State.lossAtStart Scu.passing
  rw [lif_changeSite]
  cases h : s.lif.locked with
  | true => rfl
  | false => rfl

/-- The loss timer is SCU's alone (R176). -/
theorem lossAtStart_keeps {α : Type} (g : State → α) (hg : ∀ (t : State) f, g (t.onScu f) = g t) (t : State) : g t.lossAtStart = g t := by
  unfold State.lossAtStart State.startLoss
  split
  · rfl
  · split
    · exact hg _ _
    · rfl

/-- The entry into PASSAGE, the loss timer and the marks of a new passage change SCU, RPS and the passage context alone (R120, R122, R169, R176). -/
theorem marked_keeps {α : Type} (g : State → α) (hp : ∀ (t : State) f, g (t.onPassage f) = g t) (hs : ∀ (t : State) f, g (t.onScu f) = g t)
    (hc : ∀ (t : State) y, g (t.changeSite y) = g t) (t : State) : g ((t.changeSite .passage).lossAtStart.markPassage) = g t := by
  rw [State.markPassage, hp, lossAtStart_keeps g hs, hc]

theorem started_eq (hx : startsPassage x = true) (s : State) :
    s.started x = ((((s.entered1 x).changeSite .passage).lossAtStart).markPassage).openShutters := by
  rw [State.started, applyCrossing_opened hx]

theorem passage_started (hx : startsPassage x = true) {p : Passage} (hp : (s.opened x).passage = some p) :
    ∃ b c, (s.started x).passage = some { p.withFirst x with
      ambient := s.ambient, notOpen := b, flags := { (p.withFirst x).flags with notReady := c } } := by
  obtain ⟨-, -, -, hsin, -, -⟩ := opened_frame x s
  have hambient : ((s.entered1 x).changeSite .passage).lossAtStart.ambient = s.ambient := by
    refine ambient_congr ?_
    rw [lossAtStart_keeps State.sin sin_onScu, sin_changeSite, entered1_keeps State.sin sin_onPassage sin_onAxt, hsin]
  have hpassage : ((s.entered1 x).changeSite .passage).lossAtStart.passage = some (p.withFirst x) := by
    rw [lossAtStart_keeps State.passage passage_onScu, passage_changeSite, passage_entered1 hp]
  rw [started_eq hx, passage_openShutters, State.markPassage, passage_onPassage, hpassage, hambient]
  exact ⟨_, _, rfl⟩

theorem started_frame (hx : startsPassage x = true) (s : State) :
    (s.started x).axt = { s.axt with nextPassage := numberAfter s.axt.nextPassage, carried := false, countsFresh := true }
      ∧ (s.started x).aou.alarms = { AlarmList.reset with passage := some s.axt.nextPassage }
      ∧ (s.started x).scu = s.scu.passing s.lif.locked ∧ (s.started x).brg.shutter = .opened
      ∧ (s.started x).tables = s.tables ∧ (s.started x).commit = s.commit := by
  obtain ⟨haxt, halarms, hscu, -, htables, hcommit⟩ := opened_frame x s
  rw [started_eq hx, axt_openShutters, alarms_openShutters, scu_openShutters, tables_openShutters, commit_openShutters]
  refine ⟨?_, ?_, ?_, shutter_openShutters _, ?_, ?_⟩
  · rw [marked_keeps State.axt axt_onPassage axt_onScu axt_changeSite, axt_entered1, haxt]
  · rw [marked_keeps State.aou aou_onPassage aou_onScu aou_changeSite, entered1_keeps State.aou aou_onPassage aou_onAxt, halarms]
  · rw [State.markPassage, scu_onPassage, scu_lossAtStart, scu_entered1, lif_entered1, hscu, (starting_opened x s).lif]
  · rw [marked_keeps State.tables tables_onPassage tables_onScu tables_changeSite, entered1_keeps State.tables tables_onPassage tables_onAxt,
      htables]
  · rw [marked_keeps State.commit commit_onPassage commit_onScu commit_changeSite, entered1_keeps State.commit commit_onPassage commit_onAxt,
      hcommit]

theorem rps_marked (t : State) : (t.lossAtStart.markPassage).rps = t.rps := by
  rw [State.markPassage, rps_onPassage, lossAtStart_keeps State.rps rps_onScu]

theorem raised_started (hx : startsPassage x = true) {k : EventKind} (h : s.raised k) : (s.started x).raised k := by
  rw [started_eq hx]
  exact raised_openShutters (raised_congr (rps_marked _) (raised_changeSite _ (raised_congr (rps_entered1 x s) (raised_opened h))))

theorem raised_started_self (hx : startsPassage x = true) (s : State) : (s.started x).raised .stateChanged := by
  rw [started_eq hx]
  exact raised_openShutters (raised_congr (rps_marked _) (raised_changeSite_self _ _))

/-! ### The slot given (R151 to R153) -/

/-- The giving of a slot changes RPS, LIF and the slot that the passage notes alone (R151 to R153). -/
theorem takeSlot_keeps {α : Type} (g : State → α) (hrps : ∀ (t : State) f, g (t.onRps f) = g t) (hlif : ∀ (t : State) f, g (t.onLif f) = g t)
    (hslot : ∀ (t : State) n, g (t.noteSlot n) = g t) (number : Nat) (t : State) : g (t.takeSlot number) = g t := by
  cases h : t.rps.choose with
  | fresh n => rw [takeSlot_fresh h, hslot, hrps, State.raise, hrps]
  | takeover n => rw [takeSlot_takeover h, State.raise, hrps, hslot, hlif, hrps, State.raise, hrps]
  | noSlot => rw [takeSlot_noSlot h, State.raise, hrps, hslot, State.raise, hrps]

theorem raised_takeSlot {k : EventKind} (h : s.raised k) (number : Nat) : (s.takeSlot number).raised k := by
  have hstarted : (s.raise .passageStarted).raised k := raised_raise _ h
  cases hc : s.rps.choose with
  | fresh n =>
    rw [takeSlot_fresh hc]
    exact raised_of_kinds hstarted rfl rfl
  | takeover n =>
    rw [takeSlot_takeover hc]
    exact raised_raise _ (raised_of_kinds hstarted rfl rfl)
  | noSlot =>
    rw [takeSlot_noSlot hc]
    exact raised_raise _ (raised_congr (s := s.raise .passageStarted) rfl hstarted)

/-! ### The start as a whole (R27, R28) -/

theorem raised_startPassage (hx : startsPassage x = true) {k : EventKind} (h : s.raised k) : (s.startPassage x).raised k :=
  raised_congr (startPassage_rps x s) (raised_takeSlot (raised_started hx h) _)

theorem raised_startPassage_self (hx : startsPassage x = true) (s : State) :
    (s.startPassage x).raised .stateChanged ∧ (s.startPassage x).raised .passageStarted :=
  ⟨raised_congr (startPassage_rps x s) (raised_takeSlot (raised_started_self hx s) _),
    raised_congr (startPassage_rps x s) (raised_takeSlot_passageStarted _ _)⟩

theorem startPassage_frame (hx : startsPassage x = true) (s : State) :
    (s.startPassage x).axt = { s.axt with nextPassage := numberAfter s.axt.nextPassage, carried := false, countsFresh := true }
      ∧ (s.startPassage x).aou.alarms = { AlarmList.reset with passage := some s.axt.nextPassage }
      ∧ (s.startPassage x).scu = s.scu.passing s.lif.locked ∧ (s.startPassage x).brg.shutter = .opened
      ∧ (s.startPassage x).tables = s.tables ∧ (s.startPassage x).commit = s.commit := by
  obtain ⟨haxt, halarms, hscu, hshutter, htables, hcommit⟩ := started_frame hx s
  rw [startPassage_eq, axt_judgeLines, alarms_judgeLines, scu_judgeLines, brg_judgeLines, tables_judgeLines, commit_judgeLines]
  exact ⟨(takeSlot_keeps State.axt (fun _ _ => rfl) (fun _ _ => rfl) (fun _ _ => rfl) _ _).trans haxt,
    (takeSlot_keeps (·.aou.alarms) (fun _ _ => rfl) (fun _ _ => rfl) (fun _ _ => rfl) _ _).trans halarms,
    (takeSlot_keeps State.scu (fun _ _ => rfl) (fun _ _ => rfl) (fun _ _ => rfl) _ _).trans hscu,
    (takeSlot_keeps (·.brg.shutter) (fun _ _ => rfl) (fun _ _ => rfl) (fun _ _ => rfl) _ _).trans hshutter,
    (takeSlot_keeps State.tables (fun _ _ => rfl) (fun _ _ => rfl) (fun _ _ => rfl) _ _).trans htables,
    (takeSlot_keeps State.commit (fun _ _ => rfl) (fun _ _ => rfl) (fun _ _ => rfl) _ _).trans hcommit⟩

/-- The passage context of a passage that has started (R28, R33, R36, R43, R44, R122). -/
theorem startPassage_context (hx : startsPassage x = true) (s : State) : ∃ p, (s.startPassage x).passage = some p
    ∧ p.number = s.axt.nextPassage ∧ p.startTime = x.time ∧ p.dir = x.dir ∧ p.counts = ⟨1, 0, 0, 0⟩ ∧ p.total = 1 ∧ p.axles.length = 1
    ∧ p.timeOrder = some x.time ∧ pulseRecord p x.wt x.dir = some x.time ∧ p.standing = some s.standingTime ∧ p.clear = none
    ∧ p.ambient = s.ambient ∧ p.flags.suspect = s.axt.carried := by
  obtain ⟨p, hp, ho⟩ := passage_opened x s
  obtain ⟨b, c, hstarted⟩ := passage_started hx hp
  have hcounts : (p.withFirst x).counts = ⟨1, 0, 0, 0⟩ := by
    show p.counts.put 1 (p.counts.at 1 + 1) = _
    rw [ho.counts]
    rfl
  rw [startPassage_eq, passage_judgeLines, passage_onPassage, passage_takeSlot, hstarted]
  refine ⟨_, rfl, ho.number, ho.startTime, ho.dir, hcounts, rfl, ?_, ho.timeOrder, ho.pulse, ?_, ?_, rfl, ho.suspect⟩
  · show (p.axles ++ [AxleRecord.created 1 x]).length = 1
    rw [ho.axles]
    rfl
  · simp only [endTimers, hcounts]
    rfl
  · simp only [endTimers, hcounts]
    rfl

end

/-! ### The statement -/

/-- Settles O48: the start from ARMED, and from CHECKING after the abort of its check, by what the start of a passage sets up. -/
theorem startCrossingsStartPassages : Obligations.StartCrossingsStartPassages := by
  intro s dt x rest hp hq hs hx
  have hx' := startsPassage_iff.mpr hx
  have hrow (t : State) (h : (s.elapse dt).takeHeadCrossing = t) : exec (.crossingTake dt) s = .next t := by
    rw [exec_crossingTake, timed_powered s dt _ hp, h]
  obtain ⟨u, htaken, haxt, hambient, hcommit, htables, hlif, hcheck⟩ := takeHeadCrossing_started (s := s.elapse dt) hq hs hx'
  obtain ⟨taxt, talarms, tscu, tshutter, ttables, tcommit⟩ := startPassage_frame hx' u
  obtain ⟨hchanged, hstarted⟩ := raised_startPassage_self hx' u
  obtain ⟨p, hpassage, hnumber, htime, hdir, hcounts, htotal, haxles, horder, hpulse, hstanding, hclear, hamb, hsuspect⟩ :=
    startPassage_context hx' u
  have hinUse : u.standingTime = s.standingTime := by
    unfold State.standingTime State.inUse
    rw [hcommit]
    rfl
  rw [haxt] at taxt talarms hnumber hsuspect
  refine ⟨_, p, hrow _ htaken, hpassage, congrArg Scu.site tscu, hchanged, hstarted, congrArg Axt.queue taxt, congrArg Axt.carried taxt,
    congrArg Axt.nextPassage taxt, hnumber, htime, hdir, hcounts, htotal, haxles, horder, hpulse, hstanding.trans (congrArg some hinUse), hclear,
    hamb.trans hambient, hsuspect, talarms, tshutter, fun hc => ⟨(congrArg Scu.check tscu).trans (hcheck hc).1, raised_startPassage hx' (hcheck hc).2⟩,
    fun hl => ?_, ttables.trans htables, tcommit.trans hcommit⟩
  rw [tscu, hlif, lif_elapse, Scu.passing, locked_tickLif, hl]
  rfl

end Sys2Proof.Machine
end

section
/-! PROOFS. O8: every row changes the registers of its own kind alone. -/

namespace Sys2Proof.Machine

/-! ### The registers -/

/-- The committed tables, event mask, auto-arm flag, next passage number, reports with their summaries, and alarm list. -/
structure Registers where
  commit : Commit
  mask : BitVec 13
  autoArm : Bool
  nextPassage : Nat
  slots : List Slot
  ring : List Summary
  sealCount : Nat
  alarms : AlarmList

/-- The registers that a part shows. -/
def State.registers (s : State) : Registers :=
  ⟨s.commit, s.rps.mask, s.scu.autoArm, s.axt.nextPassage, s.rps.slots, s.rps.ring, s.rps.sealCount, s.aou.alarms⟩

section
variable {s t : State}

/-! ### Changes of single blocks -/

@[simp] theorem registers_elapse (s : State) (dt : Nat) : (s.elapse dt).registers = s.registers := rfl
@[simp] theorem registers_onLif (s : State) (f : Lif → Lif) : (s.onLif f).registers = s.registers := rfl
@[simp] theorem registers_onSin (s : State) (f : Sin → Sin) : (s.onSin f).registers = s.registers := rfl
@[simp] theorem registers_onNode (s : State) (n : Nat) (f : NodeState → NodeState) : (s.onNode n f).registers = s.registers := rfl
@[simp] theorem registers_onChannel (s : State) (c : Nat) (f : ChannelState → ChannelState) : (s.onChannel c f).registers = s.registers := rfl
@[simp] theorem registers_onPassage (s : State) (f : Passage → Passage) : (s.onPassage f).registers = s.registers := rfl
@[simp] theorem registers_onBrg (s : State) (f : Brg → Brg) : (s.onBrg f).registers = s.registers := rfl
@[simp] theorem registers_onLine (s : State) (l : Line) (f : LineState → LineState) : (s.onLine l f).registers = s.registers := rfl
@[simp] theorem registers_raise (s : State) (k : EventKind) : (s.raise k).registers = s.registers := rfl

theorem registers_onScu (s : State) {f : Scu → Scu} (h : (f s.scu).autoArm = s.scu.autoArm := by rfl) : (s.onScu f).registers = s.registers :=
  congrArg (fun a => { s.registers with autoArm := a }) h

theorem registers_onAxt (s : State) {f : Axt → Axt} (h : (f s.axt).nextPassage = s.axt.nextPassage := by rfl) :
    (s.onAxt f).registers = s.registers :=
  congrArg (fun a => { s.registers with nextPassage := a }) h

theorem registers_onAou (s : State) {f : Aou → Aou} (h : (f s.aou).alarms = s.aou.alarms := by rfl) : (s.onAou f).registers = s.registers :=
  congrArg (fun a => { s.registers with alarms := a }) h

/-- What a raise leaves of RPS decides its registers. -/
theorem registers_congr (hc : t.commit = s.commit) (hr : t.rps.told = s.rps.told) (ha : t.scu.autoArm = s.scu.autoArm)
    (hn : t.axt.nextPassage = s.axt.nextPassage) (hl : t.aou.alarms = s.aou.alarms) : t.registers = s.registers := by
  obtain ⟨hslots, hring, hcount, -⟩ := reports_of_told hr
  unfold State.registers
  rw [hc, mask_of_told hr, ha, hn, hslots, hring, hcount, hl]

/-! ### Lines and equipment (R140, R142) -/

@[simp] theorem registers_judgeLine (s : State) (l : Line) : (s.judgeLine l).registers = s.registers := rfl

@[simp] theorem registers_judgeLines (s : State) : s.judgeLines.registers = s.registers :=
  forEach_keeps State.registers (fun l t => registers_judgeLine t l) _ s

@[simp] theorem registers_equipmentChanged (s : State) : s.equipmentChanged.registers = s.registers := registers_judgeLines _

@[simp] theorem registers_equipmentSince (b s : State) : (State.equipmentSince b s).registers = s.registers := by
  unfold State.equipmentSince
  split
  · exact registers_equipmentChanged s
  · rfl

@[simp] theorem registers_pulseLine (s : State) (w : Nat) (l : Line) : (s.pulseLine w l).registers = s.registers := by
  unfold State.pulseLine
  dsimp only
  split <;> rfl

@[simp] theorem registers_pulseLines (s : State) (w : Nat) : (s.pulseLines w).registers = s.registers :=
  forEach_keeps State.registers (fun l t => registers_pulseLine t w l) _ s

@[simp] theorem registers_holdLines (s : State) : s.holdLines.registers = s.registers :=
  holdLines_keeps State.registers (fun t l f => registers_onLine t l f) s

@[simp] theorem registers_clearOutputs (s : State) : s.clearOutputs.registers = s.registers := registers_judgeLines _

@[simp] theorem registers_testLines (s : State) (x : List (Option Bool)) : (s.testLines x).registers = s.registers := by
  unfold State.testLines
  rw [registers_judgeLines]
  exact forEach_keeps State.registers (fun l t => registers_onLine t l _) _ s

/-! ### The shutters (R117 to R119) -/

@[simp] theorem registers_withBrg (s : State) (f : Brg → Brg) : (s.withBrg f).registers = s.registers := by
  unfold State.withBrg
  dsimp only
  split <;> simp

@[simp] theorem registers_openShutters (s : State) : s.openShutters.registers = s.registers := by
  unfold State.openShutters
  split <;> simp

@[simp] theorem registers_closeShutters (s : State) : s.closeShutters.registers = s.registers := by
  unfold State.closeShutters
  split <;> simp

@[simp] theorem registers_closeWaitApproach (s : State) : s.closeWaitApproach.registers = s.registers := by
  unfold State.closeWaitApproach
  split <;> simp

/-! ### Changes of the site state (R169) -/

@[simp] theorem registers_changeSite (s : State) (y : SiteState) : (s.changeSite y).registers = s.registers := rfl

@[simp] theorem registers_discardPending (s : State) : s.discardPending.registers = s.registers := rfl

@[simp] theorem registers_enterArmed (s : State) : s.enterArmed.registers = s.registers :=
  registers_congr (commit_enterArmed s) (told_enterArmed s) (by rw [scu_enterArmed]; rfl) (by rw [axt_enterArmed]) (alarms_enterArmed s)

@[simp] theorem registers_enterChecking (s : State) (n : Nat) : (s.enterChecking n).registers = s.registers := by
  unfold State.enterChecking
  rw [registers_judgeLines, registers_closeShutters, registers_discardPending, registers_onScu, registers_changeSite]

@[simp] theorem registers_enterOffline (s : State) : s.enterOffline.registers = s.registers :=
  registers_congr (commit_enterOffline s) (told_enterOffline s) (by rw [scu_enterOffline]; rfl) (by rw [axt_enterOffline]; rfl)
    (alarms_enterOffline s)

@[simp] theorem registers_abortCheck (s : State) (r : AbortReason) : (s.abortCheck r).registers = s.registers := rfl

@[simp] theorem registers_startInterval (s : State) : s.startInterval.registers = s.registers := rfl

@[simp] theorem registers_endChannels (s : State) : s.endChannels.registers = s.registers := registers_equipmentSince s _

@[simp] theorem registers_endCheck (s : State) : s.endCheck.registers = s.registers := by
  unfold State.endCheck
  rw [registers_enterArmed, registers_startInterval, registers_raise, registers_onScu, registers_endChannels]

@[simp] theorem registers_endSettle (s : State) : s.endSettle.registers = s.registers := by
  unfold State.endSettle
  split
  · simp
  · split
    · rfl
    · simp

@[simp] theorem registers_intervalEnd (s : State) : s.intervalEnd.registers = s.registers := by
  unfold State.intervalEnd
  dsimp only
  split
  · exact registers_enterChecking _ 0
  · rfl

@[simp] theorem registers_startLoss (s : State) : s.startLoss.registers = s.registers := by
  unfold State.startLoss
  split <;> rfl

@[simp] theorem registers_endPassage (s : State) (d : Disposition) : (s.endPassage d).registers = s.registers := registers_judgeLines _

@[simp] theorem registers_clearHoldEnd (s : State) : s.clearHoldEnd.registers = s.registers := by
  unfold State.clearHoldEnd
  split
  · split
    · exact registers_endPassage s _
    · rfl
  · rfl

/-! ### The loop (R187 to R192, R198) -/

@[simp] theorem registers_transmit (s : State) : s.transmit.registers = s.registers := by simp [State.registers]

@[simp] theorem registers_handOwn (s : State) (f : OwnFrame) : (s.handOwn f).registers = s.registers := registers_transmit _

@[simp] theorem registers_forwardFrame (s : State) (l : List Byte) : (s.forwardFrame l).registers = s.registers := by
  unfold State.forwardFrame
  split
  · exact registers_transmit _
  · rfl

@[simp] theorem registers_answer (s : State) (c : Nat) (g : Byte) (a : AnswerCode) (d : List Byte) :
    (s.answer c g a d).registers = s.registers := by simp [State.registers]

@[simp] theorem registers_reply (s : State) (c : Nat) (g : Byte) (a : AnswerCode) : (s.reply c g a).registers = s.registers :=
  registers_answer s c g a []

@[simp] theorem registers_answerProgress (s : State) (c : Nat) (a : AnswerCode) (d : List Byte) :
    (s.answerProgress c a d).registers = s.registers := by simp [State.registers]

@[simp] theorem registers_answerBusy (s : State) (c : Nat) (g : Byte) : (s.answerBusy c g).registers = s.registers := by
  simp [State.registers]

@[simp] theorem registers_drain (s : State) : s.drain.registers = s.registers := by simp [State.registers]

@[simp] theorem registers_holdCommand (s : State) (g : Byte) (j : Job) : (s.holdCommand g j).registers = s.registers := rfl

@[simp] theorem registers_endSending (s : State) : s.endSending.registers = s.registers := by
  unfold State.endSending
  split
  · simp
  · rfl

@[simp] theorem registers_timDue (s : State) : s.timDue.registers = s.registers := by
  unfold State.timDue
  split
  · simp
  · rfl

@[simp] theorem registers_formEvt (s : State) : s.formEvt.registers = s.registers := by
  unfold State.formEvt
  dsimp only
  split
  · rfl
  · exact registers_handOwn _ _

@[simp] theorem registers_nextEvt (s : State) : s.nextEvt.registers = s.registers := by
  unfold State.nextEvt
  split
  · exact registers_formEvt s
  · rfl

@[simp] theorem registers_loseLoop (s : State) : s.loseLoop.registers = s.registers := by
  unfold State.loseLoop
  dsimp only
  split <;> simp

@[simp] theorem registers_loseController (s : State) : s.loseController.registers = s.registers := registers_judgeLines _

@[simp] theorem registers_lockLoop (s : State) : s.lockLoop.registers = s.registers := by
  unfold State.lockLoop
  dsimp only
  split
  · rw [registers_raise, registers_equipmentChanged, registers_transmit, registers_onScu, registers_onLif]
  · rw [registers_transmit, registers_onScu, registers_onLif]

@[simp] theorem registers_hearController (s : State) : s.hearController.registers = s.registers := by
  unfold State.hearController
  split
  · simp
  · split <;> rfl

@[simp] theorem registers_offerCommand (s : State) (c : Cmd) : (s.offerCommand c).registers = s.registers := by
  unfold State.offerCommand
  split
  · simp
  · exact registers_answerBusy s c.code c.tag

@[simp] theorem registers_takeCmd (s : State) (n : Nat) (l : List Byte) : (s.takeCmd n l).registers = s.registers := by
  unfold State.takeCmd
  dsimp only
  split
  · split
    · exact registers_hearController s
    · simp
  · rfl

/-! ### Nodes, shutter faults, tables and the store -/

@[simp] theorem registers_takeNst (s : State) (n : Nat) : (s.takeNst n).registers = s.registers := by
  unfold State.takeNst
  split
  · rfl
  · split
    · rfl
    · split <;> simp

@[simp] theorem registers_takeConversion (s : State) (c : Converted) : (s.takeConversion c).registers = s.registers := by
  have hraised (t : State) (ht : t.registers = s.registers) :
      (if t.sin.ambientFault = s.sin.ambientFault then t else t.equipmentChanged).registers = s.registers := by
    split
    · exact ht
    · exact (registers_equipmentChanged t).trans ht
  unfold State.takeConversion
  refine hraised _ ?_
  split <;> rfl

@[simp] theorem registers_endGate (s : State) : s.endGate.registers = s.registers := by
  unfold State.endGate
  rw [registers_onSin]
  split
  · exact registers_takeConversion s _
  · rfl

@[simp] theorem registers_openTimerExpired (s : State) (r : Rail) : (s.openTimerExpired r).registers = s.registers := by
  unfold State.openTimerExpired
  dsimp only
  split <;> simp

@[simp] theorem registers_closeTimerFault (s : State) (r : Rail) : (s.closeTimerFault r).registers = s.registers :=
  registers_equipmentChanged _

@[simp] theorem registers_approachAsserted (s : State) : s.approachAsserted.registers = s.registers := by
  unfold State.approachAsserted
  split
  · exact registers_openShutters s
  · exact registers_openShutters s
  · split <;> simp
  · rfl
  · rfl

@[simp] theorem registers_approachReleased (s : State) : s.approachReleased.registers = s.registers := by
  unfold State.approachReleased
  split
  · exact registers_closeWaitApproach s
  · rfl
  · rfl
  · rfl
  · rfl

@[simp] theorem registers_readbackExpired (s : State) (l : Line) : (s.readbackExpired l).registers = s.registers :=
  registers_equipmentChanged _

@[simp] theorem registers_write (s : State) (table first count : Nat) (t : Tables) : (s.write table first count t).registers = s.registers :=
  write_keeps State.registers (fun u b => registers_equipmentSince b u) registers_judgeLines s table first count t

@[simp] theorem registers_takeMark (s : State) : s.takeMark.registers = s.registers := by
  unfold State.takeMark
  split
  · rfl
  · split
    · rfl
    · exact registers_pulseLines _ _

@[simp] theorem registers_clearFresh (s : State) : s.clearFresh.registers = s.registers := rfl

/-! ### Rows of the registers (R192; notes/assumptions/1.md, 3.md) -/

section
variable {β : Type} (k : Registers → β) {f : State → State} {dt : Nat}

/-- A timed row leaves of the registers what its action leaves. -/
theorem timed_registers (h : timed dt f s = .next t) (hf : ∀ u : State, k (f u).registers = k u.registers) :
    k t.registers = k s.registers := by
  unfold timed at h
  split at h
  · cases h
    exact hf _
  · cases h
    rfl

theorem whenever_registers (b : Bool) {u : State} (hf : k (f u).registers = k u.registers) :
    k (whenever b f u).registers = k u.registers := by
  cases b with
  | true => exact hf
  | false => rfl

/-- The row of an input leaves of the registers what its action leaves. -/
theorem pinRow_registers {c : State → Bool} {p : Pins → Pins} (h : pinRow dt c f p s = .next t)
    (hf : ∀ u : State, k (f u).registers = k u.registers) : k t.registers = k s.registers := by
  unfold pinRow at h
  split at h
  · cases h
    exact whenever_registers k _ (hf _)
  · cases h
    rfl

theorem registers_takeCommand {c : Nat} {g : Byte} {a : List Byte} (h : s.takeCommand c g a = some t) : t.registers = s.registers := by
  unfold State.takeCommand at h
  split at h
  · split at h
    · cases h
      rfl
    · split at h
      · cases h
        rfl
      · cases h
  · cases h

theorem command_registers {c : Nat} {g : Byte} {a : List Byte} (hf : ∀ u : State, k (f u).registers = k u.registers) (u : State) :
    k (command c g a f u).registers = k u.registers := by
  unfold command
  split
  case h_1 v hv => rw [registers_drain, hf, registers_takeCommand hv]
  case h_2 => rfl

theorem plainCommand_registers {c : Nat} {g : Byte} {a : List Byte} (hf : ∀ u : State, k (f u).registers = k u.registers) (u : State) :
    k (plainCommand c g a f u).registers = k u.registers := by
  unfold plainCommand
  split
  · rw [registers_reply]
  · split
    · exact hf u
    · rw [registers_reply]

theorem argCommand_registers {α : Type} {c : Nat} {g : Byte} {form : Field α} {a : List Byte} {e : α → State → State}
    (hf : ∀ x u, k (e x u).registers = k u.registers) (u : State) : k (argCommand c g form a e u).registers = k u.registers := by
  unfold argCommand
  split
  · rw [registers_reply]
  · split
    · exact hf _ u
    · rw [registers_reply]

end

/-! ### Commands that leave the registers (R192) -/

section
variable (g : Byte) (a : List Byte) (s : State)

theorem registers_readIdentity : (readIdentity g a s).registers = s.registers :=
  plainCommand_registers id (fun u => registers_answer u _ _ _ _) s

theorem registers_readStatus : (readStatus g a s).registers = s.registers := by
  refine argCommand_registers id (fun x u => ?_) s
  split <;> simp

theorem registers_readLive : (readLive g a s).registers = s.registers :=
  plainCommand_registers id (fun u => registers_answer u.clearFresh _ _ _ _) s

theorem registers_writeTable : (writeTable g a s).registers = s.registers := by
  unfold writeTable
  dsimp only
  split <;> simp

theorem registers_readTable : (readTable g a s).registers = s.registers := by
  refine argCommand_registers id (fun x u => ?_) s
  split
  · simp
  · split <;> simp

theorem registers_stop : (stop g a s).registers = s.registers := by
  refine plainCommand_registers id (fun u => ?_) s
  split <;> simp

theorem registers_runCheck : (runCheck g a s).registers = s.registers := plainCommand_registers id (fun u => by simp) s

theorem registers_forceClose : (forceClose g a s).registers = s.registers := plainCommand_registers id (fun u => by simp) s

theorem registers_readAlarms : (readAlarms g a s).registers = s.registers := by
  refine argCommand_registers id (fun x u => ?_) s
  split <;> simp

theorem registers_readSummaries : (readSummaries g a s).registers = s.registers := plainCommand_registers id (fun u => by simp) s

theorem registers_ackEvents : (ackEvents g a s).registers = s.registers :=
  argCommand_registers id (fun x u => registers_answer (u.onRps (Rps.acknowledge x)) _ _ _ _) s

theorem registers_clearOutputsCommand : (clearOutputs g a s).registers = s.registers := plainCommand_registers id (fun u => by simp) s

theorem registers_testOutputs : (testOutputs g a s).registers = s.registers := argCommand_registers id (fun x u => by simp) s

theorem registers_storeTables : (storeTables g a s).registers = s.registers := by
  refine argCommand_registers id (fun x u => ?_) s
  rfl

theorem registers_changeStation (n : Nat) : (s.changeStation g n).registers = s.registers := by
  unfold State.changeStation
  split
  · exact registers_handOwn s _
  · rfl

theorem registers_setStation : (setStation g a s).registers = s.registers := by
  refine argCommand_registers id (fun x u => ?_) s
  split
  · simp
  · exact registers_changeStation g _ x.1

end

/-! ### Registers without the reports: READ_REPORT, RELEASE_REPORT and report reads (R160 to R162) -/

/-- The registers with the reports left out. -/
def Registers.unreported (r : Registers) : Registers := { r with slots := [], ring := [], sealCount := 0 }

theorem unreported_onRps (s : State) {f : Rps → Rps} (h : (f s.rps).mask = s.rps.mask) :
    (s.onRps f).registers.unreported = s.registers.unreported :=
  congrArg (fun m => { s.registers.unreported with mask := m }) h

theorem mask_onReport (n : Nat) (f : Report → Report) (r : Rps) : (r.onReport n f).mask = r.mask := by
  unfold Rps.onReport
  split <;> rfl

theorem unreported_endRead (j : ReadJob) (s : State) : (s.endRead j).registers.unreported = s.registers.unreported := by
  unfold State.endRead
  split
  · rw [registers_answerProgress]
  · rw [registers_answerProgress, unreported_onRps s (mask_onReport _ _ _)]

theorem unreported_sendRpt (j : ReadJob) (s : State) : (s.sendRpt j).registers.unreported = s.registers.unreported := by
  unfold State.sendRpt
  split
  · exact unreported_endRead j s
  · split
    · rw [registers_onLif, registers_handOwn]
    · exact unreported_endRead _ s
    · exact unreported_endRead _ s

theorem unreported_nextRpt (s : State) : s.nextRpt.registers.unreported = s.registers.unreported := by
  unfold State.nextRpt
  split
  · rw [registers_drain, unreported_sendRpt]
  · rfl

theorem unreported_beginRead (g : Byte) (x : ReadArgs) (r : Report) (s : State) :
    (s.beginRead g x r).registers.unreported = s.registers.unreported := by
  unfold State.beginRead
  dsimp only
  split
  · rw [registers_answer, unreported_onRps s (mask_onReport _ _ _)]
  · split <;> rfl

theorem unreported_readReport (g : Byte) (a : List Byte) (s : State) :
    (readReport g a s).registers.unreported = s.registers.unreported := by
  refine argCommand_registers Registers.unreported (fun x u => ?_) s
  split
  · split
    · rw [registers_reply]
    · rw [registers_reply]
    · exact unreported_beginRead g x _ u
  · rw [registers_reply]

theorem unreported_releaseReport (g : Byte) (a : List Byte) (s : State) :
    (releaseReport g a s).registers.unreported = s.registers.unreported := by
  refine argCommand_registers Registers.unreported (fun x u => ?_) s
  split
  · rw [registers_reply]
  · split
    · rw [registers_reply]
    · rw [registers_reply]
    · split
      · rw [registers_reply]
        exact unreported_onRps u rfl
      · rw [registers_reply]

/-! ### Registers without the mask, the auto-arm flag or the commit (R167, R170, R184) -/

/-- The registers with the event mask left out. -/
def Registers.unmasked (r : Registers) : Registers := { r with mask := 0 }

theorem unmasked_setEventMask (g : Byte) (a : List Byte) (s : State) :
    (setEventMask g a s).registers.unmasked = s.registers.unmasked := by
  refine argCommand_registers Registers.unmasked (fun x u => ?_) s
  rw [registers_reply]
  rfl

/-- The registers with the auto-arm flag left out. -/
def Registers.unarmed (r : Registers) : Registers := { r with autoArm := false }

theorem unarmed_completeStore (failed : Option Nat) (s : State) :
    (s.completeStore failed).registers.unarmed = s.registers.unarmed := by
  unfold State.completeStore
  split
  · rfl
  · unfold State.answerStore State.takeFlags
    cases failed with
    | none =>
      dsimp only
      rw [registers_answerProgress, registers_raise, registers_onLif]
      rfl
    | some i =>
      dsimp only
      rw [registers_answerProgress]
      rfl

/-- The registers with the commit left out. -/
def Registers.uncommitted (r : Registers) : Registers := { r with commit := ⟨[], none, none⟩ }

theorem registers_leaveOffline (s : State) : s.leaveOffline.registers = s.registers := by
  unfold State.leaveOffline State.startSupervision
  split <;> rfl

theorem uncommitted_startSite (n : Nat) (s : State) : (s.startSite n).registers.uncommitted = s.registers.uncommitted := by
  unfold State.startSite
  rw [registers_enterChecking, registers_leaveOffline]
  rfl

theorem uncommitted_start (g : Byte) (a : List Byte) (s : State) : (start g a s).registers.uncommitted = s.registers.uncommitted := by
  refine plainCommand_registers Registers.uncommitted (fun u => ?_) s
  split
  · rw [registers_answer, registers_onScu]
  · rw [registers_reply, uncommitted_startSite]

theorem uncommitted_autoArm (n : Nat) (s : State) : (s.autoArm n).registers.uncommitted = s.registers.uncommitted := by
  unfold State.autoArm
  split
  · split
    · rw [registers_onScu]
    · exact uncommitted_startSite n s
  · rfl

/-- What RESTART keeps of the registers: mask, auto-arm flag and next passage number (R175). -/
def Registers.restarted (r : Registers) : Registers := { r.uncommitted.unreported with alarms := AlarmList.reset }

theorem restarted_restart (g : Byte) (a : List Byte) (s : State) : (restart g a s).registers.restarted = s.registers.restarted := by
  refine plainCommand_registers Registers.restarted (fun u => ?_) s
  have harm := congrArg (fun r => { Registers.unreported r with alarms := AlarmList.reset })
    (uncommitted_autoArm Config.commandSettle (State.equipmentSince u u.clearForRestart).enterOffline)
  rw [registers_reply]
  refine harm.trans ?_
  rw [registers_enterOffline, registers_equipmentSince]
  rfl

/-! ### Registers without the alarm list: samples and crossings handed to the measuring blocks (R19, R55, R60) -/

/-- The registers with the alarm list left out. -/
def Registers.unalarmed (r : Registers) : Registers := { r with alarms := AlarmList.reset }

/-- Measuring leaves every register but the alarm list. -/
theorem unalarmed_measured (h : Measured s t) : t.registers.unalarmed = s.registers.unalarmed := by
  unfold Registers.unalarmed State.registers
  rw [h.commit, h.mask, h.scu, h.axt, h.slots, h.ring, h.sealCount]

theorem unalarmed_deliver (f : LineFrame) (s : State) : (s.deliver f).registers.unalarmed = s.registers.unalarmed :=
  deliver_keeps (fun t => t.registers.unalarmed) (fun _ _ => unalarmed_measured) (fun _ _ _ => rfl) f s

theorem unalarmed_releaseHeads (n : Nat) (s : State) : (s.releaseHeads n).registers.unalarmed = s.registers.unalarmed :=
  releaseHeads_keeps (fun t => t.registers.unalarmed) (fun _ _ => unalarmed_measured) (fun _ _ _ => rfl) (fun _ _ _ => rfl) n s

theorem unalarmed_releaseDue (s : State) : s.releaseDue.registers.unalarmed = s.registers.unalarmed := by
  rw [releaseDue_eq, unalarmed_releaseHeads]

theorem unalarmed_releaseEarly (s : State) : s.releaseEarly.registers.unalarmed = s.registers.unalarmed := by
  unfold State.releaseEarly
  dsimp only
  refine (unalarmed_releaseHeads 1 _).trans ?_
  split <;> rfl

theorem unalarmed_offerFrame (f : LineFrame) (s : State) : (s.offerFrame f).registers.unalarmed = s.registers.unalarmed := by
  unfold State.offerFrame
  split
  · rfl
  · split
    · unfold State.passFrame
      rw [unalarmed_releaseDue, unalarmed_deliver, registers_onSin, unalarmed_releaseHeads]
    · split
      · rfl
      · dsimp only
        split <;> exact unalarmed_releaseEarly s

theorem unalarmed_takeSmp (n : Nat) (l : List Byte) (s : State) : (s.takeSmp n l).registers.unalarmed = s.registers.unalarmed := by
  unfold State.takeSmp
  split
  · rfl
  · split
    · rfl
    · split
      · rfl
      · dsimp only
        split
        · unfold State.acceptSmp
          dsimp only
          split
          · rfl
          · rw [unalarmed_offerFrame, registers_onNode]
        · rfl

@[simp] theorem registers_onAxtCounters (s : State) (f : AxtCounters → AxtCounters) : (s.onAxtCounters f).registers = s.registers := rfl

@[simp] theorem registers_suspectPassage (s : State) : s.suspectPassage.registers = s.registers := by
  unfold State.suspectPassage
  split
  · rfl
  · exact registers_equipmentSince s _

@[simp] theorem registers_overflowCrossing (s : State) : s.overflowCrossing.registers = s.registers := by
  unfold State.overflowCrossing
  dsimp only
  split
  · exact registers_suspectPassage _
  · rfl
  · rfl
  · rfl
  · rfl

@[simp] theorem registers_takeRecord (l : List Byte) (i : Nat) (s : State) : (s.takeRecord l i).registers = s.registers := by
  unfold State.takeRecord
  split
  · rfl
  · split
    · rfl
    · unfold State.offerCrossing
      split
      · rfl
      · exact registers_overflowCrossing s

@[simp] theorem registers_takeCrs (n : Nat) (l : List Byte) (s : State) : (s.takeCrs n l).registers = s.registers := by
  unfold State.takeCrs
  split
  · exact forEach_keeps State.registers (fun i u => registers_takeRecord l i u) _ s
  · rfl

theorem unalarmed_takeTraffic (f : Frame) (s : State) : (s.takeTraffic f).registers.unalarmed = s.registers.unalarmed := by
  unfold State.takeTraffic
  split
  · exact unalarmed_takeSmp _ _ s
  · rw [registers_takeCrs]
  · rw [registers_takeNst]
  · rfl

theorem unalarmed_takeAddressed (f : Frame) (s : State) : (s.takeAddressed f).registers.unalarmed = s.registers.unalarmed := by
  unfold State.takeAddressed
  split
  · exact unalarmed_takeTraffic f s
  · exact unalarmed_takeTraffic f s
  · exact unalarmed_takeTraffic f s
  · rw [registers_takeCmd]
  · rfl

theorem unalarmed_handleFrame (f : Frame) (s : State) : (s.handleFrame f).registers.unalarmed = s.registers.unalarmed := by
  unfold State.handleFrame
  split
  · rfl
  · split
    · exact unalarmed_takeAddressed f s
    · split
      · rw [unalarmed_takeTraffic, registers_forwardFrame]
      · rw [registers_forwardFrame]

theorem unalarmed_receive (r : Rate) (l : List Byte) (s : State) : (s.receive r l).registers.unalarmed = s.registers.unalarmed := by
  unfold State.receive State.frameLocked State.frameSearching
  split
  · split
    · exact unalarmed_handleFrame _ _
    · rfl
  · split
    · rw [unalarmed_handleFrame, registers_lockLoop]
    · rfl

/-! ### A crossing taken in a passage (R30 to R39, R45) -/

theorem registers_takeDueMarks (n : Nat) (s : State) : (s.takeDueMarks n).registers = s.registers := by
  induction n generalizing s with
  | zero => rfl
  | succ n ih =>
    unfold State.takeDueMarks
    split
    · rw [ih, registers_takeMark]
    · rfl

theorem registers_enterMark (i : Nat) (r : LoopTime) (m : NewMark) (s : State) : (s.enterMark i r m).registers = s.registers := by
  unfold State.enterMark
  split
  · rfl
  · split
    · rw [registers_takeDueMarks, registers_onPassage]
    · rfl

@[simp] theorem registers_scheduleMarks (i : Nat) (e : HistEntry) (s : State) : (s.scheduleMarks i e).registers = s.registers := by
  unfold State.scheduleMarks
  split
  · rfl
  · dsimp only
    split
    · rfl
    · exact forEach_keeps State.registers (fun m u => registers_enterMark i e.time m u) _ _

theorem unalarmed_resolveSpacing (i : Nat) (s : State) : (s.resolveSpacing i).registers.unalarmed = s.registers.unalarmed := by
  unfold State.resolveSpacing
  split
  · split
    · rw [unalarmed_measured (measured_segmentAttempt (measured_self _) false)]
      rfl
    · rfl
  · rfl

theorem unalarmed_referenceCrossing (i : Nat) (e : HistEntry) (s : State) :
    (s.referenceCrossing i e).registers.unalarmed = s.registers.unalarmed := by
  unfold State.referenceCrossing
  split
  · split
    · rw [unalarmed_resolveSpacing]
      rfl
    · rfl
  · rfl

theorem unalarmed_moveAxle (i : Nat) (x : Crossing) (b : Bool) (s : State) :
    (s.moveAxle i x b).registers.unalarmed = s.registers.unalarmed := by
  unfold State.moveAxle State.handOn
  split
  · rfl
  · dsimp only
    rw [registers_scheduleMarks, unalarmed_measured (measured_winCrossing (measured_self _) i _), unalarmed_referenceCrossing]
    rfl

theorem unalarmed_applyCrossing (x : Crossing) (s : State) : (s.applyCrossing x).registers.unalarmed = s.registers.unalarmed := by
  unfold State.applyCrossing
  split
  · rfl
  · dsimp only
    split
    · unfold State.refuseCrossing
      rw [registers_suspectPassage]
      rfl
    · rfl
    · rw [unalarmed_moveAxle]
      rfl
    · rw [unalarmed_moveAxle]
      rfl

theorem unalarmed_trackCrossing (x : Crossing) (s : State) : (s.trackCrossing x).registers.unalarmed = s.registers.unalarmed := by
  have hlate : (s.countLate x).registers = s.registers := by
    rw [countLate_eq]
    rfl
  unfold State.trackCrossing State.filterCrossing
  dsimp only
  rw [registers_onPassage]
  split
  · rw [hlate]
  · split
    · unfold State.refuseCrossing
      rw [registers_suspectPassage, State.onPassageCounters, registers_onPassage, hlate]
    · split
      · rw [State.onPassageCounters, registers_onPassage, State.noteOrder, registers_onPassage, hlate]
      · rw [unalarmed_applyCrossing, State.passFilters, registers_onPassage, State.noteOrder, registers_onPassage, hlate]

/-! ### CROSSING_TAKE (R26 to R28) -/

/-- What a start of a passage keeps of the registers: commit, mask and auto-arm flag (R28). -/
def Registers.started (r : Registers) : Registers := { r.unreported.unalarmed with nextPassage := 0 }

theorem mask_takeSlot (s : State) (n : Nat) : (s.takeSlot n).rps.mask = s.rps.mask := by
  cases h : s.rps.choose with
  | fresh m => rw [takeSlot_fresh h]; rfl
  | takeover m => rw [takeSlot_takeover h]; rfl
  | noSlot => rw [takeSlot_noSlot h]; rfl

theorem started_startPassage {x : Crossing} (hx : startsPassage x = true) (s : State) :
    (s.startPassage x).registers.started = s.registers.started := by
  obtain ⟨-, -, hscu, -, -, hcommit⟩ := startPassage_frame hx s
  have hmask : (s.startPassage x).rps.mask = s.rps.mask := by
    rw [startPassage_rps, mask_takeSlot, mask_of_told (starting_started hx s).told]
  unfold Registers.started Registers.unreported Registers.unalarmed State.registers
  rw [hcommit, hmask, hscu]
  rfl

theorem registers_strayCrossing (s : State) : s.strayCrossing.registers = s.registers := by
  unfold State.strayCrossing
  dsimp only
  split <;> rfl

theorem started_takeCrossing (x : Crossing) (s : State) : (s.takeCrossing x).registers.started = s.registers.started := by
  unfold State.takeCrossing
  split
  · split
    case isTrue hx => exact started_startPassage hx s
    case isFalse => rw [registers_strayCrossing]
  · split
    case isTrue hx => rw [started_startPassage hx, registers_abortCheck]
    case isFalse => rw [registers_strayCrossing]
  · exact congrArg (fun r => { Registers.unreported r with nextPassage := 0 }) (unalarmed_trackCrossing x s)
  · rfl
  · rfl

theorem started_takeHeadCrossing (s : State) : s.takeHeadCrossing.registers.started = s.registers.started := by
  unfold State.takeHeadCrossing
  split
  · rfl
  · split
    · rfl
    · rw [started_takeCrossing]
      rfl

/-! ### CLOSING_STEPS (R177) -/

/-- What the end of CLOSING keeps of the registers: commit, mask, auto-arm flag and next passage number (R177). -/
def Registers.closed (r : Registers) : Registers := r.unreported.unalarmed

theorem mask_sealPassage (s : State) : s.sealPassage.rps.mask = s.rps.mask := by
  obtain hp | ⟨p, hp⟩ := s.passage.eq_none_or_eq_some
  · unfold State.sealPassage
    rw [hp]
  · cases hn : p.slot with
    | none =>
      rw [sealPassage_noSlot hp hn]
      rfl
    | some n =>
      rw [sealPassage_inSlot hp hn]
      show (s.rps.sealReport n p s.aou.alarms).mask = s.rps.mask
      unfold Rps.sealReport Rps.nextSeal
      split <;> rfl

theorem closed_closingWork (s : State) : s.closingWork.registers.closed = s.registers.closed := by
  have hsealed : s.finished.sealPassage.registers.closed = s.finished.registers.closed := by
    unfold Registers.closed
    rw [sealPassage_frame, State.registers]
    unfold Registers.unreported
    rw [mask_sealPassage]
    rfl
  rw [closingWork_eq, hsealed]
  exact congrArg Registers.unreported (unalarmed_measured (measured_finished s))

theorem registers_clearPassage (s : State) : s.clearPassage.registers = s.registers := by
  unfold State.clearPassage
  split <;> rfl

theorem closed_runClosing (s : State) : s.runClosing.registers.closed = s.registers.closed := by
  cases h : s.stopping with
  | false =>
    rw [runClosing_armed h, State.closeToArmed, registers_equipmentSince, registers_enterArmed, registers_holdLines, registers_clearPassage,
      closed_closingWork]
  | true =>
    rw [runClosing_offline h, registers_answerProgress, State.stopped, registers_equipmentSince, registers_enterOffline,
      registers_clearPassage, closed_closingWork]

/-! ### The rows -/

/-- The registers with those left out that a row writes. -/
def Registers.besides (i : Instr) (r : Registers) : Registers where
  commit := if commitsTables i then ⟨[], none, none⟩ else r.commit
  mask := if writesMask i then 0 else r.mask
  autoArm := if writesStore i then false else r.autoArm
  nextPassage := if startsPassages i then 0 else r.nextPassage
  slots := if writesReports i then [] else r.slots
  ring := if writesReports i then [] else r.ring
  sealCount := if writesReports i then 0 else r.sealCount
  alarms := if writesAlarms i then AlarmList.reset else r.alarms

section
variable {i : Instr} {f : State → State} {dt : Nat}

theorem besides_timed (h : timed dt f s = .next t) (hf : ∀ u : State, (f u).registers = u.registers) :
    t.registers.besides i = s.registers.besides i :=
  congrArg _ (timed_registers id h hf)

theorem besides_when {b : State → Bool} (h : timed dt (fun u => whenever (b u) f u) s = .next t) (hf : ∀ u : State, (f u).registers = u.registers) :
    t.registers.besides i = s.registers.besides i :=
  besides_timed h fun u => whenever_registers id (b u) (hf u)

theorem besides_command {c : Nat} {g : Byte} {a : List Byte} (h : timed dt (command c g a f) s = .next t)
    (hf : ∀ u : State, (f u).registers = u.registers) : t.registers.besides i = s.registers.besides i :=
  besides_timed h (command_registers id hf)

theorem besides_pinRow {c : State → Bool} {p : Pins → Pins} (h : pinRow dt c f p s = .next t) (hf : ∀ u : State, (f u).registers = u.registers) :
    t.registers.besides i = s.registers.besides i :=
  congrArg _ (pinRow_registers id h hf)

end

/-- Every row with supply on both sides leaves the registers besides those it writes. -/
theorem besides_exec (i : Instr) (hi : suppliesPower i = false) (h : exec i s = .next t) : t.registers.besides i = s.registers.besides i := by
  cases i with
  | powerOn => cases hi
  | powerLoss => cases hi
  | readIdentity dt g a => exact besides_command ((exec_readIdentity s dt g a).symm.trans h) (registers_readIdentity g a)
  | readStatus dt g a => exact besides_command ((exec_readStatus s dt g a).symm.trans h) (registers_readStatus g a)
  | readLive dt g a => exact besides_command ((exec_readLive s dt g a).symm.trans h) (registers_readLive g a)
  | writeTable dt g a => exact besides_command ((exec_writeTable s dt g a).symm.trans h) (registers_writeTable g a)
  | readTable dt g a => exact besides_command ((exec_readTable s dt g a).symm.trans h) (registers_readTable g a)
  | start dt g a => exact timed_registers _ ((exec_start s dt g a).symm.trans h) (command_registers Registers.uncommitted (uncommitted_start g a))
  | stop dt g a => exact besides_command ((exec_stop s dt g a).symm.trans h) (registers_stop g a)
  | restart dt g a => exact timed_registers _ ((exec_restart s dt g a).symm.trans h) (command_registers Registers.restarted (restarted_restart g a))
  | runCheck dt g a => exact besides_command ((exec_runCheck s dt g a).symm.trans h) (registers_runCheck g a)
  | forceClose dt g a => exact besides_command ((exec_forceClose s dt g a).symm.trans h) (registers_forceClose g a)
  | readAlarms dt g a => exact besides_command ((exec_readAlarms s dt g a).symm.trans h) (registers_readAlarms g a)
  | readReport dt g a => exact timed_registers _ ((exec_readReport s dt g a).symm.trans h) (command_registers Registers.unreported (unreported_readReport g a))
  | releaseReport dt g a => exact timed_registers _ ((exec_releaseReport s dt g a).symm.trans h) (command_registers Registers.unreported (unreported_releaseReport g a))
  | readSummaries dt g a => exact besides_command ((exec_readSummaries s dt g a).symm.trans h) (registers_readSummaries g a)
  | ackEvents dt g a => exact besides_command ((exec_ackEvents s dt g a).symm.trans h) (registers_ackEvents g a)
  | setEventMask dt g a => exact timed_registers _ ((exec_setEventMask s dt g a).symm.trans h) (command_registers Registers.unmasked (unmasked_setEventMask g a))
  | clearOutputs dt g a => exact besides_command ((exec_clearOutputs s dt g a).symm.trans h) (registers_clearOutputsCommand g a)
  | testOutputs dt g a => exact besides_command ((exec_testOutputs s dt g a).symm.trans h) (registers_testOutputs g a)
  | storeTables dt g a => exact besides_command ((exec_storeTables s dt g a).symm.trans h) (registers_storeTables g a)
  | setStation dt g a => exact besides_command ((exec_setStation s dt g a).symm.trans h) (registers_setStation g a)
  | storeComplete dt failed =>
    refine timed_registers Registers.unarmed ((exec_storeComplete s dt failed).symm.trans h) fun u => ?_
    rw [registers_drain, unarmed_completeStore]
  | frameReceived dt r l => exact timed_registers Registers.unalarmed ((exec_frameReceived s dt r l).symm.trans h) (unalarmed_receive r l)
  | frameSendComplete dt => exact besides_timed ((exec_frameSendComplete s dt).symm.trans h) registers_endSending
  | timFrameDue dt => exact besides_timed ((exec_timFrameDue s dt).symm.trans h) registers_timDue
  | rptFrameSend dt => exact timed_registers Registers.unreported ((exec_rptFrameSend s dt).symm.trans h) unreported_nextRpt
  | evtFrameSend dt => exact besides_timed ((exec_evtFrameSend s dt).symm.trans h) registers_nextEvt
  | holdOffExpiry dt => exact besides_when ((exec_holdOffExpiry s dt).symm.trans h) (fun _ => rfl)
  | quietTimerExpiry dt => exact besides_when ((exec_quietTimerExpiry s dt).symm.trans h) registers_loseLoop
  | searchDwellExpiry dt => exact besides_when ((exec_searchDwellExpiry s dt).symm.trans h) (fun _ => rfl)
  | stripAddressTimeout dt => exact besides_when ((exec_stripAddressTimeout s dt).symm.trans h) (fun _ => rfl)
  | supervisionTimerExpiry dt => exact besides_when ((exec_supervisionTimerExpiry s dt).symm.trans h) registers_loseController
  | nodeSilenceExpiry dt n => exact besides_when ((exec_nodeSilenceExpiry s dt n).symm.trans h) (fun _ => registers_equipmentChanged _)
  | ambientGateEnd dt => exact besides_when ((exec_ambientGateEnd s dt).symm.trans h) registers_endGate
  | orderRecordAged dt n => exact besides_timed ((exec_orderRecordAged s dt n).symm.trans h) (fun _ => rfl)
  | releaseRecordAged dt => exact besides_timed ((exec_releaseRecordAged s dt).symm.trans h) (fun _ => rfl)
  | timeOrderRecordAged dt => exact besides_timed ((exec_timeOrderRecordAged s dt).symm.trans h) (fun _ => rfl)
  | doublePulseRecordAged dt w d => exact besides_timed ((exec_doublePulseRecordAged s dt w d).symm.trans h) (fun _ => rfl)
  | feedbackRecordAged dt r => exact besides_timed ((exec_feedbackRecordAged s dt r).symm.trans h) (fun _ => rfl)
  | delayLineRelease dt => exact timed_registers Registers.unalarmed ((exec_delayLineRelease s dt).symm.trans h) unalarmed_releaseDue
  | crossingTake dt => exact timed_registers Registers.started ((exec_crossingTake s dt).symm.trans h) started_takeHeadCrossing
  | standingTimerExpiry dt => exact besides_when ((exec_standingTimerExpiry s dt).symm.trans h) (fun _ => rfl)
  | clearHoldExpiry dt => exact besides_timed ((exec_clearHoldExpiry s dt).symm.trans h) registers_clearHoldEnd
  | lossTimerExpiry dt => exact besides_when ((exec_lossTimerExpiry s dt).symm.trans h) (fun u => registers_endPassage u _)
  | closingSteps dt =>
    refine timed_registers Registers.closed ((exec_closingSteps s dt).symm.trans h) fun u => whenever_registers Registers.closed _ ?_
    rw [registers_drain, closed_runClosing]
  | markTaken dt => exact besides_when ((exec_markTaken s dt).symm.trans h) registers_takeMark
  | pulseEnd dt l => exact besides_when ((exec_pulseEnd s dt l).symm.trans h) (fun _ => rfl)
  | holdTimerExpiry dt l => exact besides_when ((exec_holdTimerExpiry s dt l).symm.trans h) (fun _ => rfl)
  | envelopeEdge dt l => exact besides_timed ((exec_envelopeEdge s dt l).symm.trans h) (fun u => registers_judgeLine u l)
  | readbackInputChange dt l b => exact besides_pinRow ((exec_readbackInputChange s dt l b).symm.trans h) (fun _ => rfl)
  | readbackTimerExpiry dt l => exact besides_when ((exec_readbackTimerExpiry s dt l).symm.trans h) (fun u => registers_readbackExpired u l)
  | approachAssertion dt => exact besides_pinRow ((exec_approachAssertion s dt).symm.trans h) registers_approachAsserted
  | approachRelease dt => exact besides_pinRow ((exec_approachRelease s dt).symm.trans h) registers_approachReleased
  | closeTimerExpiry dt => exact besides_when ((exec_closeTimerExpiry s dt).symm.trans h) registers_closeShutters
  | shutterFeedbackChange dt r b => exact besides_pinRow ((exec_shutterFeedbackChange s dt r b).symm.trans h) (fun u => registers_withBrg u _)
  | feedbackOpenTimerExpiry dt r => exact besides_when ((exec_feedbackOpenTimerExpiry s dt r).symm.trans h) (fun u => registers_openTimerExpired u r)
  | feedbackCloseTimerExpiry dt r => exact besides_when ((exec_feedbackCloseTimerExpiry s dt r).symm.trans h) (fun u => registers_closeTimerFault u r)
  | powerSettleEnd dt => exact besides_when ((exec_powerSettleEnd s dt).symm.trans h) (fun _ => rfl)
  | settleWaitEnd dt => exact besides_when ((exec_settleWaitEnd s dt).symm.trans h) registers_endSettle
  | checkReferencePhase dt => exact besides_when ((exec_checkReferencePhase s dt).symm.trans h) (fun _ => rfl)
  | checkEnd dt => exact besides_when ((exec_checkEnd s dt).symm.trans h) registers_endCheck
  | intervalTimerExpiry dt => exact besides_when ((exec_intervalTimerExpiry s dt).symm.trans h) registers_intervalEnd
  | dueCheckStart dt => exact besides_when ((exec_dueCheckStart s dt).symm.trans h) (fun u => registers_enterChecking u 0)
  | ambientOscillatorCycle dt => exact besides_timed ((exec_ambientOscillatorCycle s dt).symm.trans h) (fun _ => rfl)

end

/-- Settles O8: what a row leaves of the registers besides those it writes, register by register. -/
theorem registersChangeByTheirRowsAlone : Obligations.RegistersChangeByTheirRowsAlone := by
  intro i s t hi h
  have hb := besides_exec i hi h
  unfold Registers.besides at hb
  obtain ⟨hcommit, hmask, harm, hnext, hslots, hring, hcount, halarms⟩ := Registers.mk.inj hb
  refine ⟨fun hw => ?_, fun hw => ?_, fun hw => ?_, fun hw => ?_, fun hw => ⟨?_, ?_, ?_⟩, fun hw => ?_⟩
  · rwa [hw] at hcommit
  · rwa [hw] at hmask
  · rwa [hw] at harm
  · rwa [hw] at hnext
  · rwa [hw] at hslots
  · rwa [hw] at hring
  · rwa [hw] at hcount
  · rwa [hw] at halarms

end Sys2Proof.Machine
end

section
/-! PROOFS. O49: what the filters, the crossing rule, WIN and the settling test do with a crossing taken in PASSAGE. -/

namespace Sys2Proof.Machine

/-! ### The fault set and TRACKING_SUSPECT (R35, R140) -/

section
variable {s : State}

/-- TRACKING_SUSPECT stands in the fault set exactly while the passage has it (R140). -/
theorem trackingSuspect_mem_faultSet_iff : .trackingSuspect ∈ s.faultSet ↔ s.trackingSuspect = true := by
  have hchannel : ∀ c, channelMember s c ≠ some .trackingSuspect := fun c h => (channelMember_cases h).elim nofun nofun
  simp [State.faultSet, hchannel, nodeMember]

theorem equipmentDiffers_of_faultSet {b : State} (h : b.faultSet ≠ s.faultSet) : equipmentDiffers b s = true := by
  unfold equipmentDiffers
  rw [bne_iff_ne.mpr h, Bool.true_or]

theorem trackingSuspect_suspectPassage {p : Passage} (hp : s.passage = some p) : s.suspectPassage.trackingSuspect = true := by
  unfold State.trackingSuspect
  rw [passage_suspectPassage, hp]
  rfl

/-- A passage that was not suspect changes the fault set as it becomes so (R35, R140). -/
theorem raised_suspectPassage_self {p : Passage} (hp : s.passage = some p) (h : p.flags.suspect = false) :
    s.suspectPassage.raised .equipmentChanged := by
  have hno : s.trackingSuspect = false := by
    unfold State.trackingSuspect
    rw [hp]
    exact h
  have hyes : (s.onPassage fun p => { p with flags := { p.flags with suspect := true } }).trackingSuspect = true := by
    unfold State.trackingSuspect
    rw [passage_onPassage, hp]
    rfl
  have hne : s.faultSet ≠ (s.onPassage fun p => { p with flags := { p.flags with suspect := true } }).faultSet := fun h =>
    Bool.false_ne_true (hno.symm.trans (trackingSuspect_mem_faultSet_iff.mp (h ▸ trackingSuspect_mem_faultSet_iff.mpr hyes)))
  unfold State.suspectPassage State.equipmentSince
  rw [if_neg (by rw [hno]; exact Bool.false_ne_true), if_pos (equipmentDiffers_of_faultSet hne)]
  exact raised_equipmentChanged_self _

end

/-! ### A crossing meets the filters (R25, R30, R31) -/

/-- The part with the head crossing taken in PASSAGE, after `dt` µs: the crossings that remain queued, and a passage context. -/
def State.meeting (s : State) (dt : Nat) (rest : List Crossing) (q : Passage) : State :=
  { s.elapse dt with axt := { s.axt with queue := rest }, passage := some q }

/-- The passage context past both filters: their records bear the crossing's time (R30, R31). -/
def Passage.filtered (x : Crossing) (p : Passage) : Passage :=
  setPulseRecord x.wt x.dir (some x.time) { p with timeOrder := some x.time }

/-- A passage context but for its counters after `dt` µs, the counts of the filters among them as they were (R25). -/
structure Passage.Met (now : LoopTime) (dt : Nat) (p q : Passage) : Prop where
  ticked : ∃ c, q = { tickPassage now dt p with counters := c }
  sequence : q.counters.sequence = p.counters.sequence
  doublePulses : q.counters.doublePulses = p.counters.doublePulses

section
variable {s : State} {dt : Nat} {x : Crossing} {rest : List Crossing} {p q : Passage}

theorem commit_filterCrossing (x : Crossing) (s : State) : (s.filterCrossing x).commit = s.commit := by
  have happly : ∀ t : State, (t.applyCrossing x).commit = t.commit := fun t => congrArg Registers.commit (unalarmed_applyCrossing x t)
  unfold State.filterCrossing
  split
  · rfl
  · split
    · unfold State.refuseCrossing
      exact congrArg Registers.commit (registers_suspectPassage _)
    · split
      · rfl
      · exact happly _

theorem standingTime_congr {t : State} (h : t.commit = s.commit) : t.standingTime = s.standingTime := by
  unfold State.standingTime State.inUse
  rw [h]

theorem clearHold_congr {t : State} (h : t.commit = s.commit) : t.clearHold = s.clearHold := by
  unfold State.clearHold State.inUse
  rw [h]

/-- A crossing taken in PASSAGE meets the filters with the late count aside, and then the timers start anew or stop (R25, R43, R44). -/
theorem exec_crossingTake_passage (hpow : s.powered = true) (hq : s.axt.queue = x :: rest) (hs : s.scu.site = .passage)
    (hp : s.passage = some p) : ∃ q, p.Met s.now dt q
      ∧ exec (.crossingTake dt) s
        = .next (((s.meeting dt rest q).filterCrossing x).onPassage (endTimers s.standingTime s.clearHold)) := by
  have htake : (s.elapse dt).takeHeadCrossing = ((s.elapse dt).onAxt fun a => { a with queue := rest }).trackCrossing x := by
    have hsite : (s.elapse dt).scu.site = .passage := hs
    unfold State.takeHeadCrossing
    rw [axt_elapse, hq]
    dsimp only
    rw [if_neg (by rw [hsite]; exact nofun)]
    unfold State.takeCrossing
    rw [scu_onAxt, hsite]
  have hlate : ∃ q, p.Met s.now dt q ∧ ((s.elapse dt).onAxt fun a => { a with queue := rest }).countLate x = s.meeting dt rest q := by
    rw [countLate_eq, State.onPassageCounters, onPassage_some (p := tickPassage s.now dt p) (by rw [passage_onAxt, passage_elapse, hp]; rfl)]
    refine ⟨_, ⟨⟨_, rfl⟩, ?_, ?_⟩, rfl⟩
    all_goals
      dsimp only
      split <;> rfl
  obtain ⟨q, hmet, hlate⟩ := hlate
  have hcommit : ((s.meeting dt rest q).filterCrossing x).commit = s.commit := commit_filterCrossing x _
  refine ⟨q, hmet, ?_⟩
  rw [exec_crossingTake, timed_powered s dt _ hpow, htake]
  unfold State.trackCrossing
  dsimp only
  rw [hlate, standingTime_congr hcommit, clearHold_congr hcommit]

theorem failsOrder_iff : failsOrder p x = true ↔ ∃ r, p.timeOrder = some r ∧ earlier x.time r = true := by
  unfold failsOrder
  cases p.timeOrder <;> simp

theorem failsOrder_false (h : ∀ o, p.timeOrder = some o → earlier x.time o = false) : failsOrder p x = false :=
  Bool.eq_false_iff.mpr fun hf => by
    obtain ⟨r, hr, he⟩ := failsOrder_iff.mp hf
    exact Bool.false_ne_true ((h r hr).symm.trans he)

theorem isDoublePulse_iff {n : Nat} : isDoublePulse n p x = true ↔ ∃ r, pulseRecord p x.wt x.dir = some r ∧ timeDiff x.time r < n := by
  unfold isDoublePulse
  cases pulseRecord p x.wt x.dir <;> simp

theorem isDoublePulse_false {n : Nat} (h : ∀ r, pulseRecord p x.wt x.dir = some r → (n : Int) ≤ timeDiff x.time r) :
    isDoublePulse n p x = false :=
  Bool.eq_false_iff.mpr fun hf => by
    obtain ⟨r, hr, hd⟩ := isDoublePulse_iff.mp hf
    exact absurd (h r hr) (Int.not_le.mpr hd)

theorem filterCrossing_late (h : failsOrder q x = true) : (s.meeting dt rest q).filterCrossing x = (s.meeting dt rest q).refuseCrossing :=
  if_pos h

theorem filterCrossing_double (h : failsOrder q x = false) (hd : isDoublePulse (s.commit.tdp.getD 0) q x = true) :
    (s.meeting dt rest q).filterCrossing x = s.meeting dt rest
      { q with timeOrder := some x.time, counters := { q.counters with doublePulses := bump q.counters.doublePulses } } :=
  (if_neg (Bool.eq_false_iff.mp h)).trans (if_pos hd)

theorem filterCrossing_passes (h : failsOrder q x = false) (hd : isDoublePulse (s.commit.tdp.getD 0) q x = false) :
    (s.meeting dt rest q).filterCrossing x = (s.meeting dt rest (q.filtered x)).applyCrossing x :=
  (if_neg (Bool.eq_false_iff.mp h)).trans (if_neg (Bool.eq_false_iff.mp hd))

/-- A crossing past both filters meets the crossing rule (R30, R31). -/
theorem exec_crossingTake_filtered (hpow : s.powered = true) (hq : s.axt.queue = x :: rest) (hs : s.scu.site = .passage)
    (hp : s.passage = some p) (ho : ∀ o, p.timeOrder = some o → earlier x.time o = false)
    (hd : ∀ r, pulseRecord p x.wt x.dir = some r → ((s.commit.tdp.getD 0 : Nat) : Int) ≤ timeDiff x.time r) :
    ∃ q, p.Met s.now dt q ∧ exec (.crossingTake dt) s
      = .next (((s.meeting dt rest (q.filtered x)).applyCrossing x).onPassage (endTimers s.standingTime s.clearHold)) := by
  obtain ⟨q, hmet, hexec⟩ := exec_crossingTake_passage (dt := dt) hpow hq hs hp
  obtain ⟨c, hc⟩ := hmet.ticked
  refine ⟨q, hmet, ?_⟩
  rw [hexec, filterCrossing_passes]
  · exact failsOrder_false fun o h => ho o (by rwa [hc] at h)
  · exact isDoublePulse_false fun r h => hd r (by rwa [hc] at h)

/-! ### A refused crossing (R35) -/

/-- A refused crossing counts one sequence fault more and makes the passage suspect (R35). -/
theorem refuseCrossing_effect {p : Passage} (hp : s.passage = some p) : s.refuseCrossing.axt = s.axt ∧ s.refuseCrossing.scu = s.scu
    ∧ s.refuseCrossing.passage = some { p with
        counters := { p.counters with sequence := bump p.counters.sequence }, flags := { p.flags with suspect := true } }
    ∧ s.refuseCrossing.trackingSuspect = true
    ∧ (p.flags.suspect = false → s.refuseCrossing.raised .equipmentChanged) := by
  have hcounted : (s.onPassageCounters fun c => { c with sequence := bump c.sequence }).passage
      = some { p with counters := { p.counters with sequence := bump p.counters.sequence } } := by
    rw [State.onPassageCounters, passage_onPassage, hp]
    rfl
  unfold State.refuseCrossing
  refine ⟨axt_suspectPassage, scu_suspectPassage, ?_, trackingSuspect_suspectPassage hcounted, fun h => raised_suspectPassage_self hcounted h⟩
  rw [passage_suspectPassage, hcounted]
  rfl

end

/-! ### The crossing rule's outcomes (R33 to R37) -/

section
variable {s : State} {x : Crossing} {p : Passage} {i n : Nat}

/-- A new axle enters at the first place of the entry direction, one past the total (R33). -/
theorem crossingRule_eq_entered (h : crossingRule p x = .entered n) : entryPlace p.dir x.wt = 1 ∧ n = p.total + 1 := by
  by_cases hdir : x.dir = p.dir
  · rw [crossingRule_forward hdir] at h
    by_cases hk : entryPlace p.dir x.wt = 1
    · refine ⟨hk, ?_⟩
      unfold forwardRule at h
      rw [if_pos hk] at h
      split at h
      · cases h
      · split at h <;> cases h
        rfl
    · rw [forwardRule_later hk] at h
      split at h <;> cases h
  · rw [crossingRule_backward hdir] at h
    unfold backwardRule at h
    split at h
    · cases h
    · split at h <;> cases h

theorem commonOf_created (n : Nat) (x : Crossing) (k : PartKind) (r : Rail) : commonOf (AxleRecord.created n x) k r = none := by
  cases k <;> cases r <;> rfl

theorem createAxle_recorded (h : n ≤ 1024) : createAxle n x p = { p with axles := p.axles ++ [AxleRecord.created n x] } := if_pos h

theorem createAxle_truncated (h : 1024 < n) : createAxle n x p = { p with flags := { p.flags with truncated := true } } :=
  if_neg (Nat.not_le.mpr h)

/-- A new axle is made in the records or the flags alone (R36, R37). -/
theorem createAxle_keeps (n : Nat) (x : Crossing) (p : Passage) :
    createAxle n x p = { p with axles := (createAxle n x p).axles, flags := (createAxle n x p).flags } := by
  unfold createAxle
  split <;> rfl

theorem applyCrossing_refused (hp : s.passage = some p) (hr : crossingRule p x = .refused) : s.applyCrossing x = s.refuseCrossing := by
  unfold State.applyCrossing
  rw [hp]
  simp only [hr]

/-- A crossing of a counted axle moves its counts, and then its record (R33, R34, R38). -/
theorem applyCrossing_moves {back : Bool} (hp : s.passage = some p) (hr : crossingRule p x = if back then .backward i else .forward i) :
    s.applyCrossing x = (s.count (crossingRule p x) (entryPlace p.dir x.wt)).moveAxle i x back := by
  unfold State.applyCrossing
  rw [hp]
  cases back
  · rw [if_neg Bool.false_ne_true] at hr
    simp only [hr]
  · rw [if_pos rfl] at hr
    simp only [hr]

theorem moveAxle_none {b : Bool} (h : s.axle i = none) : s.moveAxle i x b = s := by
  unfold State.moveAxle
  rw [h]

theorem moveAxle_some {b : Bool} {a : AxleRecord} (h : s.axle i = some a) : s.moveAxle i x b
    = ((s.onAxle i (recordCrossing (s.entryFor i x) b)).referenceCrossing i (s.entryFor i x)).handOn i (s.entryFor i x) := by
  unfold State.moveAxle
  rw [h]

theorem entryFor_some {a : AxleRecord} (h : s.axle i = some a) :
    s.entryFor i x = ⟨x.wt, x.dir, x.time, crossingSpeed s.tables a.history.getLast? x, false⟩ := by
  unfold State.entryFor
  rw [h]
  rfl

end

/-! ### The reference transducer (R39, R42) -/

/-- What a crossing of the reference transducer leaves of a record: its crossings (R38). -/
def AxleRecord.course (a : AxleRecord) : List HistEntry × Bool := (a.history, a.reversed)

/-- What a crossing of the reference transducer leaves of the passage context: the direction, the counts, the contexts, and the crossings of every record. -/
structure Course where
  dir : Direction
  counts : Counts
  total : Nat
  contexts : List Context
  axles : List (List HistEntry × Bool)

def Passage.course (p : Passage) : Course := ⟨p.dir, p.counts, p.total, p.contexts, p.axles.map AxleRecord.course⟩

/-- `t` has the tables, the commit and the course of `s`. -/
structure SameCourse (s t : State) : Prop where
  tables : t.tables = s.tables
  commit : t.commit = s.commit
  course : t.passage.map Passage.course = s.passage.map Passage.course

section
variable {s t u : State} {p : Passage} {i : Nat} {a : AxleRecord}

theorem sameCourse_self (s : State) : SameCourse s s := ⟨rfl, rfl, rfl⟩

theorem SameCourse.trans (h : SameCourse s t) (g : SameCourse t u) : SameCourse s u :=
  ⟨g.tables.trans h.tables, g.commit.trans h.commit, g.course.trans h.course⟩

theorem course_parts (p : Passage) : p.parts.course = p.course := by
  unfold Passage.course Passage.parts
  rw [List.map_map]
  rfl

/-- The segmenter leaves the course alone (R89). -/
theorem sameCourse_segmentAttempt (s : State) (c : Bool) : SameCourse s (s.segmentAttempt c) where
  tables := (measured_segmentAttempt (measured_self s) c).tables
  commit := (measured_segmentAttempt (measured_self s) c).commit
  course := by
    have hparts := congrArg (Option.map Passage.course) (judged_segmentAttempt (judged_self s) c)
    rw [Option.map_map, Option.map_map, show Passage.course ∘ Passage.parts = Passage.course from funext course_parts] at hparts
    exact hparts

/-- A change of a record that keeps its crossings leaves the course alone. -/
theorem sameCourse_onAxle (s : State) (i : Nat) (f : AxleRecord → AxleRecord) (hf : ∀ a, (f a).course = a.course := by intro a; rfl) :
    SameCourse s (s.onAxle i f) where
  tables := rfl
  commit := rfl
  course := by
    have hmodify : ∀ (l : List AxleRecord) (j : Nat), (l.modify j f).map AxleRecord.course = l.map AxleRecord.course := fun l => by
      induction l with
      | nil => intro j; cases j <;> rfl
      | cons a l ih =>
        intro j
        cases j with
        | zero => exact congrArg (· :: l.map AxleRecord.course) (hf a)
        | succ j => exact congrArg (a.course :: ·) (ih j)
    unfold State.onAxle
    rw [passage_onPassage, Option.map_map]
    congr 1
    funext p
    exact congrArg (Course.mk p.dir p.counts p.total p.contexts) (hmodify _ _)

theorem sameCourse_setAxleSpeed (i : Nat) (r : LoopTime) (v : Option Nat) (s : State) : SameCourse s (s.setAxleSpeed i r v) :=
  (sameCourse_onAxle s i _).trans ⟨rfl, rfl, rfl⟩

theorem sameCourse_resolveSpacing (i : Nat) (s : State) : SameCourse s (s.resolveSpacing i) := by
  unfold State.resolveSpacing
  split
  · split
    · exact (sameCourse_onAxle s i _).trans (sameCourse_segmentAttempt _ _)
    · exact sameCourse_self s
  · exact sameCourse_self s

/-- The speed and the spacing set at the reference transducer leave the crossings, the counts and the contexts alone (R39, R42). -/
theorem sameCourse_referenceCrossing (i : Nat) (e : HistEntry) (s : State) : SameCourse s (s.referenceCrossing i e) := by
  unfold State.referenceCrossing
  split
  · split
    · exact (sameCourse_setAxleSpeed i e.time e.speed s).trans (sameCourse_resolveSpacing i _)
    · exact sameCourse_self s
  · exact sameCourse_self s

theorem SameCourse.passage (h : SameCourse s t) (hp : s.passage = some p) : ∃ q, t.passage = some q ∧ q.course = p.course := by
  have hcourse := h.course
  rw [hp] at hcourse
  exact Option.map_eq_some_iff.mp hcourse

theorem axle_of_course {q : Passage} (h : q.course = p.course) (ha : p.axle i = some a) :
    ∃ b, q.axle i = some b ∧ b.history = a.history ∧ b.reversed = a.reversed := by
  unfold Passage.axle at ha ⊢
  split at ha
  case isTrue => cases ha
  case isFalse hi =>
    have hat := congrArg (fun c : Course => c.axles[i - 1]?) h
    dsimp only [Passage.course] at hat
    rw [List.getElem?_map, List.getElem?_map, ha] at hat
    obtain ⟨b, hb, hcourse⟩ := Option.map_eq_some_iff.mp hat
    exact ⟨b, by rw [if_neg hi]; exact hb, congrArg Prod.fst hcourse, congrArg Prod.snd hcourse⟩

end

/-! ### A crossing of an axle with a record (R38) -/

section
variable {s : State} {x : Crossing} {p : Passage} {i : Nat} {a : AxleRecord} {back : Bool}

theorem countCrossing_keeps (r : Applied) (k : Nat) (p : Passage) :
    countCrossing r k p = { p with counts := (countCrossing r k p).counts, total := (countCrossing r k p).total } := by
  cases r <;> rfl

theorem axle_countCrossing (r : Applied) (k : Nat) (p : Passage) (i : Nat) : (countCrossing r k p).axle i = p.axle i := by
  rw [countCrossing_keeps]
  rfl

/-- The part as an applied crossing of an axle with a record comes to WIN: counted, joined to its record, with the speed and the spacing of the reference transducer (R32 to R34, R38, R39, R42). -/
def State.moved (s : State) (r : Applied) (k i : Nat) (back : Bool) (e : HistEntry) : State :=
  ((s.count r k).onAxle i (recordCrossing e back)).referenceCrossing i e

theorem applyCrossing_recorded {e : HistEntry} (hp : s.passage = some p) (ha : p.axle i = some a)
    (hr : crossingRule p x = if back then .backward i else .forward i)
    (he : e = ⟨x.wt, x.dir, x.time, crossingSpeed s.tables a.history.getLast? x, false⟩) :
    s.applyCrossing x = (s.moved (crossingRule p x) (entryPlace p.dir x.wt) i back e).handOn i e := by
  have hcounted : (s.count (crossingRule p x) (entryPlace p.dir x.wt)).axle i = some a := by
    unfold State.count State.axle
    rw [passage_onAxt, passage_onPassage, hp]
    exact (axle_countCrossing _ _ p i).trans ha
  rw [applyCrossing_moves hp hr, moveAxle_some hcounted, entryFor_some hcounted, he]
  rfl

/-- The part as the crossing comes to WIN: the counts moved, the crossing joined to the axle's record, the contexts, tables and commit as they were (R32 to R34, R38). -/
theorem moved_effect {r : Applied} {k : Nat} (e : HistEntry) (hp : s.passage = some p) (ha : p.axle i = some a) :
    ∃ q, (s.moved r k i back e).passage = some q ∧ q.contexts = p.contexts ∧ q.dir = p.dir
      ∧ q.counts = (countCrossing r k p).counts ∧ q.total = (countCrossing r k p).total
      ∧ (∃ b, q.axle i = some b ∧ b.history = joinCrossing e a.history ∧ b.reversed = (a.reversed || back))
      ∧ (s.moved r k i back e).tables = s.tables ∧ (s.moved r k i back e).commit = s.commit := by
  have hsame := sameCourse_referenceCrossing i e ((s.count r k).onAxle i (recordCrossing e back))
  have hcounted : ((s.count r k).onAxle i (recordCrossing e back)).passage
      = some { countCrossing r k p with axles := (countCrossing r k p).axles.modify (i - 1) (recordCrossing e back) } := by
    unfold State.onAxle State.count
    rw [passage_onPassage, passage_onAxt, passage_onPassage, hp]
    rfl
  have haxle : (countCrossing r k p).axle i = some a := (axle_countCrossing r k p i).trans ha
  obtain ⟨q, hq, hcourse⟩ := hsame.passage hcounted
  obtain ⟨b, hb, hhistory, hreversed⟩ := axle_of_course hcourse (passageAxle_modify haxle (recordCrossing e back))
  refine ⟨q, hq, ?_, ?_, congrArg Course.counts hcourse, congrArg Course.total hcourse, ⟨b, hb, hhistory, hreversed⟩,
    hsame.tables, hsame.commit⟩
  · exact (congrArg Course.contexts hcourse).trans (show (countCrossing r k p).contexts = p.contexts by rw [countCrossing_keeps])
  · exact (congrArg Course.dir hcourse).trans (show (countCrossing r k p).dir = p.dir by rw [countCrossing_keeps])

end

/-! ### WIN takes a crossing (R54, R60) -/

section
variable {s : State} {p : Passage} {i : Nat} {e : HistEntry}

/-- The contexts of an axle as WIN takes a crossing of it: closed, or given the crossing (R60). -/
def State.crossContexts (s : State) (p : Passage) (i : Nat) (e : HistEntry) : State :=
  if e.dir ≠ p.dir then
    (s.dropContexts i).onAxle i fun a => { a with reversedInWindow := a.reversedInWindow || s.hasContext i }
  else if e.speed.isSome then
    s.onPassage fun q =>
      { q with contexts := q.contexts.map fun c =>
          if c.axle = i ∧ c.settling.isNone then { c with settling := some (settlingOf e) } else c }
  else s.dropContexts i

theorem winCrossing_eq (hp : s.passage = some p) : s.winCrossing i e
    = ((s.crossContexts p i e).settleAxle i (settlingOf e)).onAxle i fun a => { a with lostWindows := [] } := by
  unfold State.winCrossing
  rw [hp]
  rfl

theorem hasContext_iff (hp : s.passage = some p) : s.hasContext i = true ↔ ∃ c ∈ p.contexts, c.axle = i := by
  unfold State.hasContext
  rw [hp]
  simp

/-- What a crossing does to the contexts of its axle before the parts are settled, and to the axle's record (R60). -/
structure Crosses (p q : Passage) (i : Nat) (e : HistEntry) : Prop where
  given : e.dir = p.dir ∧ e.speed.isSome = true → q.contexts = p.contexts.map fun c =>
    if c.axle = i ∧ c.settling = none then { c with settling := some ⟨e.wt, e.dir, e.time, e.speed⟩ } else c
  closed : e.dir ≠ p.dir ∨ e.speed = none → q.contexts = p.contexts.filter fun c => c.axle ≠ i
  axle : ∀ a, p.axle i = some a → ∃ b, q.axle i = some b
    ∧ (b.reversedInWindow = true ↔ a.reversedInWindow = true ∨ (e.dir ≠ p.dir ∧ ∃ c ∈ p.contexts, c.axle = i))

theorem crossContexts_crosses (hp : s.passage = some p) (i : Nat) (e : HistEntry) :
    ∃ q, (s.crossContexts p i e).passage = some q ∧ Crosses p q i e := by
  have hdrop : (s.dropContexts i).passage = some { p with contexts := p.contexts.filter fun c => c.axle ≠ i } := by
    rw [State.dropContexts, passage_onPassage, hp]
    rfl
  unfold State.crossContexts
  split
  case isTrue hdir =>
    have hmark : ((s.dropContexts i).onAxle i fun a => { a with reversedInWindow := a.reversedInWindow || s.hasContext i }).passage
        = some { p with
            contexts := p.contexts.filter fun c => c.axle ≠ i
            axles := p.axles.modify (i - 1) fun a => { a with reversedInWindow := a.reversedInWindow || s.hasContext i } } := by
      rw [State.onAxle, passage_onPassage, hdrop]
      rfl
    refine ⟨_, hmark, fun h => absurd h.1 hdir, fun _ => rfl, fun a ha => ⟨_, passageAxle_modify ha _, ?_⟩⟩
    rw [Bool.or_eq_true, hasContext_iff hp]
    exact or_congr_right (and_iff_right hdir).symm
  case isFalse hdir =>
    have hrecord : ∀ a : AxleRecord, a.reversedInWindow = true
        ↔ a.reversedInWindow = true ∨ (e.dir ≠ p.dir ∧ ∃ c ∈ p.contexts, c.axle = i) :=
      fun a => (or_iff_left fun h => hdir h.1).symm
    split
    case isTrue hspeed =>
      have hno : ¬ (e.dir ≠ p.dir ∨ e.speed = none) := by
        rintro (h | h)
        · exact hdir h
        · rw [h] at hspeed
          cases hspeed
      rw [onPassage_some hp]
      refine ⟨_, rfl, fun _ => ?_, fun h => absurd h hno, fun a ha => ⟨a, ha, hrecord a⟩⟩
      simp only [Option.isNone_iff_eq_none]
      rfl
    case isFalse hspeed =>
      exact ⟨_, hdrop, fun h => absurd h.2 hspeed, fun _ => rfl, fun a ha => ⟨a, ha, hrecord a⟩⟩

/-- Settling an axle, with a record or without one, lets the contexts stand (R62). -/
theorem contexts_settleAxle (hp : s.passage = some p) (i : Nat) (x : Settling) :
    ∃ q, (s.settleAxle i x).passage = some q ∧ q.contexts = p.contexts := by
  obtain ha | ⟨a, ha⟩ := (s.axle i).eq_none_or_eq_some
  · exact ⟨p, by rw [settleAxle_none x ha, hp], rfl⟩
  · obtain ⟨⟨q, hq, hcontexts, -⟩, -⟩ := settleAxle_next x hp ha
    exact ⟨q, hq, hcontexts⟩

end

/-! ### The test of R62 -/

theorem settleVerdict_wrong (g : Tables) (tol : Nat) {entry : Direction} {b : Basis} {x : Settling}
    (h : x.dir ≠ entry ∨ wtNext b.wt entry ≠ some x.wt) : settleVerdict g tol entry b x = (.unsteady, none) := if_pos h

theorem settleVerdict_next {g : Tables} {tol err : Nat} {entry : Direction} {b : Basis} {x : Settling}
    (hd : x.dir = entry) (hw : wtNext b.wt entry = some x.wt)
    (he : err = divRoundNat ((timeDiff x.time (later b.time (divRoundNat
      ((wtPosition g x.wt - wtPosition g b.wt).natAbs * 1000000) b.speed))).natAbs * b.speed) 1000000) :
    settleVerdict g tol entry b x = (if err ≤ tol then .confirmed else .unsteady, some err) := by
  unfold settleVerdict
  rw [if_neg (fun h => h.elim (absurd hd) (absurd hw)), he]

/-! ### The effects on the passage (R39, R60, R62) -/

section
variable {s : State} {p : Passage} {i : Nat} {e : HistEntry}

theorem axle_of_passage (hp : s.passage = some p) (i : Nat) : s.axle i = p.axle i := by
  unfold State.axle
  rw [hp]
  rfl

/-- WIN closes or feeds the contexts of the axle, settles its parts and removes its lost-context marks (R54, R60, R62). -/
theorem winCrossing_effect (hp : s.passage = some p) (i : Nat) (e : HistEntry) : ∃ q, (s.winCrossing i e).passage = some q
    ∧ (e.dir = p.dir ∧ e.speed.isSome = true → q.contexts = p.contexts.map fun c =>
        if c.axle = i ∧ c.settling = none then { c with settling := some ⟨e.wt, e.dir, e.time, e.speed⟩ } else c)
    ∧ (e.dir ≠ p.dir ∨ e.speed = none → q.contexts = p.contexts.filter fun c => c.axle ≠ i)
    ∧ (∀ a, p.axle i = some a → ∃ b, q.axle i = some b ∧ b.lostWindows = []
        ∧ (b.reversedInWindow = true ↔ a.reversedInWindow = true ∨ (e.dir ≠ p.dir ∧ ∃ c ∈ p.contexts, c.axle = i))
        ∧ (∀ k r c, commonOf b k r = some c → c.settlement ≠ .provisional)) := by
  obtain ⟨q, hq, hcross⟩ := crossContexts_crosses hp i e
  obtain ⟨w, hw, hcontexts⟩ := contexts_settleAxle hq i (settlingOf e)
  have hwin : (s.winCrossing i e).passage = some { w with axles := w.axles.modify (i - 1) fun a => { a with lostWindows := [] } } := by
    rw [winCrossing_eq hp, State.onAxle, passage_onPassage, hw]
    rfl
  refine ⟨_, hwin, fun h => hcontexts.trans (hcross.given h), fun h => hcontexts.trans (hcross.closed h), fun a ha => ?_⟩
  obtain ⟨b, hb, hreversed⟩ := hcross.axle a ha
  obtain ⟨-, y, hy, -, hy2, hsettled⟩ := settleAxle_next (settlingOf e) hq ((axle_of_passage hq i).trans hb)
  exact ⟨_, passageAxle_modify ((axle_of_passage hw i).symm.trans hy) _, rfl, by rw [← hreversed, ← hy2],
    fun k r c hc => hsettled k r c (by cases k <;> exact hc)⟩

/-- The reference crossing's speed becomes the axle's speed (R39). -/
theorem axle_setAxleSpeed {a : AxleRecord} (t : LoopTime) (v : Option Nat) (ha : s.axle i = some a) :
    ∃ b, (s.setAxleSpeed i t v).axle i = some b ∧ b.speed = v ∧ b.history = a.history := by
  obtain ⟨-, -, hi, -⟩ := axle_at ha
  refine ⟨{ a with reference := some ⟨t, timeDiff s.now t⟩, speed := v }, ?_, rfl, rfl⟩
  have haxle := axle_onAxle s i i (fun x => { x with reference := some ⟨t, timeDiff s.now t⟩, speed := v }) hi
  rw [ha, Option.map_some, if_pos rfl] at haxle
  exact haxle

/-- A PROVISIONAL part bears its verdict once it is settled (R62). -/
theorem commonOf_settlePart {a : AxleRecord} {c : PartCommon} {k : PartKind} {r : Rail} (x : Settling) (hp : s.passage = some p)
    (ha : p.axle i = some a) (hc : commonOf a k r = some c) (hs : c.settlement = .provisional) :
    ∃ b, (s.settlePart i x (k, r)).axle i = some b ∧ commonOf b k r = some { c with
      settlement := (settleVerdict s.tables s.positionTolerance p.dir c.basis x).1
      posError := (settleVerdict s.tables s.positionTolerance p.dir c.basis x).2 } := by
  have hsa : s.axle i = some a := (axle_of_passage hp i).trans ha
  obtain ⟨-, -, hi, -⟩ := axle_at hsa
  rw [settlePart_provisional x k r hp hsa hc hs]
  obtain ⟨b, hb, hcommon, -⟩ := axle_settleAs hsa k r (settleVerdict s.tables s.positionTolerance p.dir c.basis x).1
    (settleVerdict s.tables s.positionTolerance p.dir c.basis x).2 hi
  exact ⟨b, hb, by rw [hcommon, if_pos ⟨rfl, rfl, rfl⟩, hc]; rfl⟩

end

/-! ### Past the filters (R30 to R37) -/

section
variable {now : LoopTime} {dt : Nat} {x : Crossing} {p q : Passage}

/-- Past the filters the crossing rule finds the direction, the counts and the total as they were (R32). -/
theorem Passage.Met.dir (h : p.Met now dt q) : (q.filtered x).dir = p.dir := by
  obtain ⟨c, hc⟩ := h.ticked
  rw [hc]
  rfl

theorem Passage.Met.rule (h : p.Met now dt q) : crossingRule (q.filtered x) x = crossingRule p x := by
  obtain ⟨c, hc⟩ := h.ticked
  rw [hc]
  rfl

theorem Passage.Met.counts (h : p.Met now dt q) (r : Applied) (k : Nat) :
    (countCrossing r k (q.filtered x)).counts = (countCrossing r k p).counts := by
  obtain ⟨c, hc⟩ := h.ticked
  rw [hc]
  cases r <;> rfl

theorem Passage.Met.total (h : p.Met now dt q) (r : Applied) (k : Nat) :
    (countCrossing r k (q.filtered x)).total = (countCrossing r k p).total := by
  obtain ⟨c, hc⟩ := h.ticked
  rw [hc]
  cases r <;> rfl

/-- Past the filters the records, the contexts, the marks and the flags are those before (R30, R31). -/
theorem Passage.Met.keeps (h : p.Met now dt q) : (q.filtered x).axles = (tickPassage now dt p).axles
    ∧ (q.filtered x).contexts = p.contexts ∧ (q.filtered x).marks = p.marks ∧ (q.filtered x).flags = p.flags
    ∧ (q.filtered x).counters.sequence = p.counters.sequence := by
  refine ⟨?_, ?_, ?_, ?_, h.sequence⟩
  all_goals
    obtain ⟨c, hc⟩ := h.ticked
    rw [hc]
    rfl

theorem Passage.Met.axle (h : p.Met now dt q) (i : Nat) : (q.filtered x).axle i = (tickPassage now dt p).axle i := by
  unfold Passage.axle
  rw [h.keeps.1]

theorem pulseRecord_filtered (x : Crossing) (q : Passage) : pulseRecord (q.filtered x) x.wt x.dir = some x.time :=
  pulseRecord_setPulseRecord_self ..

end

/-- A crossing of a counted axle without a record moves the counts alone (R37). -/
theorem applyCrossing_unrecorded {s : State} {x : Crossing} {p : Passage} {i : Nat} (hp : s.passage = some p)
    (hr : crossingRule p x = .forward i ∨ crossingRule p x = .backward i) (ha : p.axle i = none) :
    s.applyCrossing x = s.count (crossingRule p x) (entryPlace p.dir x.wt) := by
  have hcounted : (s.count (crossingRule p x) (entryPlace p.dir x.wt)).axle i = none := by
    unfold State.count State.axle
    rw [passage_onAxt, passage_onPassage, hp]
    exact (axle_countCrossing _ _ p i).trans ha
  rcases hr with hr | hr
  · rw [applyCrossing_moves (back := false) hp hr, moveAxle_none hcounted]
  · rw [applyCrossing_moves (back := true) hp hr, moveAxle_none hcounted]

/-! ### The statement -/

/-- Settles O49: the filters and the crossing rule by their outcomes, WIN by what it does to the contexts and to the parts. -/
theorem filtersDiscardCrossings : Obligations.FiltersDiscardCrossings := by
  refine ⟨fun s dt x rest p r hpow hq hs hp hr hx => ?late, fun s dt tdp x rest p r hpow hq hs hp htdp ho hr hx => ?double,
    fun s dt i back x rest p a e hpow hq hs hp ho hd hrule ha he => ?recorded,
    fun s dt x rest p hpow hq hs hp ho hd hnone => ?unrecorded,
    fun s i t v => ⟨rfl, fun a ha => axle_setAxleSpeed t v ha⟩, fun s i e p hp => winCrossing_effect hp i e,
    fun s i x k r p a c hp ha hc => ⟨fun h => settlePart_settled x k r ?settled, commonOf_settlePart x hp ha hc⟩,
    fun g tol err entry b x => ⟨settleVerdict_wrong g tol, fun hd hw he => ⟨fun h => ?confirmed, fun h => ?unsteady⟩⟩⟩
  case late =>
    obtain ⟨q, hmet, hexec⟩ := exec_crossingTake_passage (dt := dt) hpow hq hs hp
    obtain ⟨haxt, hscu, hpassage, -, -⟩ := refuseCrossing_effect (s := s.meeting dt rest q) rfl
    obtain ⟨c, hc⟩ := hmet.ticked
    rw [filterCrossing_late (failsOrder_iff.mpr ⟨r, by rw [hc]; exact hr, hx⟩)] at hexec
    refine ⟨_, _, hexec, by rw [passage_onPassage, hpassage]; rfl, by rw [axt_onPassage, haxt]; rfl, ?_⟩
    refine ⟨by rw [hc]; rfl, by rw [hc]; rfl, by rw [hc]; exact hr, by rw [hc]; exact List.length_map .., ?_, rfl,
      by rw [hc]; rfl, by rw [hc]; rfl, by rw [scu_onPassage, hscu]; exact hs⟩
    exact (bump_eq_min _).trans (by rw [hmet.sequence])
  case double =>
    obtain ⟨q, hmet, hexec⟩ := exec_crossingTake_passage (dt := dt) hpow hq hs hp
    obtain ⟨c, hc⟩ := hmet.ticked
    rw [filterCrossing_double (failsOrder_false fun o h => ho o (by rwa [hc] at h))
      (isDoublePulse_iff.mpr ⟨r, by rw [hc]; exact hr, by rw [htdp]; exact hx⟩)] at hexec
    refine ⟨_, _, hexec, rfl, rfl, by rw [hc]; rfl, by rw [hc]; rfl, rfl, by rw [hc]; exact hr, by rw [hc]; rfl, ?_, hmet.sequence⟩
    exact (bump_eq_min _).trans (by rw [hmet.doublePulses])
  case recorded =>
    obtain ⟨q, hmet, hexec⟩ := exec_crossingTake_filtered (dt := dt) hpow hq hs hp ho hd
    have haxle := (hmet.axle (x := x) i).trans ha
    rw [applyCrossing_recorded (s := s.meeting dt rest (q.filtered x)) rfl haxle (hmet.rule.trans hrule) he, hmet.rule, hmet.dir] at hexec
    obtain ⟨w, hw, hcontexts, hdir, hcounts, htotal, hrecord, htables, hcommit⟩ :=
      moved_effect (s := s.meeting dt rest (q.filtered x)) (back := back) (r := crossingRule p x) (k := entryPlace p.dir x.wt) e rfl haxle
    refine ⟨_, _, w, hw, hcontexts.trans hmet.keeps.2.1, hdir.trans hmet.dir, hcounts.trans (hmet.counts _ _), ?_, hrecord, htables,
      hcommit, rfl, hexec⟩
    rw [htotal, hmet.total, hrule]
    cases back <;> rfl
  case unrecorded =>
    obtain ⟨q, hmet, hexec⟩ := exec_crossingTake_filtered (dt := dt) hpow hq hs hp ho hd
    obtain ⟨haxles, hcontexts, hmarks, hflags, hsequence⟩ := hmet.keeps (x := x)
    have hcounts := hmet.counts (x := x) (crossingRule p x) (entryPlace p.dir x.wt)
    have htotal := hmet.total (x := x) (crossingRule p x) (entryPlace p.dir x.wt)
    cases hrule : crossingRule p x <;> rw [hrule] at hcounts htotal
    case refused =>
      rw [applyCrossing_refused (s := s.meeting dt rest (q.filtered x)) rfl (hmet.rule.trans hrule)] at hexec
      obtain ⟨haxt, hscu, hpassage, -, hraised⟩ := refuseCrossing_effect (s := s.meeting dt rest (q.filtered x)) rfl
      refine ⟨_, _, hexec, congrArg (Option.map (endTimers s.standingTime s.clearHold)) hpassage, by rw [axt_onPassage, haxt]; rfl,
        by rw [scu_onPassage, hscu]; exact hs, rfl, pulseRecord_filtered x q, hcounts, htotal, hcontexts, hmarks, rfl, rfl,
        nofun, fun _ => ⟨hcounts, htotal, haxles, ?_, ?_, ?_, fun h => ?_⟩, nofun⟩
      · exact (bump_eq_min _).trans (by rw [hsequence])
      · exact congrArg (fun f : PassageFlags => { f with suspect := true }) hflags
      · rw [trackingSuspect_mem_faultSet_iff, State.trackingSuspect, passage_onPassage, hpassage]
        rfl
      · exact raised_congr (rps_onPassage _ _) (hraised (by rw [hflags]; exact h))
    case entered n =>
      rw [applyCrossing_entered (s := s.meeting dt rest (q.filtered x)) rfl (hmet.rule.trans hrule), hmet.dir] at hexec
      obtain ⟨hplace, hn⟩ := crossingRule_eq_entered hrule
      refine ⟨_, _, hexec, congrArg some (congrArg (endTimers _ _) (createAxle_keeps n x _)), rfl, hs, rfl, pulseRecord_filtered x q,
        hcounts, htotal, hcontexts, hmarks, rfl, rfl, fun m hm => ?_, nofun, nofun⟩
      cases hm
      refine ⟨hplace, hn, rfl, hcounts.trans (by rw [hplace]; rfl), hsequence, fun hle => ?_, fun hlt => ?_⟩
      · rw [createAxle_recorded hle]
        exact ⟨hflags, AxleRecord.created n x, congrArg (· ++ [AxleRecord.created n x]) haxles, rfl, rfl, rfl, rfl, rfl, rfl,
          commonOf_created n x, rfl⟩
      · rw [createAxle_truncated hlt]
        exact ⟨haxles, congrArg (fun f : PassageFlags => { f with truncated := true }) hflags⟩
    case forward i | backward i =>
      have haxle := (hmet.axle (x := x) i).trans (hnone i (by simp [hrule]))
      rw [applyCrossing_unrecorded (s := s.meeting dt rest (q.filtered x)) rfl (by simp [hmet.rule, hrule]) haxle, hmet.rule, hmet.dir,
        hrule] at hexec
      exact ⟨_, _, hexec, rfl, rfl, hs, rfl, pulseRecord_filtered x q, hcounts, htotal, hcontexts, hmarks, rfl, rfl, nofun, nofun,
        fun _ _ => ⟨haxles, hflags, hsequence⟩⟩
  case settled =>
    intro b d hb hd
    cases ((axle_of_passage hp i).trans ha).symm.trans hb
    cases hc.symm.trans hd
    exact h
  case confirmed => rw [settleVerdict_next hd hw he, if_pos h]
  case unsteady => rw [settleVerdict_next hd hw he, if_neg (Nat.not_le.mpr h)]

end Sys2Proof.Machine
end
